-- ==== Sys2Proof/Word.lean ====
section
/-! DEFINITION. The machine's words and the plain arithmetic on them (R3): 32-bit code and register words, bytes,
64-bit values, little-endian byte order. -/
namespace Sys2Proof

/-- A code or register word of 32 bits (R97, R100). -/
abbrev Word := BitVec 32

/-- A byte. -/
abbrev Byte := BitVec 8

/-- A 64-bit value: a tagged pointer, a pair of registers, an object tag. -/
abbrev Quad := BitVec 64

/-- Bits [hi:lo] of a number, both ends included (R3). -/
def bitsOf (x hi lo : Nat) : Nat := (x / 2 ^ lo) % 2 ^ (hi + 1 - lo)

/-- Whether bit `n` of a number is set. -/
def bitOf (x n : Nat) : Bool := (x / 2 ^ n) % 2 == 1

/-- `n` bytes of a number, least significant first (R3). -/
def bytesOf : Nat → Nat → List Byte
  | 0, _ => []
  | n + 1, x => BitVec.ofNat 8 x :: bytesOf n (x / 256)

/-- The number that bytes stand for, least significant first (R3). -/
def ofBytes : List Byte → Nat
  | [] => 0
  | b :: bs => b.toNat + 256 * ofBytes bs

/-- The signed value of the low `w` bits of a number. -/
def toSigned (w x : Nat) : Int :=
  let y := x % 2 ^ w
  if 2 ^ (w - 1) ≤ y then (y : Int) - (2 ^ w : Nat) else y

/-- `sext(x, n)` of R101 to `w` bits. -/
def sext (n w x : Nat) : BitVec w := BitVec.ofInt w (toSigned n x)

/-- The two words of a pair, as a 64-bit value: the even register holds bits [31:0]. -/
def pairOf (hi lo : Word) : Quad := hi ++ lo

/-- Bits [31:0] of a 64-bit value. -/
def loWord (x : Quad) : Word := x.setWidth 32

/-- Bits [63:32] of a 64-bit value. -/
def hiWord (x : Quad) : Word := (x >>> 32).setWidth 32

end Sys2Proof
end

