-- ==== Sys2Proof/Syntax.lean ====
section
/-! DEFINITION. The instructions and steps of the KX2: one constructor of `Instr` per row of spec/opcode_table.json.
A unit carries its modifier words and the raw fields of its instruction word, so that every legal and illegal unit is a
term; `Instr.check` (Machine/Checks.lean) says which are legal. -/
namespace Sys2Proof

/-- A `modh` word (R109). -/
structure ModH where
  yield : Bool
  pfn : Bool
  rsvd : BitVec 22
  deriving DecidableEq, Repr

/-- A `modx` word (R106, Table 07-4). -/
structure ModX where
  msel : BitVec 4
  z : Bool
  rnd : BitVec 3
  d4 : BitVec 7
  reuse : BitVec 3
  u : Bool
  ord : BitVec 2
  scope : BitVec 3
  deriving DecidableEq, Repr

/-- The modifier words of a unit (R105, R110), its stop bit (R98), and whether a bit that must be zero on a later
word (its stop bit, or bit 0 of a `brm` target, R114) is set. -/
structure Mods where
  stop : Bool
  h : Option ModH
  x : Option ModX
  i : Option (BitVec 24)
  stray : Bool
  deriving DecidableEq, Repr

/-- Fields of an R-format word (Table 07-1). -/
structure RF where
  a : BitVec 7
  b : BitVec 7
  c : BitVec 7
  k : BitVec 2
  deriving DecidableEq, Repr

/-- Fields of an I-format word (Table 07-1). -/
structure IF where
  a : BitVec 7
  imm : BitVec 16
  deriving DecidableEq, Repr

/-- Fields of an M-format word (Table 07-1). -/
structure MF where
  data : BitVec 7
  addr : BitVec 7
  off : BitVec 9
  deriving DecidableEq, Repr

/-- Fields of a B-format word (Table 07-1). -/
structure BF where
  off : BitVec 23
  deriving DecidableEq, Repr

/-- Fields of a W-format word (Table 07-1). -/
structure WF where
  ld : BitVec 6
  st : BitVec 5
  cp : BitVec 7
  mx : BitVec 4
  zero : BitVec 1
  deriving DecidableEq, Repr

/-- A target word of `brm` without its bit 0 (R114). -/
structure Target where
  msel : BitVec 4
  off : BitVec 27
  deriving DecidableEq, Repr

/-- Why a unit's words are rejected, in the order of R115. -/
inductive Reject where
  /-- R101, R105, R110: trap code 0x41. -/
  | illegalModifier
  /-- R112: trap code 0x40. -/
  | illegalOpcode
  /-- R98, R99, R106, R113: trap code 0x42. -/
  | illegalField
  /-- R100: trap code 0x43. -/
  | illegalOperand
  /-- The words given end before the unit does: a fetch fault on a later word (R97). -/
  | truncated
  deriving DecidableEq, Repr

/-- The PCIe atomic requests that the completer performs (R352). -/
inductive HostAtomic where
  | fetchAdd | swap | cas
  deriving DecidableEq, Repr

/-- What a peer asks of this device's memory (R356, R364): bytes; a write, with its poison marker; or an atomic of R206, by AOP, size
in bytes and operands. -/
inductive PeerAccess where
  | read (n : Nat)
  | write (data : List Byte) (poison : Bool)
  | atomic (aop n v v2 : Nat)
  deriving DecidableEq, Repr

/-- Why groups are pre-empted (R284). -/
inductive PreemptWhy where
  /-- Workgroup `w` is pre-empted, with its cluster set, because region `r` of a higher class has work that fits nowhere. -/
  | room (r w : Nat)
  /-- Workgroup `w` of a shed class stands at a barrier boundary with every fragment before its next unit (R266). -/
  | shed (w : Nat)
  deriving DecidableEq, Repr

/-- Where an ECC error arises (R364). -/
inductive SoftError where
  /-- A correctable error anywhere. -/
  | corrected
  /-- An uncorrectable main-memory or L2 line at a physical address. -/
  | memory (pa : Nat)
  /-- An uncorrectable line of queue storage: record `k`, counted from the head, of queue `q` of a region. -/
  | queue (r q k : Nat)
  /-- An uncorrectable scratchpad line of a core. -/
  | scratchpad (core line : Nat)
  /-- An uncorrectable register of a group: number `n` of file 0 to 3, which are V, S, T and M. -/
  | register (g file n : Nat)
  /-- An uncorrectable split-table entry of a group. -/
  | entry (g e : Nat)
  deriving DecidableEq, Repr

/-- Every row of spec/opcode_table.json: first the steps of the device and its surroundings that have operands, then the
instructions in opcode order, then the steps without operands. A step's operands are its physical inputs (log 16) and the choices that
the spec leaves open (log 1, 30). -/
inductive Instr where
  /-- ACCEPT_READ (R38): A host read of ACCEPT n examines intake slot n, takes and validates a new command, writes its ACCEPTED or REFUSED record and returns the outcome, or answers BUSY while JSTAT.FULL is set. -/
  | acceptRead (n : Nat)
  /-- JACK_WRITE (R35): A host write of JACK records the highest consumed SEQ, is ignored below the current value and clamped to JHEAD, and frees ring space for held records. -/
  | jackWrite (v : Nat)
  /-- CTX_CREATE (R37): Command 0x01 opens a FREE context with its page-table root, private reserve, CONF flag and default budget, class and weight. -/
  | ctxCreate (c : Nat)
  /-- CTX_DESTROY (R34): Command 0x02 kills every group of the context, fails its unfinished commands with CTX_DESTROYED and moves it to CLOSING. -/
  | ctxDestroy (c : Nat)
  /-- CONTEXT_CLOSE_COMPLETE (R33): A CLOSING context whose groups are gone, operations complete and references released has its key slot and memory cleared and becomes FREE. -/
  | contextCloseComplete (c : Nat)
  /-- LOAD (R32): Command 0x03 reads and checks a code object image, shares it by content hash or makes it resident, and completes with its object tag or fails with a load refusal reason. -/
  | load (c : Nat)
  /-- UNLOAD (R18): Command 0x04 decrements an object's reference count and starts draining at zero. -/
  | unload (c : Nat)
  /-- START (R47): Command 0x05 starts the root region described by an RCB and completes when the region and all its descendants have ended. -/
  | start (c : Nat)
  /-- TRANSFER (R288): Command 0x06 makes every group of a kernel pending for transfer to a target version and completes when none is pending, with the count moved. -/
  | transfer (c : Nat)
  /-- MIGRATE_OUT (R290): Command 0x07 saves a context, with portable group images, unplaced work and queues, into a migration image and closes it. -/
  | migrateOut (c : Nat)
  /-- MIGRATE_IN (R291): Command 0x08 makes a FREE context from a migration image, loads its objects, rebinds portable groups and dispatches unplaced work. -/
  | migrateIn (c : Nat)
  /-- JSIGN (R43): Command 0x09 writes a signed journal head and completes with its SEQ. -/
  | jsign (c : Nat)
  /-- ATTEST_REPORT (R361): ATTEST with MODE 0 writes a signed attestation report of boot, firmware, context key and resident objects into a host buffer. -/
  | attestReport (c : Nat)
  /-- ATTEST_KEY_INSTALL (R362): ATTEST with MODE 1 unwraps a customer XTS key into the confidential context's key slot, unsealing a sealed migrated image. -/
  | attestKeyInstall (c : Nat)
  /-- XINV_WRITE (R183): A host write of XINV requests invalidation of cached translations for a range or a whole context. -/
  | xinvWrite (v : Nat)
  /-- DEVNUM_WRITE (R355): The first write of DEVNUM after reset sets the device number, and later writes are ignored. -/
  | devnumWrite (v : Nat)
  /-- DBG_HALT (R311): DBG OP 1 marks every live fragment of a context halt-pending so each stops at its next stop site. -/
  | dbgHalt (c : Nat)
  /-- DBG_RESUME (R311): DBG OP 2 makes every HALTED fragment of the context READY and clears HALT and QUIET. -/
  | dbgResume (c : Nat)
  /-- DBG_SAVE (R311): DBG OP 3 pre-empts every group of the context and sets SAVED, deferred until QUIET when requested earlier. -/
  | dbgSave (c : Nat)
  /-- BP_WRITE (R310): A write of a breakpoint register sets its object tag, ordinal, context, action and enable, and clears HITS. -/
  | bpWrite (n : Nat) (high : Bool) (v : Nat)
  /-- SAMPLE_TICK (R315): Every 2^(8+PERIOD) slot cycles each slot holding the sampled context adds one ISSUE, MEMST, SYNC or IDLE count to the bin of a fragment's PC. -/
  | sampleTick (core slot : Nat)
  /-- TRD_WRITE (R317): A host write of TRD records consumed trace bytes, ignored above WR, freeing ring space. -/
  | trdWrite (v : Nat)
  /-- LINK_READ (R355): A read of LINK p returns the port status and clears its CRCERR count. -/
  | linkRead (p : Nat)
  /-- REGISTER_WRITE (R35): A host write to a window A location with no behaviour of its own stores the value, or is ignored at an unlisted or read-only offset. -/
  | registerWrite (off : Nat) (data : List Byte)
  /-- HOST_WINDOW_B_READ (R352): A host read through window B returns raw device memory, poisoned data as a poisoned TLP, or Unsupported Request beyond installed memory. -/
  | hostWindowBRead (a n : Nat)
  /-- HOST_WINDOW_B_WRITE (R352): A host write through window B stores raw bytes to device memory, or completes as Unsupported Request beyond installed memory. -/
  | hostWindowBWrite (a : Nat) (data : List Byte) (poison : Bool)
  /-- HOST_ATOMIC_REQUEST (R352): A host PCIe FetchAdd, Swap or CAS on device memory is performed by the AtomicOps completer. -/
  | hostAtomicRequest (k : HostAtomic) (a n : Nat) (x y : Nat)
  /-- WORKGROUP_PLACE (R53): The distributor places the workgroup or cluster set at a grid's cursor, or a task pool's groups, on a core that fits, and starts its groups. -/
  | workgroupPlace (r : Nat) (cores : List Nat)
  /-- PIPELINE_START (R61): A stage pipeline that can hold all its queues and MINC cores per stage receives them, starts GPC groups per core and begins seeding. -/
  | pipelineStart (r : Nat) (cores : List Nat)
  /-- SEED_PUSH (R62): The next seed record is pushed into queue 0 once it has room, failing the region if the record cannot be read. -/
  | seedPush (r : Nat)
  /-- QPUSH_COMPLETE (R62): A parked qpush, or a parked successor push of tdone, enters its record oldest first as queue space appears. -/
  | qpushComplete (r q : Nat)
  /-- QPOP_COMPLETE (R62): A record arriving at a queue is delivered to the oldest parked qpop, which then writes it and branches to its entry. -/
  | qpopComplete (r q : Nat)
  /-- DRESSER_SAMPLE (R65): Every RIVL the Dresser samples queue occupancies and starts at most one core move or core grant per pipeline. -/
  | dresserSample (r core : Nat)
  /-- LOAD_COMPLETE (R201): The result of an outstanding ld, lds, sld, atom or tset is written to its register and the ld counter is lowered. -/
  | loadComplete (o : Nat) (lanes : Word)
  /-- STORE_PERFORM (R241): An issued store or red performs at its core, or at its scope for a release, and the st counter is lowered. -/
  | storePerform (o : Nat) (lanes : Word)
  /-- COPY_SECTOR_LAND (R186): A destination sector of a copy lands or is poisoned, is counted on its barrier, and at the last sector the copy lowers cp. -/
  | copySectorLand (o k : Nat)
  /-- COPY_SOURCE_READ_DONE (R190): The copy engine has read the last byte of a scratchpad source and its Sideboard read entry retires. -/
  | copySourceReadDone (o : Nat)
  /-- BENCH_GRANT (R227): In an engine cycle with less than 4 array cycles queued, the arbiter grants one pass to a ready leader Bench entry and fuses compatible entries. -/
  | benchGrant (cl : Nat)
  /-- MMA_PASS_COMPLETE (R230): A granted pass writes its accumulators and its mma entries lower mx in issue order. -/
  | mmaPassComplete (cl : Nat)
  /-- DATA_FAULT_DETECT (R200): A failure found after issue, such as REMOTE_FAIL or an uncorrectable error, becomes known and is raised at the fragment's next unit boundary or posted. -/
  | dataFaultDetect (o : Nat) (lanes : Word) (cause : Byte)
  /-- REMOTE_ACCESS_RECEIVE (R356): An access from a peer device arrives over a link and performs at this device's home for the line. -/
  | remoteAccessReceive (q : PeerAccess) (pa port : Nat)
  /-- REMOTE_ACCESS_COMPLETE (R356): A peer acknowledges a remote access, completing it and any system-scope release waiting for it. -/
  | remoteAccessComplete (o lane : Nat) (data : List Byte) (poison : Bool)
  /-- REMOTE_TIMEOUT (R357): A remote access unacknowledged within LTO fails with REMOTE_FAIL. -/
  | remoteTimeout (o lane : Nat)
  /-- FLIT_RECEIVE (R355): A 256-byte link flit arrives, is checked by CRC and tag, and is retried at link level on failure. -/
  | flitReceive (p : Nat) (good : Bool)
  /-- LINK_DOWN (R355): A port that fails 8 retries of one flit goes down and its in-flight loads and stores are resent on another port. -/
  | linkDown (p : Nat)
  /-- LINK_UP (R358): A port trains and runs the signed X25519 exchange that derives its per-direction link keys, admitting the peer. -/
  | linkUp (p : Nat) (enc admitted : Bool)
  /-- LINK_KEY_RENEWAL (R358): Before 2^32 flits have been sent under a key, the link key exchange is renewed. -/
  | linkKeyRenewal (p : Nat)
  /-- THROTTLE_NOTIFICATION (R308): A context withheld for 10 us on a cluster has a throttle notification delivered to a group's entry 0xFFFE, or queued if its classes are shed. -/
  | throttleNotification (c : Nat)
  /-- PREEMPT (R285): A pre-emption request stops issue of the chosen workgroups within 1.5 us and begins draining their operations. -/
  | preempt (why : PreemptWhy)
  /-- PREEMPT_SAVE_COMPLETE (R286): Once drained, each group's state, scratchpad and async-slot records are saved into the context's reserve as a release. -/
  | preemptSaveComplete (w : Nat)
  /-- GROUP_RESTORE (R287): A saved workgroup is placed at its SCOFF on a core with room and its state, Bench and Sideboard entries reinstated. -/
  | groupRestore (w : Nat) (cores : List Nat)
  /-- STALL_SAMPLE (R298): Every 10 us each core island samples STALL and recomputes near-threshold mode and TARGET. -/
  | stallSample (cl core n : Nat)
  /-- LEVEL_CHANGE_COMPLETE (R296): An island's change of level completes, clearing CHG, and any newer TARGET starts the next change. -/
  | levelChangeComplete (isl : Nat)
  /-- BOOST_REFILL (R301): Every 10 us boost tokens are refilled from the power headroom and shared among contexts by weight. -/
  | boostRefill (power : Nat)
  /-- WITHHOLD_LEVEL_UPDATE (R302): Every 64 cluster cycles W rises if CREDIT is negative and falls if CREDIT is at least 2^22. -/
  | withholdLevelUpdate (cl n : Nat)
  /-- JUNCTION_TEMPERATURE_CHANGE (R302): A change of a die's junction temperature changes the thermal factor and thus RATE on its clusters. -/
  | junctionTemperatureChange (die t : Nat)
  /-- TELEMETRY_FRAME (R303): A shelf telemetry frame is checked by CRC and SEQ and applies the matching droop point's FRAC and SHEDREQ. -/
  | telemetryFrame (v : Nat)
  /-- UNASSIGNED_OPCODE_UNIT (R112): A fragment issues a unit whose instruction word has an unassigned opcode, such as 0x0000_0000, and raises ILLEGAL_OPCODE, or ILLEGAL_MODIFIER for a bad modifier sequence. -/
  | unassignedOpcodeUnit (code : Reject)
  /-- ENGINE_OPERAND_READ (R190): The matrix engine finishes reading an mma operand, and that operand's Sideboard read entry retires while mx may still be nonzero. -/
  | engineOperandRead (o k : Nat)
  /-- SOFT_ERROR (R364): An ECC error arises of itself in memory, L2, queue storage, scratchpad, a register file or a split table; it is corrected and counted, or it poisons the line or raises POISON at the next reading unit. -/
  | softError (w : SoftError)
  /-- NOP, opcode 0x01 (R122). -/
  | nop (m : Mods) (f : RF)
  /-- BRA, opcode 0x02 (R122). -/
  | bra (m : Mods) (f : BF)
  /-- BRC, opcode 0x03 (R123). -/
  | brc (m : Mods) (f : IF)
  /-- BRC_U, opcode 0x04 (R123). -/
  | brcU (m : Mods) (f : IF)
  /-- BRM, opcode 0x05 (R124). -/
  | brm (m : Mods) (f : RF) (ts : List Target)
  /-- JSET, opcode 0x06 (R125). -/
  | jset (m : Mods) (f : BF)
  /-- JOIN, opcode 0x07 (R125). -/
  | join (m : Mods) (f : RF)
  /-- CALL, opcode 0x08 (R126). -/
  | call (m : Mods) (f : IF)
  /-- CALL_U, opcode 0x09 (R126). -/
  | callU (m : Mods) (f : IF)
  /-- RET, opcode 0x0A (R126). -/
  | ret (m : Mods) (f : RF)
  /-- RET_U, opcode 0x0B (R126). -/
  | retU (m : Mods) (f : RF)
  /-- JMPI, opcode 0x0C (R126). -/
  | jmpi (m : Mods) (f : RF)
  /-- EXIT, opcode 0x0D (R129). -/
  | exit (m : Mods) (f : RF)
  /-- SADD_32, opcode 0x10 (R131). -/
  | sadd32 (m : Mods) (f : RF)
  /-- SADD_64, opcode 0x11 (R131). -/
  | sadd64 (m : Mods) (f : RF)
  /-- SSUB_32, opcode 0x12 (R131). -/
  | ssub32 (m : Mods) (f : RF)
  /-- SSUB_64, opcode 0x13 (R131). -/
  | ssub64 (m : Mods) (f : RF)
  /-- SMUL_32, opcode 0x14 (R131). -/
  | smul32 (m : Mods) (f : RF)
  /-- SMUL_64, opcode 0x15 (R131). -/
  | smul64 (m : Mods) (f : RF)
  /-- SMULH_I32, opcode 0x16 (R131). -/
  | smulhI32 (m : Mods) (f : RF)
  /-- SMULH_N32, opcode 0x17 (R131). -/
  | smulhN32 (m : Mods) (f : RF)
  /-- SAND, opcode 0x18 (R131). -/
  | sand (m : Mods) (f : RF)
  /-- SOR, opcode 0x19 (R131). -/
  | sor (m : Mods) (f : RF)
  /-- SXOR, opcode 0x1A (R131). -/
  | sxor (m : Mods) (f : RF)
  /-- SSHL, opcode 0x1B (R131). -/
  | sshl (m : Mods) (f : RF)
  /-- SSHR, opcode 0x1C (R131). -/
  | sshr (m : Mods) (f : RF)
  /-- SSAR, opcode 0x1D (R131). -/
  | ssar (m : Mods) (f : RF)
  /-- SMIN_I32, opcode 0x1E (R131). -/
  | sminI32 (m : Mods) (f : RF)
  /-- SMIN_N32, opcode 0x1F (R131). -/
  | sminN32 (m : Mods) (f : RF)
  /-- SMAX_I32, opcode 0x20 (R131). -/
  | smaxI32 (m : Mods) (f : RF)
  /-- SMAX_N32, opcode 0x21 (R131). -/
  | smaxN32 (m : Mods) (f : RF)
  /-- SCMP_EQ, opcode 0x22 (R131). -/
  | scmpEq (m : Mods) (f : RF)
  /-- SCMP_NE, opcode 0x23 (R131). -/
  | scmpNe (m : Mods) (f : RF)
  /-- SCMP_LT_I32, opcode 0x24 (R131). -/
  | scmpLtI32 (m : Mods) (f : RF)
  /-- SCMP_LT_N32, opcode 0x25 (R131). -/
  | scmpLtN32 (m : Mods) (f : RF)
  /-- SCMP_LE_I32, opcode 0x26 (R131). -/
  | scmpLeI32 (m : Mods) (f : RF)
  /-- SCMP_LE_N32, opcode 0x27 (R131). -/
  | scmpLeN32 (m : Mods) (f : RF)
  /-- SCMP_GT_I32, opcode 0x28 (R131). -/
  | scmpGtI32 (m : Mods) (f : RF)
  /-- SCMP_GT_N32, opcode 0x29 (R131). -/
  | scmpGtN32 (m : Mods) (f : RF)
  /-- SCMP_GE_I32, opcode 0x2A (R131). -/
  | scmpGeI32 (m : Mods) (f : RF)
  /-- SCMP_GE_N32, opcode 0x2B (R131). -/
  | scmpGeN32 (m : Mods) (f : RF)
  /-- SSEL, opcode 0x2C (R131). -/
  | ssel (m : Mods) (f : RF)
  /-- SMOVI, opcode 0x2D (R132). -/
  | smovi (m : Mods) (f : IF)
  /-- SLD_B32, opcode 0x2E (R133). -/
  | sldB32 (m : Mods) (f : MF)
  /-- SLD_B64, opcode 0x2F (R133). -/
  | sldB64 (m : Mods) (f : MF)
  /-- IADD_32, opcode 0x30 (R134). -/
  | iadd32 (m : Mods) (f : RF)
  /-- IADD_64, opcode 0x31 (R134). -/
  | iadd64 (m : Mods) (f : RF)
  /-- ISUB_32, opcode 0x32 (R134). -/
  | isub32 (m : Mods) (f : RF)
  /-- ISUB_64, opcode 0x33 (R134). -/
  | isub64 (m : Mods) (f : RF)
  /-- IMUL_32, opcode 0x34 (R134). -/
  | imul32 (m : Mods) (f : RF)
  /-- IMUL_64, opcode 0x35 (R134). -/
  | imul64 (m : Mods) (f : RF)
  /-- IMAD, opcode 0x36 (R134). -/
  | imad (m : Mods) (f : RF)
  /-- IMULH_I32, opcode 0x37 (R134). -/
  | imulhI32 (m : Mods) (f : RF)
  /-- IMULH_N32, opcode 0x38 (R134). -/
  | imulhN32 (m : Mods) (f : RF)
  /-- IAND, opcode 0x39 (R134). -/
  | iand (m : Mods) (f : RF)
  /-- IOR, opcode 0x3A (R134). -/
  | ior (m : Mods) (f : RF)
  /-- IXOR, opcode 0x3B (R134). -/
  | ixor (m : Mods) (f : RF)
  /-- ISHL_32, opcode 0x3C (R134). -/
  | ishl32 (m : Mods) (f : RF)
  /-- ISHL_64, opcode 0x3D (R134). -/
  | ishl64 (m : Mods) (f : RF)
  /-- ISHR_32, opcode 0x3E (R134). -/
  | ishr32 (m : Mods) (f : RF)
  /-- ISHR_64, opcode 0x3F (R134). -/
  | ishr64 (m : Mods) (f : RF)
  /-- ISAR_32, opcode 0x40 (R134). -/
  | isar32 (m : Mods) (f : RF)
  /-- ISAR_64, opcode 0x41 (R134). -/
  | isar64 (m : Mods) (f : RF)
  /-- IMIN_I32, opcode 0x42 (R134). -/
  | iminI32 (m : Mods) (f : RF)
  /-- IMIN_N32, opcode 0x43 (R134). -/
  | iminN32 (m : Mods) (f : RF)
  /-- IMAX_I32, opcode 0x44 (R134). -/
  | imaxI32 (m : Mods) (f : RF)
  /-- IMAX_N32, opcode 0x45 (R134). -/
  | imaxN32 (m : Mods) (f : RF)
  /-- IABS, opcode 0x46 (R134). -/
  | iabs (m : Mods) (f : RF)
  /-- POPC_B32, opcode 0x47 (R134). -/
  | popcB32 (m : Mods) (f : RF)
  /-- POPC_B64, opcode 0x48 (R134). -/
  | popcB64 (m : Mods) (f : RF)
  /-- CLZ_B32, opcode 0x49 (R134). -/
  | clzB32 (m : Mods) (f : RF)
  /-- CLZ_B64, opcode 0x4A (R134). -/
  | clzB64 (m : Mods) (f : RF)
  /-- BREV, opcode 0x4B (R134). -/
  | brev (m : Mods) (f : RF)
  /-- BFE_I32, opcode 0x4C (R135). -/
  | bfeI32 (m : Mods) (f : RF)
  /-- BFE_N32, opcode 0x4D (R135). -/
  | bfeN32 (m : Mods) (f : RF)
  /-- BFI, opcode 0x4E (R135). -/
  | bfi (m : Mods) (f : RF)
  /-- ICMP_I32, opcode 0x4F (R136). -/
  | icmpI32 (m : Mods) (f : RF)
  /-- ICMP_N32, opcode 0x50 (R136). -/
  | icmpN32 (m : Mods) (f : RF)
  /-- ICMP_I64, opcode 0x51 (R136). -/
  | icmpI64 (m : Mods) (f : RF)
  /-- ICMP_N64, opcode 0x52 (R136). -/
  | icmpN64 (m : Mods) (f : RF)
  /-- ISEL_B32, opcode 0x53 (R138). -/
  | iselB32 (m : Mods) (f : RF)
  /-- ISEL_B64, opcode 0x54 (R138). -/
  | iselB64 (m : Mods) (f : RF)
  /-- MAND, opcode 0x60 (R139). -/
  | mand (m : Mods) (f : RF)
  /-- MOR, opcode 0x61 (R139). -/
  | mor (m : Mods) (f : RF)
  /-- MXOR, opcode 0x62 (R139). -/
  | mxor (m : Mods) (f : RF)
  /-- MNOT, opcode 0x63 (R139). -/
  | mnot (m : Mods) (f : RF)
  /-- MPOPC, opcode 0x64 (R139). -/
  | mpopc (m : Mods) (f : RF)
  /-- MFIRST, opcode 0x65 (R139). -/
  | mfirst (m : Mods) (f : RF)
  /-- VOTE, opcode 0x66 (R144). -/
  | vote (m : Mods) (f : RF)
  /-- SHFL_IDX, opcode 0x67 (R144). -/
  | shflIdx (m : Mods) (f : RF)
  /-- SHFL_UP, opcode 0x68 (R144). -/
  | shflUp (m : Mods) (f : RF)
  /-- SHFL_DOWN, opcode 0x69 (R144). -/
  | shflDown (m : Mods) (f : RF)
  /-- SHFL_XOR, opcode 0x6A (R144). -/
  | shflXor (m : Mods) (f : RF)
  /-- RDLANE, opcode 0x6B (R144). -/
  | rdlane (m : Mods) (f : RF)
  /-- WRLANE, opcode 0x6C (R144). -/
  | wrlane (m : Mods) (f : RF)
  /-- BCAST, opcode 0x6D (R144). -/
  | bcast (m : Mods) (f : RF)
  /-- REDUX, opcode 0x6E (R144). -/
  | redux (m : Mods) (f : RF)
  /-- FADD_F32, opcode 0x70 (R161). -/
  | faddF32 (m : Mods) (f : RF)
  /-- FADD_F16X2, opcode 0x71 (R162). -/
  | faddF16x2 (m : Mods) (f : RF)
  /-- FSUB_F32, opcode 0x72 (R161). -/
  | fsubF32 (m : Mods) (f : RF)
  /-- FSUB_F16X2, opcode 0x73 (R162). -/
  | fsubF16x2 (m : Mods) (f : RF)
  /-- FMUL_F32, opcode 0x74 (R161). -/
  | fmulF32 (m : Mods) (f : RF)
  /-- FMUL_F16X2, opcode 0x75 (R162). -/
  | fmulF16x2 (m : Mods) (f : RF)
  /-- FFMA_F32, opcode 0x76 (R161). -/
  | ffmaF32 (m : Mods) (f : RF)
  /-- FFMA_F16X2, opcode 0x77 (R162). -/
  | ffmaF16x2 (m : Mods) (f : RF)
  /-- FMIN_F32, opcode 0x78 (R163). -/
  | fminF32 (m : Mods) (f : RF)
  /-- FMIN_F16X2, opcode 0x79 (R163). -/
  | fminF16x2 (m : Mods) (f : RF)
  /-- FMAX_F32, opcode 0x7A (R163). -/
  | fmaxF32 (m : Mods) (f : RF)
  /-- FMAX_F16X2, opcode 0x7B (R163). -/
  | fmaxF16x2 (m : Mods) (f : RF)
  /-- FCMP, opcode 0x7C (R164). -/
  | fcmp (m : Mods) (f : RF)
  /-- FCLASS, opcode 0x7D (R165). -/
  | fclass (m : Mods) (f : RF)
  /-- FRCP, opcode 0x7E (R167). -/
  | frcp (m : Mods) (f : RF)
  /-- FRSQ, opcode 0x7F (R167). -/
  | frsq (m : Mods) (f : RF)
  /-- FSQRT, opcode 0x80 (R166). -/
  | fsqrt (m : Mods) (f : RF)
  /-- FEXP2, opcode 0x81 (R167). -/
  | fexp2 (m : Mods) (f : RF)
  /-- FLOG2, opcode 0x82 (R167). -/
  | flog2 (m : Mods) (f : RF)
  /-- FSIN, opcode 0x83 (R167). -/
  | fsin (m : Mods) (f : RF)
  /-- FCOS, opcode 0x84 (R167). -/
  | fcos (m : Mods) (f : RF)
  /-- CVT_F32, opcode 0x85 (R168). -/
  | cvtF32 (m : Mods) (f : RF)
  /-- CVT_F16, opcode 0x86 (R168). -/
  | cvtF16 (m : Mods) (f : RF)
  /-- CVT_BF16, opcode 0x87 (R168). -/
  | cvtBf16 (m : Mods) (f : RF)
  /-- CVT_INT32, opcode 0x88 (R168). -/
  | cvtInt32 (m : Mods) (f : RF)
  /-- CVT_INT64, opcode 0x89 (R168). -/
  | cvtInt64 (m : Mods) (f : RF)
  /-- CVT_SMALL, opcode 0x8A (R168). -/
  | cvtSmall (m : Mods) (f : RF)
  /-- KBPACK, opcode 0x8B (R172). -/
  | kbpack (m : Mods) (f : RF)
  /-- KBUNPACK, opcode 0x8C (R173). -/
  | kbunpack (m : Mods) (f : RF)
  /-- LD_N8, opcode 0x90 (R203). -/
  | ldN8 (m : Mods) (f : MF)
  /-- LD_I8, opcode 0x91 (R203). -/
  | ldI8 (m : Mods) (f : MF)
  /-- LD_N16, opcode 0x92 (R203). -/
  | ldN16 (m : Mods) (f : MF)
  /-- LD_I16, opcode 0x93 (R203). -/
  | ldI16 (m : Mods) (f : MF)
  /-- LD_B32, opcode 0x94 (R203). -/
  | ldB32 (m : Mods) (f : MF)
  /-- LD_B64, opcode 0x95 (R203). -/
  | ldB64 (m : Mods) (f : MF)
  /-- ST_8, opcode 0x96 (R203). -/
  | st8 (m : Mods) (f : MF)
  /-- ST_16, opcode 0x97 (R203). -/
  | st16 (m : Mods) (f : MF)
  /-- ST_B32, opcode 0x98 (R203). -/
  | stB32 (m : Mods) (f : MF)
  /-- ST_B64, opcode 0x99 (R203). -/
  | stB64 (m : Mods) (f : MF)
  /-- LDS_B32, opcode 0x9A (R203). -/
  | ldsB32 (m : Mods) (f : MF)
  /-- LDS_B64, opcode 0x9B (R203). -/
  | ldsB64 (m : Mods) (f : MF)
  /-- STS_B32, opcode 0x9C (R203). -/
  | stsB32 (m : Mods) (f : MF)
  /-- STS_B64, opcode 0x9D (R203). -/
  | stsB64 (m : Mods) (f : MF)
  /-- ATOM_32, opcode 0x9E (R206). -/
  | atom32 (m : Mods) (f : MF)
  /-- ATOM_64, opcode 0x9F (R206). -/
  | atom64 (m : Mods) (f : MF)
  /-- RED_32, opcode 0xA0 (R206). -/
  | red32 (m : Mods) (f : MF)
  /-- RED_64, opcode 0xA1 (R206). -/
  | red64 (m : Mods) (f : MF)
  /-- PREF, opcode 0xA2 (R208). -/
  | pref (m : Mods) (f : MF)
  /-- CPY_T, opcode 0xA3 (R209). -/
  | cpyT (m : Mods) (f : RF)
  /-- CPY_L_B32, opcode 0xA4 (R211). -/
  | cpyLB32 (m : Mods) (f : RF)
  /-- CPY_L_B64, opcode 0xA5 (R211). -/
  | cpyLB64 (m : Mods) (f : RF)
  /-- CPY_L_B128, opcode 0xA6 (R211). -/
  | cpyLB128 (m : Mods) (f : RF)
  /-- TXB_INIT, opcode 0xA7 (R212). -/
  | txbInit (m : Mods) (f : MF)
  /-- TXB_ARRIVE, opcode 0xA8 (R212). -/
  | txbArrive (m : Mods) (f : MF)
  /-- TXB_EXPECT, opcode 0xA9 (R212). -/
  | txbExpect (m : Mods) (f : MF)
  /-- TXB_WAIT, opcode 0xAA (R213). -/
  | txbWait (m : Mods) (f : MF)
  /-- SBQ, opcode 0xAB (R215). -/
  | sbq (m : Mods) (f : RF)
  /-- POISQ, opcode 0xAC (R216). -/
  | poisq (m : Mods) (f : RF)
  /-- POISCLR, opcode 0xAD (R216). -/
  | poisclr (m : Mods) (f : RF)
  /-- MMA, opcode 0xB0 (R233). -/
  | mma (m : Mods) (f : RF)
  /-- MZERO, opcode 0xB1 (R234). -/
  | mzero (m : Mods) (f : RF)
  /-- TSET, opcode 0xB2 (R235). -/
  | tset (m : Mods) (f : MF)
  /-- TFIELD, opcode 0xB3 (R236). -/
  | tfield (m : Mods) (f : RF)
  /-- TGET, opcode 0xB4 (R236). -/
  | tget (m : Mods) (f : RF)
  /-- BENCHQ, opcode 0xB5 (R237). -/
  | benchq (m : Mods) (f : RF)
  /-- WAIT, opcode 0xB6 (R254). -/
  | wait (m : Mods) (f : WF)
  /-- WGSYNC, opcode 0xB7 (R256). -/
  | wgsync (m : Mods) (f : RF)
  /-- FENCE, opcode 0xB8 (R258). -/
  | fence (m : Mods) (f : RF)
  /-- QPUSH, opcode 0xB9 (R260). -/
  | qpush (m : Mods) (f : RF)
  /-- QPOP, opcode 0xBA (R261). -/
  | qpop (m : Mods) (f : RF)
  /-- QTRY, opcode 0xBB (R262). -/
  | qtry (m : Mods) (f : RF)
  /-- TDONE, opcode 0xBC (R263). -/
  | tdone (m : Mods) (f : RF)
  /-- FETCHW, opcode 0xBD (R267). -/
  | fetchw (m : Mods) (f : MF)
  /-- LAUNCH, opcode 0xBE (R268). -/
  | launch (m : Mods) (f : RF)
  /-- SLEEP, opcode 0xBF (R269). -/
  | sleep (m : Mods) (f : IF)
  /-- TRAP, opcode 0xC0 (R324). -/
  | trap (m : Mods) (f : IF)
  /-- RFE, opcode 0xC1 (R325). -/
  | rfe (m : Mods) (f : RF)
  /-- GETSR, opcode 0xC2 (R320). -/
  | getsr (m : Mods) (f : IF)
  /-- SETSR, opcode 0xC3 (R321). -/
  | setsr (m : Mods) (f : IF)
  /-- FEATQ, opcode 0xC4 (R327). -/
  | featq (m : Mods) (f : RF)
  /-- SETPERF, opcode 0xC5 (R328). -/
  | setperf (m : Mods) (f : RF)
  /-- XFER, opcode 0xC6 (R329). -/
  | xfer (m : Mods) (f : RF)
  /-- KILL, opcode 0xC7 (R330). -/
  | kill (m : Mods) (f : RF)
  /-- BRK, opcode 0xC8 (R326). -/
  | brk (m : Mods) (f : IF)
  /-- TRACE, opcode 0xC9 (R331). -/
  | trace (m : Mods) (f : IF)
  /-- TIME, opcode 0xCA (R332). -/
  | time (m : Mods) (f : RF)
  /-- SIGQ, opcode 0xCB (R333). -/
  | sigq (m : Mods) (f : RF)
  /-- COLD_RESET (R41): Power-on or cold reset: SEQ restarts at 0, record 0 of KIND RESET is written with BOOTS, and every register takes its reset value. -/
  | coldReset
  /-- WARM_RESET (R45): A PCIe hot, link-down or function-level reset destroys every context, writes WARM_RESET FAILED records and a RESET record, and clears the intake slots while keeping the journal. -/
  | warmReset
  /-- MSIX_HOLDOFF_EXPIRY (R353): The 2 us hold-off of a vector ends and one signal covers the records that arrived meanwhile. -/
  | msixHoldoffExpiry
  /-- FW_UPDATE (R360): Command 0x0B checks a signed firmware image and its SVN and stages it for activation at the next cold reset. -/
  | fwUpdate
  /-- XINV_COMPLETE (R183): An invalidation request completes in order, after every access that used the old translation has performed, and XDONE counts it. -/
  | xinvComplete
  /-- DEBUG_SAVE_DEFERRED (R311): A SAVE requested before QUIET is carried out when QUIET sets. -/
  | debugSaveDeferred
  /-- SAMPLE_DUMP (R316): Writing SAMP DUMP writes one lane-cycle record per bin in use to SBUF with a system-scope release and clears the bins. -/
  | sampleDump
  /-- PSTAT_READ (R304): A read of PSTAT returns the droop status and clears CRCERR and GAPS. -/
  | pstatRead
  /-- SAMP_READ (R310): A read of SAMP returns its fields and clears the LOST count. -/
  | sampRead
  /-- ERRS_READ (R364): A read of ERRS returns the corrected and uncorrectable error counts and clears them. -/
  | errsRead
  /-- DEADLOCK_WINDOW_EXPIRY (R67): A pipeline blocked for DLWIN journals DEADLOCK and notifies the host, and fails with DEADLOCK after a second window. -/
  | deadlockWindowExpiry
  /-- FETCHW_MAILBOX_COMPLETE (R58): The distributor writes READY with coordinates, DRAINED or REFUSED into a fetch-work mailbox, STATUS last as a release. -/
  | fetchwMailboxComplete
  /-- SLEEP_EXPIRY (R269): A fragment parked by sleep becomes READY when TIME has advanced by n x 64 ns. -/
  | sleepExpiry
  /-- BOOST_TOKEN_CHARGE (R301): Each us an island above level 12 charges L - 12 tokens to its paying context, which falls back to 12 when out. -/
  | boostTokenCharge
  /-- TELEMETRY_LOSS (R305): No valid frame for 100 us sets TLOSS and applies TLFRAC. -/
  | telemetryLoss
  /-- SHED_CLASS (R306): SHEDLVL rises by one class toward SHEDREQ, journaling SHED, and the class's groups stop at their next barrier boundary. -/
  | shedClass
  /-- SHED_PREEMPT_TIMEOUT (R306): A group of a shed class that reaches no boundary within 200 us of its SHED event is pre-empted. -/
  | shedPreemptTimeout
  /-- CLASS_RESTORE (R307): After SHEDREQ stays below SHEDLVL for RESTHOLD, SHEDLVL falls by one and that class is restored, journaling RESTORED. -/
  | classRestore
  /-- CODE_FETCH_FAULT (R184): A fragment's fetch at its PC fails with MISALIGNED, CODE_RANGE or a walk or X fault, and FETCH_FAULT is raised at the unit that could not be fetched. -/
  | codeFetchFault
  deriving DecidableEq, Repr

/-- The fields of a unit's instruction word, by format. -/
inductive Fields where
  | r (f : RF)
  | i (f : IF)
  | m (f : MF)
  | b (f : BF)
  | w (f : WF)
  | brm (f : RF) (ts : List Target)
  deriving DecidableEq, Repr

/-- The format of an opcode (R111). -/
inductive Fmt where
  | r | i | m | b | w | brm
  deriving DecidableEq, Repr

end Sys2Proof
end

