-- ==== Sys2Proof/Machine/Checks.lean ====
section
/-! DEFINITION. The checks that the KX2 makes of a unit's words before anything else (R98 to R115): modifier words
accepted (Table 07-6), fields and codes (Tables 07-3, 07-4, 07-5, 07-8), register numbers (Table 07-2). -/
namespace Sys2Proof

/-- Destination families of `cvt` (Table 10-6). -/
inductive CvtDst where
  | f32 | f16 | bf16 | int32 | int64 | small
  deriving DecidableEq, Repr

/-- Classes of instructions that use the same fields. A `wide` operand is a 64-bit pair. -/
inductive Cls where
  /-- R format without operands: `nop`, `join`, `exit`. -/
  | plain
  /-- R format without operands outside the control family: `wgsync`, `tdone`, `rfe`. -/
  | idle
  | ctlB
  | brcM
  /-- a: S register, imm16: `brc.u`, `call.u`. -/
  | ctlS
  | callV
  /-- b: V register: `ret`, `jmpi`. -/
  | srcV
  | srcS
  | brm
  /-- Uniform integer (Table 08-2). -/
  | uni (wide rnd : Bool)
  | smovi
  | sld (wide : Bool)
  /-- Vector integer: a and b wide, c wide, RND accepted, D4 accepted (Table 08-3). -/
  | vec (wide cwide rnd d4 : Bool)
  /-- Unary vector integer: b wide, RND 001 accepted. -/
  | vec1 (wide sat : Bool)
  | icmp (wide : Bool)
  | isel (wide : Bool)
  | mask3
  | mask2
  | maskS
  | vote
  | shfl
  | rdlane
  | wrlane
  | bcast
  | redux
  /-- Vector float with an operand c: RND accepted, D4 accepted (Table 10-1). -/
  | flt (rnd d4 : Bool)
  | fcmp
  | fclass
  | flt1
  | cvt (d : CvtDst)
  | kb (pack : Bool)
  /-- `ld`, `st`, `lds`, `sts`. -/
  | ldst (wide isLoad : Bool)
  | atom (wide result : Bool)
  | pref
  | cpyT
  | cpyL
  | txbInit
  | txbArrive
  | txbReg
  | sbq
  | pois (query : Bool)
  | mma
  | mzero
  | tset
  | tfield
  | tget
  | benchq
  | wait
  | fence
  | qpush
  /-- a: S register, b: S pair: `qpop`, `qtry`, `launch`. -/
  | qpop
  | fetchw
  /-- I format with a zero: `sleep`, `trap`, `brk`. -/
  | immOnly
  | getsr
  | setsr
  /-- a: even S pair: `featq`, `time`. -/
  | dstPair
  | setperf
  | xfer
  | kill
  | trace
  | sigq
  deriving DecidableEq, Repr

/-- An absent `modx` word acts as one with every field zero (R107). -/
def ModX.zero : ModX :=
  { msel := 0, z := false, rnd := 0, d4 := 0, reuse := 0, u := false, ord := 0, scope := 0 }

/-- The `modx` fields that act on a unit (R107). -/
def Mods.modx (m : Mods) : ModX := m.x.getD ModX.zero

/-- The parts of a unit: its opcode (Table 07-7), modifier words and instruction word. A step row has none. -/
structure Parts where
  op : Nat
  mods : Mods
  f : Fields
  deriving DecidableEq, Repr

/-- The opcode and the words of every unit (R111, Table 07-7); none for a step that is no instruction. -/
def Instr.parts : Instr → Option Parts
  | .coldReset => none
  | .warmReset => none
  | .acceptRead _ => none
  | .msixHoldoffExpiry => none
  | .jackWrite _ => none
  | .ctxCreate _ => none
  | .ctxDestroy _ => none
  | .contextCloseComplete _ => none
  | .load _ => none
  | .unload _ => none
  | .start _ => none
  | .transfer _ => none
  | .migrateOut _ => none
  | .migrateIn _ => none
  | .jsign _ => none
  | .attestReport _ => none
  | .attestKeyInstall _ => none
  | .fwUpdate => none
  | .xinvWrite _ => none
  | .xinvComplete => none
  | .devnumWrite _ => none
  | .dbgHalt _ => none
  | .dbgResume _ => none
  | .dbgSave _ => none
  | .debugSaveDeferred => none
  | .bpWrite _ _ _ => none
  | .sampleDump => none
  | .sampleTick _ _ => none
  | .trdWrite _ => none
  | .pstatRead => none
  | .sampRead => none
  | .linkRead _ => none
  | .errsRead => none
  | .registerWrite _ _ => none
  | .hostWindowBRead _ _ => none
  | .hostWindowBWrite _ _ _ => none
  | .hostAtomicRequest _ _ _ _ _ => none
  | .workgroupPlace _ _ => none
  | .pipelineStart _ _ => none
  | .seedPush _ => none
  | .qpushComplete _ _ => none
  | .qpopComplete _ _ => none
  | .dresserSample _ _ => none
  | .deadlockWindowExpiry => none
  | .fetchwMailboxComplete => none
  | .loadComplete _ _ => none
  | .storePerform _ _ => none
  | .copySectorLand _ _ => none
  | .copySourceReadDone _ => none
  | .benchGrant _ => none
  | .mmaPassComplete _ => none
  | .dataFaultDetect _ _ _ => none
  | .remoteAccessReceive _ _ _ => none
  | .remoteAccessComplete _ _ _ _ => none
  | .remoteTimeout _ _ => none
  | .flitReceive _ _ => none
  | .linkDown _ => none
  | .linkUp _ _ _ => none
  | .linkKeyRenewal _ => none
  | .sleepExpiry => none
  | .throttleNotification _ => none
  | .preempt _ => none
  | .preemptSaveComplete _ => none
  | .groupRestore _ _ => none
  | .stallSample _ _ _ => none
  | .levelChangeComplete _ => none
  | .boostRefill _ => none
  | .boostTokenCharge => none
  | .withholdLevelUpdate _ _ => none
  | .junctionTemperatureChange _ _ => none
  | .telemetryFrame _ => none
  | .telemetryLoss => none
  | .shedClass => none
  | .shedPreemptTimeout => none
  | .classRestore => none
  | .unassignedOpcodeUnit _ => none
  | .codeFetchFault => none
  | .engineOperandRead _ _ => none
  | .softError _ => none
  | .nop m f => some ⟨0x01, m, .r f⟩
  | .bra m f => some ⟨0x02, m, .b f⟩
  | .brc m f => some ⟨0x03, m, .i f⟩
  | .brcU m f => some ⟨0x04, m, .i f⟩
  | .brm m f ts => some ⟨0x05, m, .brm f ts⟩
  | .jset m f => some ⟨0x06, m, .b f⟩
  | .join m f => some ⟨0x07, m, .r f⟩
  | .call m f => some ⟨0x08, m, .i f⟩
  | .callU m f => some ⟨0x09, m, .i f⟩
  | .ret m f => some ⟨0x0A, m, .r f⟩
  | .retU m f => some ⟨0x0B, m, .r f⟩
  | .jmpi m f => some ⟨0x0C, m, .r f⟩
  | .exit m f => some ⟨0x0D, m, .r f⟩
  | .sadd32 m f => some ⟨0x10, m, .r f⟩
  | .sadd64 m f => some ⟨0x11, m, .r f⟩
  | .ssub32 m f => some ⟨0x12, m, .r f⟩
  | .ssub64 m f => some ⟨0x13, m, .r f⟩
  | .smul32 m f => some ⟨0x14, m, .r f⟩
  | .smul64 m f => some ⟨0x15, m, .r f⟩
  | .smulhI32 m f => some ⟨0x16, m, .r f⟩
  | .smulhN32 m f => some ⟨0x17, m, .r f⟩
  | .sand m f => some ⟨0x18, m, .r f⟩
  | .sor m f => some ⟨0x19, m, .r f⟩
  | .sxor m f => some ⟨0x1A, m, .r f⟩
  | .sshl m f => some ⟨0x1B, m, .r f⟩
  | .sshr m f => some ⟨0x1C, m, .r f⟩
  | .ssar m f => some ⟨0x1D, m, .r f⟩
  | .sminI32 m f => some ⟨0x1E, m, .r f⟩
  | .sminN32 m f => some ⟨0x1F, m, .r f⟩
  | .smaxI32 m f => some ⟨0x20, m, .r f⟩
  | .smaxN32 m f => some ⟨0x21, m, .r f⟩
  | .scmpEq m f => some ⟨0x22, m, .r f⟩
  | .scmpNe m f => some ⟨0x23, m, .r f⟩
  | .scmpLtI32 m f => some ⟨0x24, m, .r f⟩
  | .scmpLtN32 m f => some ⟨0x25, m, .r f⟩
  | .scmpLeI32 m f => some ⟨0x26, m, .r f⟩
  | .scmpLeN32 m f => some ⟨0x27, m, .r f⟩
  | .scmpGtI32 m f => some ⟨0x28, m, .r f⟩
  | .scmpGtN32 m f => some ⟨0x29, m, .r f⟩
  | .scmpGeI32 m f => some ⟨0x2A, m, .r f⟩
  | .scmpGeN32 m f => some ⟨0x2B, m, .r f⟩
  | .ssel m f => some ⟨0x2C, m, .r f⟩
  | .smovi m f => some ⟨0x2D, m, .i f⟩
  | .sldB32 m f => some ⟨0x2E, m, .m f⟩
  | .sldB64 m f => some ⟨0x2F, m, .m f⟩
  | .iadd32 m f => some ⟨0x30, m, .r f⟩
  | .iadd64 m f => some ⟨0x31, m, .r f⟩
  | .isub32 m f => some ⟨0x32, m, .r f⟩
  | .isub64 m f => some ⟨0x33, m, .r f⟩
  | .imul32 m f => some ⟨0x34, m, .r f⟩
  | .imul64 m f => some ⟨0x35, m, .r f⟩
  | .imad m f => some ⟨0x36, m, .r f⟩
  | .imulhI32 m f => some ⟨0x37, m, .r f⟩
  | .imulhN32 m f => some ⟨0x38, m, .r f⟩
  | .iand m f => some ⟨0x39, m, .r f⟩
  | .ior m f => some ⟨0x3A, m, .r f⟩
  | .ixor m f => some ⟨0x3B, m, .r f⟩
  | .ishl32 m f => some ⟨0x3C, m, .r f⟩
  | .ishl64 m f => some ⟨0x3D, m, .r f⟩
  | .ishr32 m f => some ⟨0x3E, m, .r f⟩
  | .ishr64 m f => some ⟨0x3F, m, .r f⟩
  | .isar32 m f => some ⟨0x40, m, .r f⟩
  | .isar64 m f => some ⟨0x41, m, .r f⟩
  | .iminI32 m f => some ⟨0x42, m, .r f⟩
  | .iminN32 m f => some ⟨0x43, m, .r f⟩
  | .imaxI32 m f => some ⟨0x44, m, .r f⟩
  | .imaxN32 m f => some ⟨0x45, m, .r f⟩
  | .iabs m f => some ⟨0x46, m, .r f⟩
  | .popcB32 m f => some ⟨0x47, m, .r f⟩
  | .popcB64 m f => some ⟨0x48, m, .r f⟩
  | .clzB32 m f => some ⟨0x49, m, .r f⟩
  | .clzB64 m f => some ⟨0x4A, m, .r f⟩
  | .brev m f => some ⟨0x4B, m, .r f⟩
  | .bfeI32 m f => some ⟨0x4C, m, .r f⟩
  | .bfeN32 m f => some ⟨0x4D, m, .r f⟩
  | .bfi m f => some ⟨0x4E, m, .r f⟩
  | .icmpI32 m f => some ⟨0x4F, m, .r f⟩
  | .icmpN32 m f => some ⟨0x50, m, .r f⟩
  | .icmpI64 m f => some ⟨0x51, m, .r f⟩
  | .icmpN64 m f => some ⟨0x52, m, .r f⟩
  | .iselB32 m f => some ⟨0x53, m, .r f⟩
  | .iselB64 m f => some ⟨0x54, m, .r f⟩
  | .mand m f => some ⟨0x60, m, .r f⟩
  | .mor m f => some ⟨0x61, m, .r f⟩
  | .mxor m f => some ⟨0x62, m, .r f⟩
  | .mnot m f => some ⟨0x63, m, .r f⟩
  | .mpopc m f => some ⟨0x64, m, .r f⟩
  | .mfirst m f => some ⟨0x65, m, .r f⟩
  | .vote m f => some ⟨0x66, m, .r f⟩
  | .shflIdx m f => some ⟨0x67, m, .r f⟩
  | .shflUp m f => some ⟨0x68, m, .r f⟩
  | .shflDown m f => some ⟨0x69, m, .r f⟩
  | .shflXor m f => some ⟨0x6A, m, .r f⟩
  | .rdlane m f => some ⟨0x6B, m, .r f⟩
  | .wrlane m f => some ⟨0x6C, m, .r f⟩
  | .bcast m f => some ⟨0x6D, m, .r f⟩
  | .redux m f => some ⟨0x6E, m, .r f⟩
  | .faddF32 m f => some ⟨0x70, m, .r f⟩
  | .faddF16x2 m f => some ⟨0x71, m, .r f⟩
  | .fsubF32 m f => some ⟨0x72, m, .r f⟩
  | .fsubF16x2 m f => some ⟨0x73, m, .r f⟩
  | .fmulF32 m f => some ⟨0x74, m, .r f⟩
  | .fmulF16x2 m f => some ⟨0x75, m, .r f⟩
  | .ffmaF32 m f => some ⟨0x76, m, .r f⟩
  | .ffmaF16x2 m f => some ⟨0x77, m, .r f⟩
  | .fminF32 m f => some ⟨0x78, m, .r f⟩
  | .fminF16x2 m f => some ⟨0x79, m, .r f⟩
  | .fmaxF32 m f => some ⟨0x7A, m, .r f⟩
  | .fmaxF16x2 m f => some ⟨0x7B, m, .r f⟩
  | .fcmp m f => some ⟨0x7C, m, .r f⟩
  | .fclass m f => some ⟨0x7D, m, .r f⟩
  | .frcp m f => some ⟨0x7E, m, .r f⟩
  | .frsq m f => some ⟨0x7F, m, .r f⟩
  | .fsqrt m f => some ⟨0x80, m, .r f⟩
  | .fexp2 m f => some ⟨0x81, m, .r f⟩
  | .flog2 m f => some ⟨0x82, m, .r f⟩
  | .fsin m f => some ⟨0x83, m, .r f⟩
  | .fcos m f => some ⟨0x84, m, .r f⟩
  | .cvtF32 m f => some ⟨0x85, m, .r f⟩
  | .cvtF16 m f => some ⟨0x86, m, .r f⟩
  | .cvtBf16 m f => some ⟨0x87, m, .r f⟩
  | .cvtInt32 m f => some ⟨0x88, m, .r f⟩
  | .cvtInt64 m f => some ⟨0x89, m, .r f⟩
  | .cvtSmall m f => some ⟨0x8A, m, .r f⟩
  | .kbpack m f => some ⟨0x8B, m, .r f⟩
  | .kbunpack m f => some ⟨0x8C, m, .r f⟩
  | .ldN8 m f => some ⟨0x90, m, .m f⟩
  | .ldI8 m f => some ⟨0x91, m, .m f⟩
  | .ldN16 m f => some ⟨0x92, m, .m f⟩
  | .ldI16 m f => some ⟨0x93, m, .m f⟩
  | .ldB32 m f => some ⟨0x94, m, .m f⟩
  | .ldB64 m f => some ⟨0x95, m, .m f⟩
  | .st8 m f => some ⟨0x96, m, .m f⟩
  | .st16 m f => some ⟨0x97, m, .m f⟩
  | .stB32 m f => some ⟨0x98, m, .m f⟩
  | .stB64 m f => some ⟨0x99, m, .m f⟩
  | .ldsB32 m f => some ⟨0x9A, m, .m f⟩
  | .ldsB64 m f => some ⟨0x9B, m, .m f⟩
  | .stsB32 m f => some ⟨0x9C, m, .m f⟩
  | .stsB64 m f => some ⟨0x9D, m, .m f⟩
  | .atom32 m f => some ⟨0x9E, m, .m f⟩
  | .atom64 m f => some ⟨0x9F, m, .m f⟩
  | .red32 m f => some ⟨0xA0, m, .m f⟩
  | .red64 m f => some ⟨0xA1, m, .m f⟩
  | .pref m f => some ⟨0xA2, m, .m f⟩
  | .cpyT m f => some ⟨0xA3, m, .r f⟩
  | .cpyLB32 m f => some ⟨0xA4, m, .r f⟩
  | .cpyLB64 m f => some ⟨0xA5, m, .r f⟩
  | .cpyLB128 m f => some ⟨0xA6, m, .r f⟩
  | .txbInit m f => some ⟨0xA7, m, .m f⟩
  | .txbArrive m f => some ⟨0xA8, m, .m f⟩
  | .txbExpect m f => some ⟨0xA9, m, .m f⟩
  | .txbWait m f => some ⟨0xAA, m, .m f⟩
  | .sbq m f => some ⟨0xAB, m, .r f⟩
  | .poisq m f => some ⟨0xAC, m, .r f⟩
  | .poisclr m f => some ⟨0xAD, m, .r f⟩
  | .mma m f => some ⟨0xB0, m, .r f⟩
  | .mzero m f => some ⟨0xB1, m, .r f⟩
  | .tset m f => some ⟨0xB2, m, .m f⟩
  | .tfield m f => some ⟨0xB3, m, .r f⟩
  | .tget m f => some ⟨0xB4, m, .r f⟩
  | .benchq m f => some ⟨0xB5, m, .r f⟩
  | .wait m f => some ⟨0xB6, m, .w f⟩
  | .wgsync m f => some ⟨0xB7, m, .r f⟩
  | .fence m f => some ⟨0xB8, m, .r f⟩
  | .qpush m f => some ⟨0xB9, m, .r f⟩
  | .qpop m f => some ⟨0xBA, m, .r f⟩
  | .qtry m f => some ⟨0xBB, m, .r f⟩
  | .tdone m f => some ⟨0xBC, m, .r f⟩
  | .fetchw m f => some ⟨0xBD, m, .m f⟩
  | .launch m f => some ⟨0xBE, m, .r f⟩
  | .sleep m f => some ⟨0xBF, m, .i f⟩
  | .trap m f => some ⟨0xC0, m, .i f⟩
  | .rfe m f => some ⟨0xC1, m, .r f⟩
  | .getsr m f => some ⟨0xC2, m, .i f⟩
  | .setsr m f => some ⟨0xC3, m, .i f⟩
  | .featq m f => some ⟨0xC4, m, .r f⟩
  | .setperf m f => some ⟨0xC5, m, .r f⟩
  | .xfer m f => some ⟨0xC6, m, .r f⟩
  | .kill m f => some ⟨0xC7, m, .r f⟩
  | .brk m f => some ⟨0xC8, m, .i f⟩
  | .trace m f => some ⟨0xC9, m, .i f⟩
  | .time m f => some ⟨0xCA, m, .r f⟩
  | .sigq m f => some ⟨0xCB, m, .r f⟩

/-- The class of an assigned opcode: which fields and modifier words it uses; none for an unassigned code (R111, R112). -/
def clsOf : Nat → Option Cls
  | 0x01 => some (.plain)
  | 0x02 => some (.ctlB)
  | 0x03 => some (.brcM)
  | 0x04 => some (.ctlS)
  | 0x05 => some (.brm)
  | 0x06 => some (.ctlB)
  | 0x07 => some (.plain)
  | 0x08 => some (.callV)
  | 0x09 => some (.ctlS)
  | 0x0A => some (.srcV)
  | 0x0B => some (.srcS)
  | 0x0C => some (.srcV)
  | 0x0D => some (.plain)
  | 0x10 => some (.uni false true)
  | 0x11 => some (.uni true true)
  | 0x12 => some (.uni false true)
  | 0x13 => some (.uni true true)
  | 0x14 => some (.uni false true)
  | 0x15 => some (.uni true true)
  | 0x16 => some (.uni false false)
  | 0x17 => some (.uni false false)
  | 0x18 => some (.uni false false)
  | 0x19 => some (.uni false false)
  | 0x1A => some (.uni false false)
  | 0x1B => some (.uni false false)
  | 0x1C => some (.uni false false)
  | 0x1D => some (.uni false false)
  | 0x1E => some (.uni false false)
  | 0x1F => some (.uni false false)
  | 0x20 => some (.uni false false)
  | 0x21 => some (.uni false false)
  | 0x22 => some (.uni false false)
  | 0x23 => some (.uni false false)
  | 0x24 => some (.uni false false)
  | 0x25 => some (.uni false false)
  | 0x26 => some (.uni false false)
  | 0x27 => some (.uni false false)
  | 0x28 => some (.uni false false)
  | 0x29 => some (.uni false false)
  | 0x2A => some (.uni false false)
  | 0x2B => some (.uni false false)
  | 0x2C => some (.uni false false)
  | 0x2D => some (.smovi)
  | 0x2E => some (.sld false)
  | 0x2F => some (.sld true)
  | 0x30 => some (.vec false false true false)
  | 0x31 => some (.vec true true true false)
  | 0x32 => some (.vec false false true false)
  | 0x33 => some (.vec true true true false)
  | 0x34 => some (.vec false false true false)
  | 0x35 => some (.vec true true true false)
  | 0x36 => some (.vec false false true true)
  | 0x37 => some (.vec false false false false)
  | 0x38 => some (.vec false false false false)
  | 0x39 => some (.vec false false false false)
  | 0x3A => some (.vec false false false false)
  | 0x3B => some (.vec false false false false)
  | 0x3C => some (.vec false false false false)
  | 0x3D => some (.vec true false false false)
  | 0x3E => some (.vec false false false false)
  | 0x3F => some (.vec true false false false)
  | 0x40 => some (.vec false false false false)
  | 0x41 => some (.vec true false false false)
  | 0x42 => some (.vec false false false false)
  | 0x43 => some (.vec false false false false)
  | 0x44 => some (.vec false false false false)
  | 0x45 => some (.vec false false false false)
  | 0x46 => some (.vec1 false true)
  | 0x47 => some (.vec1 false false)
  | 0x48 => some (.vec1 true false)
  | 0x49 => some (.vec1 false false)
  | 0x4A => some (.vec1 true false)
  | 0x4B => some (.vec1 false false)
  | 0x4C => some (.vec false false false false)
  | 0x4D => some (.vec false false false false)
  | 0x4E => some (.vec false false false false)
  | 0x4F => some (.icmp false)
  | 0x50 => some (.icmp false)
  | 0x51 => some (.icmp true)
  | 0x52 => some (.icmp true)
  | 0x53 => some (.isel false)
  | 0x54 => some (.isel true)
  | 0x60 => some (.mask3)
  | 0x61 => some (.mask3)
  | 0x62 => some (.mask3)
  | 0x63 => some (.mask2)
  | 0x64 => some (.maskS)
  | 0x65 => some (.maskS)
  | 0x66 => some (.vote)
  | 0x67 => some (.shfl)
  | 0x68 => some (.shfl)
  | 0x69 => some (.shfl)
  | 0x6A => some (.shfl)
  | 0x6B => some (.rdlane)
  | 0x6C => some (.wrlane)
  | 0x6D => some (.bcast)
  | 0x6E => some (.redux)
  | 0x70 => some (.flt true false)
  | 0x71 => some (.flt true false)
  | 0x72 => some (.flt true false)
  | 0x73 => some (.flt true false)
  | 0x74 => some (.flt true false)
  | 0x75 => some (.flt true false)
  | 0x76 => some (.flt true true)
  | 0x77 => some (.flt true true)
  | 0x78 => some (.flt false false)
  | 0x79 => some (.flt false false)
  | 0x7A => some (.flt false false)
  | 0x7B => some (.flt false false)
  | 0x7C => some (.fcmp)
  | 0x7D => some (.fclass)
  | 0x7E => some (.flt1)
  | 0x7F => some (.flt1)
  | 0x80 => some (.flt1)
  | 0x81 => some (.flt1)
  | 0x82 => some (.flt1)
  | 0x83 => some (.flt1)
  | 0x84 => some (.flt1)
  | 0x85 => some (.cvt .f32)
  | 0x86 => some (.cvt .f16)
  | 0x87 => some (.cvt .bf16)
  | 0x88 => some (.cvt .int32)
  | 0x89 => some (.cvt .int64)
  | 0x8A => some (.cvt .small)
  | 0x8B => some (.kb true)
  | 0x8C => some (.kb false)
  | 0x90 => some (.ldst false true)
  | 0x91 => some (.ldst false true)
  | 0x92 => some (.ldst false true)
  | 0x93 => some (.ldst false true)
  | 0x94 => some (.ldst false true)
  | 0x95 => some (.ldst true true)
  | 0x96 => some (.ldst false false)
  | 0x97 => some (.ldst false false)
  | 0x98 => some (.ldst false false)
  | 0x99 => some (.ldst true false)
  | 0x9A => some (.ldst false true)
  | 0x9B => some (.ldst true true)
  | 0x9C => some (.ldst false false)
  | 0x9D => some (.ldst true false)
  | 0x9E => some (.atom false true)
  | 0x9F => some (.atom true true)
  | 0xA0 => some (.atom false false)
  | 0xA1 => some (.atom true false)
  | 0xA2 => some (.pref)
  | 0xA3 => some (.cpyT)
  | 0xA4 => some (.cpyL)
  | 0xA5 => some (.cpyL)
  | 0xA6 => some (.cpyL)
  | 0xA7 => some (.txbInit)
  | 0xA8 => some (.txbArrive)
  | 0xA9 => some (.txbReg)
  | 0xAA => some (.txbReg)
  | 0xAB => some (.sbq)
  | 0xAC => some (.pois true)
  | 0xAD => some (.pois false)
  | 0xB0 => some (.mma)
  | 0xB1 => some (.mzero)
  | 0xB2 => some (.tset)
  | 0xB3 => some (.tfield)
  | 0xB4 => some (.tget)
  | 0xB5 => some (.benchq)
  | 0xB6 => some (.wait)
  | 0xB7 => some (.idle)
  | 0xB8 => some (.fence)
  | 0xB9 => some (.qpush)
  | 0xBA => some (.qpop)
  | 0xBB => some (.qpop)
  | 0xBC => some (.idle)
  | 0xBD => some (.fetchw)
  | 0xBE => some (.qpop)
  | 0xBF => some (.immOnly)
  | 0xC0 => some (.immOnly)
  | 0xC1 => some (.idle)
  | 0xC2 => some (.getsr)
  | 0xC3 => some (.setsr)
  | 0xC4 => some (.dstPair)
  | 0xC5 => some (.setperf)
  | 0xC6 => some (.xfer)
  | 0xC7 => some (.kill)
  | 0xC8 => some (.immOnly)
  | 0xC9 => some (.trace)
  | 0xCA => some (.dstPair)
  | 0xCB => some (.sigq)
  | _ => none

/-- Whether the class accepts a `modx` word (Table 07-6). -/
def Cls.takesModx : Cls → Bool
  | .uni _ _ | .sld _ | .vec _ _ _ _ | .vec1 _ _ | .icmp _ | .isel _ => true
  | .vote | .shfl | .rdlane | .wrlane | .bcast | .redux => true
  | .flt _ _ | .fcmp | .fclass | .flt1 | .cvt _ | .kb _ => true
  | .ldst _ _ | .atom _ _ | .pref | .cpyL | .mma | .fence => true
  | _ => false

/-- Whether the class accepts a `modi` word, given k (Table 07-6, R101, R108). -/
def Cls.takesModi (c : Cls) (k : BitVec 2) : Bool :=
  match c with
  | .smovi => true
  | .uni _ _ | .vec _ _ _ _ | .vec1 _ _ | .icmp _ | .isel _ => k == 3
  | .vote | .shfl | .rdlane | .wrlane | .bcast | .redux => k == 3
  | .flt _ _ | .fcmp | .fclass | .flt1 | .cvt _ | .kb _ | .cpyT | .cpyL => k == 3
  | _ => false

/-- k of an R-format word; 0 in another format. -/
def Fields.k : Fields → BitVec 2
  | .r f => f.k
  | .brm f _ => f.k
  | _ => 0

/-- R101, R108, R110, Table 07-6: at most two modifier words, every one accepted, and k = 11 comes with a `modi` word. -/
def modifierOk (c : Cls) (m : Mods) (f : Fields) : Bool :=
  !(m.h.isSome && m.x.isSome && m.i.isSome) &&
  (m.x.isNone || c.takesModx) && (m.i.isNone || c.takesModi f.k) && (f.k != 3 || m.i.isSome)

/-- Source types of `cvt` (Table 07-8): signedness when an integer. -/
def cvtSrc (c : Nat) : Option (Option Bool) :=
  match c % 16 with
  | 0 | 2 | 4 | 6 | 12 => some (some true)
  | 1 | 3 | 5 | 7 => some (some false)
  | 8 | 9 | 10 => some none
  | _ => none

/-- Destination subtypes of `cvt` (Tables 07-8 and 10-6): signedness when an integer. -/
def cvtDst (d : CvtDst) (c : Nat) : Option (Option Bool) :=
  match d, c / 16 with
  | .f32, 0 => some none
  | .f16, 0 | .f16, 1 | .bf16, 0 | .bf16, 1 => some none
  | .int32, 0 | .int64, 0 => some (some true)
  | .int32, 1 | .int64, 1 => some (some false)
  | .small, 0 | .small, 2 | .small, 4 => some (some true)
  | .small, 1 | .small, 3 => some (some false)
  | _, _ => none

/-- RND of `cvt` (R170): a rounding mode unless both sides are integers. -/
def cvtRndOk (d : CvtDst) (c rnd : Nat) : Bool :=
  match cvtSrc c, cvtDst d c with
  | some (some _), some (some signed) => rnd == 0 || (rnd == 1 && signed) || (rnd == 2 && !signed)
  | some _, some _ => rnd ≤ 3
  | _, _ => false

/-- The RND codes that the class accepts (Tables 07-5, 07-6, 08-2, 08-3, 10-1). -/
def rndOk (c : Cls) (x : ModX) (f : Fields) : Bool :=
  match c, f with
  | .uni _ true, _ | .vec _ _ true _, _ | .mma, _ => x.rnd.toNat ≤ 2
  | .vec1 _ true, _ => x.rnd.toNat ≤ 1
  | .flt true _, _ | .flt1, _ => x.rnd.toNat ≤ 3
  | .cvt d, .r r => cvtRndOk d r.c.toNat x.rnd.toNat
  | _, _ => x.rnd == 0

/-- Whether the class uses MSEL (Table 07-6). -/
def Cls.usesMsel : Cls → Bool
  | .vec _ _ _ _ | .vec1 _ _ | .icmp _ | .isel _ | .vote | .shfl | .rdlane | .wrlane | .bcast | .redux => true
  | .flt _ _ | .fcmp | .fclass | .flt1 | .cvt _ | .kb _ | .ldst _ _ | .atom _ _ | .pref | .cpyL => true
  | _ => false

/-- Whether the class uses Z (Table 07-6, R107). -/
def Cls.usesZ : Cls → Bool
  | .vec _ _ _ _ | .vec1 _ _ | .icmp _ | .isel _ | .shfl | .rdlane | .bcast => true
  | .flt _ _ | .fcmp | .fclass | .flt1 | .cvt _ | .kb _ | .ldst _ true | .atom _ true => true
  | _ => false

/-- Whether the class uses REUSE (Table 07-6). -/
def Cls.usesReuse : Cls → Bool
  | .uni _ _ => true
  | c => c.usesMsel

/-- Whether the class uses U (Table 07-6). -/
def Cls.usesU : Cls → Bool
  | .vec _ _ _ _ | .vec1 _ _ | .flt _ _ | .fclass | .flt1 | .cvt _ | .ldst _ _ | .atom _ _ | .pref => true
  | _ => false

/-- ORD and SCOPE (R107). -/
def ordOk (c : Cls) (x : ModX) : Bool :=
  let scopeOk := x.scope.toNat ≤ 4
  match c with
  | .sld _ | .ldst _ true => scopeOk && (x.ord == 1 || (x.ord == 0 && x.scope == 0))
  | .ldst _ false => scopeOk && (x.ord == 2 || (x.ord == 0 && x.scope == 0))
  | .atom _ true | .fence => scopeOk
  | .atom _ false => scopeOk && (x.ord == 0 || x.ord == 2)
  | _ => x.ord == 0 && x.scope == 0

/-- R106, R107: unusable `modx` fields are zero and no code is reserved. -/
def modxOk (c : Cls) (x : ModX) (f : Fields) : Bool :=
  (c.usesMsel || x.msel == 0) && (c.usesZ || !x.z) && rndOk c x f &&
  ((match c with | .vec _ _ _ true | .flt _ true => true | _ => false) || x.d4 == 0) &&
  (c.usesReuse || x.reuse == 0) && (c.usesU || !x.u) && ordOk c x && (!x.u || (x.msel == 0 && !x.z))

/-- R109: reserved bits of `modh` are zero, and PFN stands on an M-format load (`ld`, `lds`, `sld`). -/
def modhOk (c : Cls) (h : ModH) : Bool :=
  h.rsvd == 0 && (!h.pfn || (match c with | .ldst _ true | .sld _ => true | _ => false))

/-- A special register: whether it is 64 bits wide, per lane, writable (Table 22-2). -/
structure SrInfo where
  wide : Bool
  lane : Bool
  rw : Bool
  deriving DecidableEq, Repr

/-- The special registers of Table 22-2. -/
def srInfo : Nat → Option SrInfo
  | 0x0000 => some ⟨false, true, false⟩
  | 0x0001 | 0x0002 | 0x0003 | 0x0004 | 0x0005 | 0x0006 | 0x0007 | 0x0008 | 0x0009 | 0x000A | 0x000B | 0x000C =>
    some ⟨false, false, false⟩
  | 0x0010 | 0x0012 | 0x0014 => some ⟨true, false, false⟩
  | 0x0020 | 0x0021 => some ⟨false, false, false⟩
  | 0x0030 | 0x0032 => some ⟨true, false, false⟩
  | 0x0040 => some ⟨true, false, true⟩
  | 0x0042 => some ⟨false, false, true⟩
  | 0x0043 | 0x0044 => some ⟨false, false, false⟩
  | _ => none

/-- Codes and reserved fields of the instruction word itself (R99, R101, R113 and the instruction chapters). -/
def wordOk (c : Cls) (m : Mods) (f : Fields) : Bool :=
  match c, f with
  | .plain, .r r | .idle, .r r | .fence, .r r => r.a == 0 && r.b == 0 && r.c == 0 && r.k == 0
  | .ctlB, .b _ => true
  | .brcM, .i _ | .ctlS, .i _ | .callV, .i _ | .trace, .i _ => true
  | .srcV, .r r | .srcS, .r r | .kill, .r r => r.a == 0 && r.c == 0 && r.k == 0
  | .brm, .brm r ts => r.a.toNat < 4 && r.b == 0 && r.c == 0 && r.k == 0 && ts.length == r.a.toNat + 1
  | .uni _ _, .r r => r.k != 0
  | .smovi, .i _ => (m.i.getD 0).toNat < 65536
  | .sld _, .m _ => true
  | .vec _ _ _ _, .r _ => true
  | .vec1 _ _, .r r | .flt1, .r r => r.c == 0 && r.k == 0
  | .icmp _, .r r => r.a.toNat / 16 < 6
  | .isel _, .r r => r.b.toNat < 16
  | .mask3, .r r => r.k == 0
  | .mask2, .r r | .maskS, .r r => r.c == 0 && r.k == 0
  | .vote, .r r => r.k == 2 && r.c.toNat < 3
  | .shfl, .r _ => true
  | .rdlane, .r r | .wrlane, .r r | .bcast, .r r => r.k != 0
  | .redux, .r r => r.k == 2 && r.c.toNat < 8
  | .flt _ _, .r _ | .fcmp, .r _ => true
  | .fclass, .r r => r.k == 2 && r.c.toNat < 3
  | .cvt d, .r r => r.k == 2 && (cvtSrc r.c.toNat).isSome && (cvtDst d r.c.toNat).isSome
  | .kb _, .r r => r.k == 2 && r.c.toNat < 3
  | .ldst _ _, .m _ => true
  | .atom wide res, .m g =>
    let aop := g.off.toNat / 32
    g.off.toNat % 32 == 0 && aop < 11 && !(wide && aop == 1) && (res || aop < 9)
  | .pref, .m g | .fetchw, .m g => g.data == 0
  | .cpyT, .r r | .cpyL, .r r => r.k != 2 && (r.k != 0 || r.c == 0)
  | .txbInit, .m g => g.data != 0
  | .txbArrive, .m _ | .txbReg, .m _ => true
  | .sbq, .r r => r.k == 1 || r.k == 2
  | .pois q, .r r => (q || r.a == 0) && (r.k == 1 || (r.k == 0 && r.c == 0))
  | .mma, .r r => r.k == 0
  | .mzero, .r r => r.b == 0 && r.c == 0 && r.k == 0
  | .tset, .m g => g.data.toNat < 16
  | .tfield, .r r | .tget, .r r => r.k == 2 && r.c.toNat < 22
  | .benchq, .r r => r.b == 0 && r.k == 2 && r.c.toNat < 3
  | .wait, .w g => g.zero == 0
  | .qpush, .r r => r.a == 0 && (r.k == 1 || (r.k == 2 && r.c.toNat < 8))
  | .qpop, .r r => r.c == 0 && r.k == 0
  | .immOnly, .i g => g.a == 0
  | .getsr, .i g =>
    (match srInfo (g.imm.toNat % 32768) with
    | some q => !q.lane || 32768 ≤ g.imm.toNat
    | none => false)
  | .setsr, .i g =>
    (match srInfo (g.imm.toNat % 32768) with
    | some q => q.rw
    | none => false)
  | .dstPair, .r r => r.b == 0 && r.c == 0 && r.k == 0
  | .setperf, .r r => r.b == 0 && (r.k == 0 || r.k == 1 || (r.k == 2 && r.c.toNat < 16))
  | .xfer, .r r => r.b == 0 && (r.k == 1 || r.k == 2)
  | .sigq, .r r => r.b == 0 && r.k == 2 && r.c.toNat < 6
  | _, _ => false

/-- R98, R99, R106, R109, R113, R114: no reserved field is nonzero and no code is reserved. -/
def fieldOk (c : Cls) (m : Mods) (f : Fields) : Bool :=
  !m.stray && (match m.h with | some h => modhOk c h | none => true) && modxOk c m.modx f && wordOk c m f

/-- A vector register operand: V, or S under U; a pair is even (R100). -/
def vOk (u wide : Bool) (r : BitVec 7) : Bool := (!u || r.toNat < 64) && (!wide || r.toNat % 2 == 0)

/-- A uniform register operand: S0-S63; a pair is even (R100). -/
def sOk (wide : Bool) (r : BitVec 7) : Bool := r.toNat < 64 && (!wide || r.toNat % 2 == 0)

/-- The second source by k (R101): V (S under U), S, or an immediate. -/
def cOk (u wide : Bool) (r : RF) : Bool :=
  if r.k == 0 then vOk u wide r.c else if r.k == 1 then sOk wide r.c else true

/-- Registers of an `atom` or `red` data field (Table 12-3). -/
def atomDataOk (u wide : Bool) (aop : Nat) (d : BitVec 7) : Bool :=
  (!u || d.toNat < 64) && (if aop == 10 then (if wide then d.toNat % 4 == 0 else d.toNat % 2 == 0)
    else !wide || d.toNat % 2 == 0)

/-- R100: every register number lies in its file, pairs are even, and M0 is no destination. -/
def operandOk (c : Cls) (m : Mods) (f : Fields) : Bool :=
  let x := m.modx
  let u := x.u
  match c, f with
  | .brcM, .i g => g.a.toNat < 16
  | .ctlS, .i g | .smovi, .i g | .trace, .i g => sOk false g.a
  | .srcS, .r r => sOk false r.b
  | .kill, .r r => r.b.toNat < 16
  | .uni w _, .r r => sOk w r.a && sOk w r.b && (r.k != 1 || sOk w r.c)
  | .sld w, .m g => sOk w g.data && sOk true g.addr
  | .vec w cw _ d4, .r r => vOk u w r.a && vOk u w r.b && cOk u cw r && (!d4 || vOk u false x.d4)
  | .vec1 w _, .r r => vOk u false r.a && vOk u w r.b
  | .icmp w, .r r => r.a.toNat % 16 != 0 && vOk false w r.b && cOk false w r
  | .isel w, .r r => vOk false w r.a && cOk false w r
  | .mask3, .r r => r.a.toNat < 16 && r.a != 0 && r.b.toNat < 16 && r.c.toNat < 16
  | .mask2, .r r => r.a.toNat < 16 && r.a != 0 && r.b.toNat < 16
  | .maskS, .r r | .vote, .r r => sOk false r.a && r.b.toNat < 16
  | .shfl, .r r | .bcast, .r r => cOk false false r
  | .rdlane, .r r => sOk false r.a && cOk false false r
  | .wrlane, .r r => sOk false r.b && cOk false false r
  | .redux, .r r => sOk false r.a
  | .flt _ d4, .r r => vOk u false r.a && vOk u false r.b && cOk u false r && (!d4 || vOk u false x.d4)
  | .fcmp, .r r => r.a.toNat % 16 != 0 && cOk false false r
  | .fclass, .r r | .flt1, .r r => vOk u false r.a && vOk u false r.b
  | .cvt d, .r r => vOk u (d == .int64) r.a && vOk u (r.c.toNat % 16 == 6 || r.c.toNat % 16 == 7) r.b
  | .ldst w _, .m g => vOk u w g.data && vOk u true g.addr
  | .atom w _, .m g => atomDataOk u w (g.off.toNat / 32) g.data && vOk u true g.addr
  | .pref, .m g => vOk u true g.addr
  | .cpyT, .r r => r.a.toNat < 16 && r.b.toNat < 16 && (r.k == 0 || sOk true r.c)
  | .cpyL, .r r => r.a.toNat % 2 == 0 && r.b.toNat % 2 == 0 && (r.k == 0 || sOk true r.c)
  | .txbInit, .m g | .txbArrive, .m g | .tset, .m g | .fetchw, .m g => sOk true g.addr
  | .txbReg, .m g => sOk false g.data && sOk true g.addr
  | .sbq, .r r => sOk false r.a && sOk true r.b && (r.k != 1 || sOk false r.c)
  | .pois q, .r r => (!q || sOk false r.a) && (if r.k == 0 then r.b.toNat < 16 else sOk true r.b && sOk false r.c)
  | .mma, .r r => r.a.toNat % 32 == 0 && r.b.toNat < 16 && r.c.toNat < 16
  | .mzero, .r r => r.a.toNat % 32 == 0
  | .tfield, .r r => r.a.toNat < 16 && sOk (r.c.toNat < 2) r.b
  | .tget, .r r => sOk (r.c.toNat < 2) r.a && r.b.toNat < 16
  | .benchq, .r r | .sigq, .r r => sOk false r.a
  | .qpush, .r r => sOk true r.b && (r.k != 1 || sOk false r.c)
  | .qpop, .r r => sOk false r.a && sOk true r.b
  | .getsr, .i g | .setsr, .i g =>
    let wide := ((srInfo (g.imm.toNat % 32768)).map SrInfo.wide).getD false
    if 32768 ≤ g.imm.toNat then vOk false wide g.a else sOk wide g.a
  | .dstPair, .r r => sOk true r.a
  | .setperf, .r r | .xfer, .r r => sOk false r.a && (r.k != 1 || sOk false r.c)
  | _, _ => true

/-- The first failure of a unit's words, in the order of R115. -/
def Parts.check (p : Parts) : Option Reject :=
  match clsOf p.op with
  | none => some .illegalOpcode
  | some c =>
    if !modifierOk c p.mods p.f then some .illegalModifier
    else if !fieldOk c p.mods p.f then some .illegalField
    else if !operandOk c p.mods p.f then some .illegalOperand
    else none

/-- The first failure of a unit (R115); none for a legal unit and for a step that is no instruction. -/
def Instr.check (i : Instr) : Option Reject :=
  match i.parts with
  | some p => p.check
  | none => none

/-- The number of words of a unit: modifier words, the instruction word and `brm` targets (R110, R114). -/
def Parts.words (p : Parts) : Nat :=
  (if p.mods.h.isSome then 1 else 0) + (if p.mods.x.isSome then 1 else 0) + (if p.mods.i.isSome then 1 else 0) + 1 +
    (match p.f with | .brm _ ts => ts.length | _ => 0)

end Sys2Proof
end

