-- ==== Sys2Proof/WellFormed.lean ====
section
/-! DEFINITION. A well-formed instruction: a unit whose words pass every check of R115, or a step of the device. -/
namespace Sys2Proof

/-- No check of R98 to R115 fails on the unit's words. -/
abbrev WellFormed (i : Instr) : Prop := i.check = none

end Sys2Proof
end

