-- ==== Sys2Proof/Decode.lean ====
section
/-! DEFINITION. The decoder of code words (R97 to R115), total on any words and rejecting by name, and after it the
encoder, both written from the layouts of Tables 07-1 and 07-4. -/
namespace Sys2Proof

/-- The format of an assigned opcode (R111). -/
def fmtOf (op : Nat) : Fmt :=
  if op == 0x05 then .brm
  else if op == 0x02 || op == 0x06 then .b
  else if op == 0xB6 then .w
  else if op == 0x03 || op == 0x04 || op == 0x08 || op == 0x09 || op == 0x2D || op == 0xBF || op == 0xC0 || op == 0xC2 ||
      op == 0xC3 || op == 0xC8 || op == 0xC9 then .i
  else if op == 0x2E || op == 0x2F || (0x90 ≤ op && op ≤ 0xA2) || (0xA7 ≤ op && op ≤ 0xAA) || op == 0xB2 || op == 0xBD then .m
  else .r

/-- The R-format instruction of an opcode (Table 07-7). -/
def Instr.ofR (op : Nat) (m : Mods) (f : RF) : Option Instr :=
  match op with
  | 0x01 => some (.nop m f)
  | 0x07 => some (.join m f)
  | 0x0A => some (.ret m f)
  | 0x0B => some (.retU m f)
  | 0x0C => some (.jmpi m f)
  | 0x0D => some (.exit m f)
  | 0x10 => some (.sadd32 m f)
  | 0x11 => some (.sadd64 m f)
  | 0x12 => some (.ssub32 m f)
  | 0x13 => some (.ssub64 m f)
  | 0x14 => some (.smul32 m f)
  | 0x15 => some (.smul64 m f)
  | 0x16 => some (.smulhI32 m f)
  | 0x17 => some (.smulhN32 m f)
  | 0x18 => some (.sand m f)
  | 0x19 => some (.sor m f)
  | 0x1A => some (.sxor m f)
  | 0x1B => some (.sshl m f)
  | 0x1C => some (.sshr m f)
  | 0x1D => some (.ssar m f)
  | 0x1E => some (.sminI32 m f)
  | 0x1F => some (.sminN32 m f)
  | 0x20 => some (.smaxI32 m f)
  | 0x21 => some (.smaxN32 m f)
  | 0x22 => some (.scmpEq m f)
  | 0x23 => some (.scmpNe m f)
  | 0x24 => some (.scmpLtI32 m f)
  | 0x25 => some (.scmpLtN32 m f)
  | 0x26 => some (.scmpLeI32 m f)
  | 0x27 => some (.scmpLeN32 m f)
  | 0x28 => some (.scmpGtI32 m f)
  | 0x29 => some (.scmpGtN32 m f)
  | 0x2A => some (.scmpGeI32 m f)
  | 0x2B => some (.scmpGeN32 m f)
  | 0x2C => some (.ssel m f)
  | 0x30 => some (.iadd32 m f)
  | 0x31 => some (.iadd64 m f)
  | 0x32 => some (.isub32 m f)
  | 0x33 => some (.isub64 m f)
  | 0x34 => some (.imul32 m f)
  | 0x35 => some (.imul64 m f)
  | 0x36 => some (.imad m f)
  | 0x37 => some (.imulhI32 m f)
  | 0x38 => some (.imulhN32 m f)
  | 0x39 => some (.iand m f)
  | 0x3A => some (.ior m f)
  | 0x3B => some (.ixor m f)
  | 0x3C => some (.ishl32 m f)
  | 0x3D => some (.ishl64 m f)
  | 0x3E => some (.ishr32 m f)
  | 0x3F => some (.ishr64 m f)
  | 0x40 => some (.isar32 m f)
  | 0x41 => some (.isar64 m f)
  | 0x42 => some (.iminI32 m f)
  | 0x43 => some (.iminN32 m f)
  | 0x44 => some (.imaxI32 m f)
  | 0x45 => some (.imaxN32 m f)
  | 0x46 => some (.iabs m f)
  | 0x47 => some (.popcB32 m f)
  | 0x48 => some (.popcB64 m f)
  | 0x49 => some (.clzB32 m f)
  | 0x4A => some (.clzB64 m f)
  | 0x4B => some (.brev m f)
  | 0x4C => some (.bfeI32 m f)
  | 0x4D => some (.bfeN32 m f)
  | 0x4E => some (.bfi m f)
  | 0x4F => some (.icmpI32 m f)
  | 0x50 => some (.icmpN32 m f)
  | 0x51 => some (.icmpI64 m f)
  | 0x52 => some (.icmpN64 m f)
  | 0x53 => some (.iselB32 m f)
  | 0x54 => some (.iselB64 m f)
  | 0x60 => some (.mand m f)
  | 0x61 => some (.mor m f)
  | 0x62 => some (.mxor m f)
  | 0x63 => some (.mnot m f)
  | 0x64 => some (.mpopc m f)
  | 0x65 => some (.mfirst m f)
  | 0x66 => some (.vote m f)
  | 0x67 => some (.shflIdx m f)
  | 0x68 => some (.shflUp m f)
  | 0x69 => some (.shflDown m f)
  | 0x6A => some (.shflXor m f)
  | 0x6B => some (.rdlane m f)
  | 0x6C => some (.wrlane m f)
  | 0x6D => some (.bcast m f)
  | 0x6E => some (.redux m f)
  | 0x70 => some (.faddF32 m f)
  | 0x71 => some (.faddF16x2 m f)
  | 0x72 => some (.fsubF32 m f)
  | 0x73 => some (.fsubF16x2 m f)
  | 0x74 => some (.fmulF32 m f)
  | 0x75 => some (.fmulF16x2 m f)
  | 0x76 => some (.ffmaF32 m f)
  | 0x77 => some (.ffmaF16x2 m f)
  | 0x78 => some (.fminF32 m f)
  | 0x79 => some (.fminF16x2 m f)
  | 0x7A => some (.fmaxF32 m f)
  | 0x7B => some (.fmaxF16x2 m f)
  | 0x7C => some (.fcmp m f)
  | 0x7D => some (.fclass m f)
  | 0x7E => some (.frcp m f)
  | 0x7F => some (.frsq m f)
  | 0x80 => some (.fsqrt m f)
  | 0x81 => some (.fexp2 m f)
  | 0x82 => some (.flog2 m f)
  | 0x83 => some (.fsin m f)
  | 0x84 => some (.fcos m f)
  | 0x85 => some (.cvtF32 m f)
  | 0x86 => some (.cvtF16 m f)
  | 0x87 => some (.cvtBf16 m f)
  | 0x88 => some (.cvtInt32 m f)
  | 0x89 => some (.cvtInt64 m f)
  | 0x8A => some (.cvtSmall m f)
  | 0x8B => some (.kbpack m f)
  | 0x8C => some (.kbunpack m f)
  | 0xA3 => some (.cpyT m f)
  | 0xA4 => some (.cpyLB32 m f)
  | 0xA5 => some (.cpyLB64 m f)
  | 0xA6 => some (.cpyLB128 m f)
  | 0xAB => some (.sbq m f)
  | 0xAC => some (.poisq m f)
  | 0xAD => some (.poisclr m f)
  | 0xB0 => some (.mma m f)
  | 0xB1 => some (.mzero m f)
  | 0xB3 => some (.tfield m f)
  | 0xB4 => some (.tget m f)
  | 0xB5 => some (.benchq m f)
  | 0xB7 => some (.wgsync m f)
  | 0xB8 => some (.fence m f)
  | 0xB9 => some (.qpush m f)
  | 0xBA => some (.qpop m f)
  | 0xBB => some (.qtry m f)
  | 0xBC => some (.tdone m f)
  | 0xBE => some (.launch m f)
  | 0xC1 => some (.rfe m f)
  | 0xC4 => some (.featq m f)
  | 0xC5 => some (.setperf m f)
  | 0xC6 => some (.xfer m f)
  | 0xC7 => some (.kill m f)
  | 0xCA => some (.time m f)
  | 0xCB => some (.sigq m f)
  | _ => none

/-- The I-format instruction of an opcode (Table 07-7). -/
def Instr.ofI (op : Nat) (m : Mods) (f : IF) : Option Instr :=
  match op with
  | 0x03 => some (.brc m f)
  | 0x04 => some (.brcU m f)
  | 0x08 => some (.call m f)
  | 0x09 => some (.callU m f)
  | 0x2D => some (.smovi m f)
  | 0xBF => some (.sleep m f)
  | 0xC0 => some (.trap m f)
  | 0xC2 => some (.getsr m f)
  | 0xC3 => some (.setsr m f)
  | 0xC8 => some (.brk m f)
  | 0xC9 => some (.trace m f)
  | _ => none

/-- The M-format instruction of an opcode (Table 07-7). -/
def Instr.ofM (op : Nat) (m : Mods) (f : MF) : Option Instr :=
  match op with
  | 0x2E => some (.sldB32 m f)
  | 0x2F => some (.sldB64 m f)
  | 0x90 => some (.ldN8 m f)
  | 0x91 => some (.ldI8 m f)
  | 0x92 => some (.ldN16 m f)
  | 0x93 => some (.ldI16 m f)
  | 0x94 => some (.ldB32 m f)
  | 0x95 => some (.ldB64 m f)
  | 0x96 => some (.st8 m f)
  | 0x97 => some (.st16 m f)
  | 0x98 => some (.stB32 m f)
  | 0x99 => some (.stB64 m f)
  | 0x9A => some (.ldsB32 m f)
  | 0x9B => some (.ldsB64 m f)
  | 0x9C => some (.stsB32 m f)
  | 0x9D => some (.stsB64 m f)
  | 0x9E => some (.atom32 m f)
  | 0x9F => some (.atom64 m f)
  | 0xA0 => some (.red32 m f)
  | 0xA1 => some (.red64 m f)
  | 0xA2 => some (.pref m f)
  | 0xA7 => some (.txbInit m f)
  | 0xA8 => some (.txbArrive m f)
  | 0xA9 => some (.txbExpect m f)
  | 0xAA => some (.txbWait m f)
  | 0xB2 => some (.tset m f)
  | 0xBD => some (.fetchw m f)
  | _ => none

/-- The B-format instruction of an opcode (Table 07-7). -/
def Instr.ofB (op : Nat) (m : Mods) (f : BF) : Option Instr :=
  match op with
  | 0x02 => some (.bra m f)
  | 0x06 => some (.jset m f)
  | _ => none

/-- The W-format instruction of an opcode (Table 07-7). -/
def Instr.ofW (op : Nat) (m : Mods) (f : WF) : Option Instr :=
  match op with
  | 0xB6 => some (.wait m f)
  | _ => none

/-- The instruction that an opcode, modifier words and fields make. -/
def Instr.ofParts (op : Nat) (m : Mods) : Fields → Option Instr
  | .r f => Instr.ofR op m f
  | .i f => Instr.ofI op m f
  | .m f => Instr.ofM op m f
  | .b f => Instr.ofB op m f
  | .w f => Instr.ofW op m f
  | .brm f ts => some (.brm m f ts)

/-- A `modh` word's payload (R109). -/
def ModH.ofWord (w : Nat) : ModH :=
  { yield := bitOf w 24, pfn := bitOf w 23, rsvd := BitVec.ofNat 22 (bitsOf w 22 1) }

/-- A `modx` word's payload (Table 07-4). -/
def ModX.ofWord (w : Nat) : ModX :=
  { msel := BitVec.ofNat 4 (bitsOf w 24 21), z := bitOf w 20, rnd := BitVec.ofNat 3 (bitsOf w 19 17),
    d4 := BitVec.ofNat 7 (bitsOf w 16 10), reuse := BitVec.ofNat 3 (bitsOf w 9 7), u := bitOf w 6,
    ord := BitVec.ofNat 2 (bitsOf w 5 4), scope := BitVec.ofNat 3 (bitsOf w 3 1) }

/-- R-format fields of a word (Table 07-1). -/
def RF.ofWord (w : Nat) : RF :=
  { a := BitVec.ofNat 7 (bitsOf w 23 17), b := BitVec.ofNat 7 (bitsOf w 16 10), c := BitVec.ofNat 7 (bitsOf w 9 3),
    k := BitVec.ofNat 2 (bitsOf w 2 1) }

/-- I-format fields of a word (Table 07-1). -/
def IF.ofWord (w : Nat) : IF :=
  { a := BitVec.ofNat 7 (bitsOf w 23 17), imm := BitVec.ofNat 16 (bitsOf w 16 1) }

/-- M-format fields of a word (Table 07-1). -/
def MF.ofWord (w : Nat) : MF :=
  { data := BitVec.ofNat 7 (bitsOf w 23 17), addr := BitVec.ofNat 7 (bitsOf w 16 10), off := BitVec.ofNat 9 (bitsOf w 9 1) }

/-- B-format fields of a word (Table 07-1). -/
def BF.ofWord (w : Nat) : BF := { off := BitVec.ofNat 23 (bitsOf w 23 1) }

/-- W-format fields of a word (Table 07-1). -/
def WF.ofWord (w : Nat) : WF :=
  { ld := BitVec.ofNat 6 (bitsOf w 23 18), st := BitVec.ofNat 5 (bitsOf w 17 13), cp := BitVec.ofNat 7 (bitsOf w 12 6),
    mx := BitVec.ofNat 4 (bitsOf w 5 2), zero := BitVec.ofNat 1 (bitsOf w 1 1) }

/-- A `brm` target word (R114). -/
def Target.ofWord (w : Nat) : Target :=
  { msel := BitVec.ofNat 4 (bitsOf w 31 28), off := BitVec.ofNat 27 (bitsOf w 27 1) }

/-- The modifier kinds (R105). -/
inductive ModKind where
  /-- Not a modifier word. -/
  | none
  | h | x | i
  /-- Opcodes 0xF6-0xFF. -/
  | bad
  deriving DecidableEq, Repr

/-- The kind of a word, from bits [31:25] (R105). -/
def modKind (w : Nat) : ModKind :=
  if bitsOf w 31 28 != 15 then .none
  else match bitsOf w 31 25 with
    | 0x78 => .x
    | 0x79 => .i
    | 0x7A => .h
    | _ => .bad

/-- The modifier words that begin a unit, in the order `modh`, `modx`, `modi`, at most two (R110): `n` taken so far,
the last of rank `rank`. Answers the instruction word and what follows it. Model choice (log 58): a modifier word that breaks R110
is the failure of its unit at once, before later words are fetched. -/
def takeMods (m : Mods) (n rank : Nat) : List Word → Except Reject (Mods × Word × List Word)
  | [] => .error .truncated
  | w :: ws =>
    let bit := bitOf w.toNat 0
    let m0 : Mods := if n == 0 then { m with stop := bit } else { m with stray := m.stray || bit }
    match modKind w.toNat with
    | .none => .ok (m0, w, ws)
    | .bad => .error .illegalModifier
    | .h => if 2 ≤ n || 1 ≤ rank then .error .illegalModifier
      else takeMods { m0 with h := some (ModH.ofWord w.toNat) } (n + 1) 1 ws
    | .x => if 2 ≤ n || 2 ≤ rank then .error .illegalModifier
      else takeMods { m0 with x := some (ModX.ofWord w.toNat) } (n + 1) 2 ws
    | .i => if 2 ≤ n || 3 ≤ rank then .error .illegalModifier
      else takeMods { m0 with i := some (BitVec.ofNat 24 (bitsOf w.toNat 24 1)) } (n + 1) 3 ws

/-- A unit with no modifier word. -/
def Mods.bare : Mods := { stop := false, h := none, x := none, i := none, stray := false }

/-- The fields of an instruction word, with a `brm`'s target words taken from what follows. -/
def takeFields (m : Mods) (w : Word) (rest : List Word) : Except Reject (Mods × Fields) :=
  let x := w.toNat
  match fmtOf (bitsOf x 31 24) with
  | .r => .ok (m, .r (RF.ofWord x))
  | .i => .ok (m, .i (IF.ofWord x))
  | .m => .ok (m, .m (MF.ofWord x))
  | .b => .ok (m, .b (BF.ofWord x))
  | .w => .ok (m, .w (WF.ofWord x))
  | .brm =>
    let n := bitsOf x 18 17 + 1
    if rest.length < n then .error .truncated
    else .ok ({ m with stray := m.stray || (rest.take n).any fun t => bitOf t.toNat 0 },
      .brm (RF.ofWord x) ((rest.take n).map fun t => Target.ofWord t.toNat))

/-- The unit that the words begin with, and the number of its words, before its fields and registers are checked. -/
def readUnit (ws : List Word) : Except Reject (Instr × Nat) :=
  match takeMods Mods.bare 0 0 ws with
  | .error r => .error r
  | .ok (m, w, rest) =>
    let op := bitsOf w.toNat 31 24
    match takeFields m w rest with
    | .error r => .error r
    | .ok (m', f) =>
      match Instr.ofParts op m' f with
      | none => .error .illegalOpcode
      | some i => .ok (i, (Parts.mk op m' f).words)

/-- The unit that the words begin with, and the number of its words; or the first failure of R115. -/
def decode (ws : List Word) : Except Reject (Instr × Nat) :=
  match readUnit ws with
  | .error r => .error r
  | .ok u =>
    match u.1.check with
    | some r => .error r
    | none => .ok u

/-- The words of a unit need at most this many words of code: two modifiers, `brm` and four targets (R110, R114). -/
def maxUnitWords : Nat := 7

/-- The instruction of a table word: `w` numbered as spec/opcode_table.json numbers it, and zeros after it. -/
def decodeTableWord (nbits w : Nat) : Option Instr :=
  match decode (BitVec.ofNat 32 (w % 2 ^ nbits) :: List.replicate (maxUnitWords - 1) 0) with
  | .ok (i, _) => some i
  | .error _ => none

/-! ## The encoder -/

/-- One bit as a number. -/
def bitN (b : Bool) : Nat := if b then 1 else 0

/-- A `modh` word (R109). -/
def ModH.toWord (h : ModH) (s : Bool) : Word :=
  BitVec.ofNat 32 (0x7A * 2 ^ 25 + bitN h.yield * 2 ^ 24 + bitN h.pfn * 2 ^ 23 + h.rsvd.toNat * 2 + bitN s)

/-- A `modx` word (Table 07-4). -/
def ModX.toWord (x : ModX) (s : Bool) : Word :=
  BitVec.ofNat 32 (0x78 * 2 ^ 25 + x.msel.toNat * 2 ^ 21 + bitN x.z * 2 ^ 20 + x.rnd.toNat * 2 ^ 17 + x.d4.toNat * 2 ^ 10 +
    x.reuse.toNat * 2 ^ 7 + bitN x.u * 2 ^ 6 + x.ord.toNat * 2 ^ 4 + x.scope.toNat * 2 + bitN s)

/-- A `modi` word (R108). -/
def modiWord (v : BitVec 24) (s : Bool) : Word := BitVec.ofNat 32 (0x79 * 2 ^ 25 + v.toNat * 2 + bitN s)

/-- The instruction word of an opcode and its fields (Table 07-1). -/
def Fields.toWord (op : Nat) (s : Bool) : Fields → Word
  | .r f | .brm f _ => BitVec.ofNat 32
      (op * 2 ^ 24 + f.a.toNat * 2 ^ 17 + f.b.toNat * 2 ^ 10 + f.c.toNat * 2 ^ 3 + f.k.toNat * 2 + bitN s)
  | .i f => BitVec.ofNat 32 (op * 2 ^ 24 + f.a.toNat * 2 ^ 17 + f.imm.toNat * 2 + bitN s)
  | .m f => BitVec.ofNat 32 (op * 2 ^ 24 + f.data.toNat * 2 ^ 17 + f.addr.toNat * 2 ^ 10 + f.off.toNat * 2 + bitN s)
  | .b f => BitVec.ofNat 32 (op * 2 ^ 24 + f.off.toNat * 2 + bitN s)
  | .w f => BitVec.ofNat 32 (op * 2 ^ 24 + f.ld.toNat * 2 ^ 18 + f.st.toNat * 2 ^ 13 + f.cp.toNat * 2 ^ 6 + f.mx.toNat * 2 ^ 2 +
      f.zero.toNat * 2 + bitN s)

/-- A `brm` target word (R114). -/
def Target.toWord (t : Target) : Word := BitVec.ofNat 32 (t.msel.toNat * 2 ^ 28 + t.off.toNat * 2)

/-- The target words of a unit. -/
def Fields.targets : Fields → List Word
  | .brm _ ts => ts.map Target.toWord
  | _ => []

/-- The words of a unit; the stop bit stands on the first (R98). -/
def Parts.encode (p : Parts) : List Word :=
  let s := p.mods.stop
  let main (s' : Bool) : List Word := p.f.toWord p.op s' :: p.f.targets
  let fromI (s' : Bool) : List Word :=
    match p.mods.i with
    | some v => modiWord v s' :: main false
    | none => main s'
  let fromX (s' : Bool) : List Word :=
    match p.mods.x with
    | some x => x.toWord s' :: fromI false
    | none => fromI s'
  match p.mods.h with
  | some h => h.toWord s :: fromX false
  | none => fromX s

/-- The words of an instruction; a step that is no instruction has none. -/
def encode (i : Instr) : List Word :=
  match i.parts with
  | some p => p.encode
  | none => []

end Sys2Proof
end

