-- ==== Sys2Proof/Config.lean ====
section
/-! DEFINITION. What one device fixes, and the values that the spec leaves open. The open values are opaque constants
without a body: nothing is known of them. A `free…` constant is applied to the counter `State.free` (log 6); the
cryptographic functions, whose keys the spec does not give, are applied to their inputs (log 13). -/
namespace Sys2Proof.Config

/-- A free word: R189, R195, R216, R231, R248, R341 (log 6). -/
opaque freeWord : Nat → Word

/-- A free byte (log 6). -/
opaque freeByte : Nat → Byte

/-- Which of the live ports carries the accesses to a line of a device (R355, log 15). -/
opaque portPick : Nat → Nat → Nat

/-- The key of one direction of a link port, `true` for what it sends, that an exchange derives (R358, log 13). -/
opaque linkKey : Nat → Nat → Bool → List Byte

/-- A free 512-bit shape (log 6). -/
opaque freeShape : Nat → BitVec 512

/-- A free choice: which of two permitted outcomes happens (R181, R183, R243; log 6, 7, 9). -/
opaque freeBit : Nat → Bool

/-- Cores of which commits have not reached an acquiring load or atomic when it ends (R247, log 7). -/
opaque freeCores : Nat → List Nat

/-- What the device computes for a special function before its final rounding step, as a multiple of 2^-400: a fixed function of the
operation and x (R167, log 12). -/
opaque special : Nat → Word → Int

/-- The compute die that the partition of a physical address attaches to, before it is reduced to one of four (R6, log 27). -/
opaque partition : Nat → Nat

/-- The compute die, 0 to 3, that the partition of a physical address attaches to: it chooses a local replica (R6, R182). -/
def dieOf (pa : Nat) : Nat := partition pa % 4

/-- The identity key's signature over bytes (R43, R361, log 13). -/
opaque sign : List Byte → List Byte

/-- Whether an Ed25519 signature over a firmware image is by a certified firmware key (R360, log 13). -/
opaque firmwareSigned : List Byte → Bool

/-- The 512 bytes of the device certificate (R359, log 13). -/
opaque idCert : List Byte

/-- The X25519 public key that the n-th context creation generates (R361, log 13). -/
opaque contextKey : Nat → List Byte

/-- The AES-256-XTS key that a MODE 1 buffer carries for the n-th context key, or none on a tag failure (R362, log 13). -/
opaque unwrapKey : Nat → List Byte → Option (List Byte)

/-- AES-256-GCM sealing of a migration image body: key, associated data, body; nonce ++ tag and ciphertext (R363, log 13). -/
opaque sealImage : List Byte → List Byte → List Byte → List Byte × List Byte

/-- The opposite of `sealImage`: key, nonce ++ tag, associated data, ciphertext; none on a tag failure (R363, log 13). -/
opaque unsealImage : List Byte → List Byte → List Byte → List Byte → Option (List Byte)

/-- AES-256-XTS of one 64-byte line under a context key with its tweak VA[51:6]: of the permutation nothing more is known than
that it is one (R182, log 13). -/
opaque xts : List Byte → Nat → Equiv.Perm (BitVec 512)

/-- What a 64-byte line of an encrypted page holds for its plain bytes (R182). -/
def encLine (key : List Byte) (tweak : Nat) (line : List Byte) : List Byte :=
  bytesOf 64 ((xts key tweak) (BitVec.ofNat 512 (ofBytes line))).toNat

/-- The plain bytes of a 64-byte line of an encrypted page (R182). -/
def decLine (key : List Byte) (tweak : Nat) (line : List Byte) : List Byte :=
  bytesOf 64 ((xts key tweak).symm (BitVec.ofNat 512 (ofBytes line))).toNat

/-- The address that a target device takes for relocations of an object that MIGRATE_IN loads, by its tag (R31, log 27). -/
opaque movedBase : Nat → Nat

/-- SHA-512 of the boot stage (R361, log 13). -/
opaque bootHash : List Byte

/-- The firmware image running at manufacture (R360, log 13). -/
opaque firstFirmware : List Byte


/-- The feature word of the first KX2 stepping (R19). -/
def featureWord : Quad := 0x0000000000FFF102#64

/-- The generation of the device (Table 02-5). -/
def generation : Nat := 2

/-- The first physical address beyond installed memory (R352). -/
def memTop : Nat := 0x3E00000000

/-- Bytes of one core's scratchpad (R185). -/
def spadBytes : Nat := 524288

/-- The per-device trim of supply codes (R295, log 5). -/
opaque trim : Nat → Nat

/-- VCODE of level `l`: trimmed per device, every level within 60 codes of every other (R295, R296). -/
def vcode (l : Nat) : Nat := trim 16 % 196 + trim (min l 15) % 61

/-- What the DPLL of an island takes to relock, in ns, for a change that begins at a moment (R296): open, at most 500 (log 62). -/
opaque relockOf : Nat → Nat → Nat

/-- The relock time of a change in ns (R296). -/
def relock (isl t : Nat) : Nat := relockOf isl t % 501

/-- A cluster's base rate: what CREDIT rises by in a cluster cycle at RATE 256 (R302): internal to the device (log 16). -/
opaque baseRate : Nat → Nat

/-- The energy weight of a unit on a core island, by its opcode, and of one that a matrix engine passes, by its plane pairs (R302):
internal to the device (log 16). -/
opaque unitWeight : Nat → Nat
opaque passWeight : Nat → Nat

/-- Nominal frequency of level `l` in MHz (Table 20-1). -/
def levelFreq : Nat → Nat
  | 0 => 900 | 1 => 1000 | 2 => 1100 | 3 => 1200 | 4 => 1300 | 5 => 1400 | 6 => 1500 | 7 => 1600
  | 8 => 1700 | 9 => 1850 | 10 => 1950 | 11 => 2000 | 12 => 2100 | 13 => 2200 | 14 => 2350 | _ => 2450

end Sys2Proof.Config
end

