-- ==== Sys2Proof/Machine/State.lean ====
section
/-! DEFINITION. The state of the KX2: everything the spec gives the machine, as plain data, and the state after reset.
Every reset value that the spec does not give is named in log 5; the model's own data are named in logs 1, 3, 6, 7. -/
namespace Sys2Proof.Machine

/-- Why the machine stops with a fault. -/
inductive Fault where
  /-- Raised by a unit's meaning when no fragment issues: no group exists, so there is nothing that the unit could act
  on. Safe: the KX2 executes no unit without a fragment (R86). -/
  | noIssuingFragment
  deriving DecidableEq, Repr

/-- Why the machine refuses. -/
inductive Refusal where
  /-- Raised by exec for an instruction without a meaning. Safe: nothing can be proved of it. -/
  | notModelled (mnemonic : String)
  deriving DecidableEq, Repr

/-! ## Memory -/

/-- Bytes by key (log 4): (key, byte) pairs, keys strictly rising, no byte equal to what an unlisted key reads as. -/
abbrev Memory := List Host.Cell

/-- How far a write has been made visible (R239, R244): to a core, to a cluster, to every core of the device, or to the system. -/
inductive Reach where
  | core (c : Nat)
  | cluster (c : Nat)
  | device
  | system
  deriving DecidableEq, Repr

/-- One commit of a write (R244): its reach, its moment, and the core whose release made it (384 for the host and for peers). -/
structure Commit where
  reach : Reach
  at_ : Nat
  by_ : Nat
  deriving DecidableEq, Repr

/-- What a core's last acquire took (R245, R247): every commit up to a moment, but for those that cores of `miss` made after the
moment beside them, which had not reached it. `heard` are commits that reads of the core have shown it since, as cores and moments:
its next acquire takes them (R244, R246). -/
structure Snap where
  at_ : Nat
  miss : List (Nat × Nat)
  heard : List (Nat × Nat)
  deriving DecidableEq, Repr

/-- The store that a write on a replicated page belongs to, until it commits (R196, R200): operation, group, entry, PC, lane,
address, whether its commit is known to fail, whether the access is uniform, and its lanes that have not failed, with their addresses. -/
structure Origin where
  op : Nat
  g : Nat
  e : Nat
  pc : Word
  lane : Nat
  addr : Nat
  doomed : Bool
  uni : Bool
  lanes : List (Nat × Nat)
  deriving DecidableEq, Repr

/-- One byte of a write in coherence order (R242): `core` performed it at moment `at_`, which the bytes of one store share; its
commits (R244), newest first; the cores that read it ahead of an acquire, and when (R243). -/
structure Write where
  key : Nat
  val : Byte
  core : Nat
  at_ : Nat
  commits : List Commit
  joined : List (Nat × Nat)
  /-- On a replicated page: a commit is seen by every observer at once (R196, R247). -/
  mca : Bool
  /-- Scope of the atomic that made it (R248). -/
  atomic : Option Nat
  src : Option Origin
  deriving DecidableEq, Repr

/-- A line of main memory held as the plain bytes of an encrypted page (R182): line number, context key, tweak. Its bytes in
memory itself are their encryption. -/
structure EncLine where
  line : Nat
  key : List Byte
  tweak : Nat
  deriving DecidableEq, Repr

/-- A cached translation (R183): the leaf entry that maps a page of a context. -/
structure TlbEntry where
  ctx : Nat
  va : Nat
  size : Nat
  pte : Nat
  deriving DecidableEq, Repr

/-- A Sideboard entry (R190): scratchpad interval [lo, hi) of a core, of operation `op`; `part` tells its intervals
apart; its registration order is the operation's number. -/
structure SbEntry where
  core : Nat
  lo : Nat
  hi : Nat
  write : Bool
  op : Nat
  part : Nat
  deriving DecidableEq, Repr

/-! ## Fragments and groups -/

/-- STATE of a split-table entry (Table 05-2). -/
inductive EState where
  | free | ready | joinWait | collective | parked | halted | spilledReady
  deriving DecidableEq, Repr

/-- What a parked fragment waits for (R75). -/
inductive Park where
  | none
  /-- `qpush` of the record at a pointer into queue `q` (R260); parked ones complete in `order` (R62). -/
  | qpush (q ptr order : Nat)
  /-- `qpop` with its status register and destination pointer (R261). -/
  | qpop (reg dst order : Nat)
  /-- `tdone` whose released record waits for room in queue `q` (R63). -/
  | tdone (q order : Nat) (rec : List Byte)
  | wgsync
  | txb (key phase : Nat)
  | sleep (until_ : Nat)
  /-- Moved by a transfer and waiting for its group (R288). -/
  | transfer
  deriving DecidableEq, Repr

/-- The lanes of a fragment that are masked off while a folded branch runs another path (R82): where the paths meet, the lanes, and
whether the branch stood in a handler. -/
structure Fold where
  meet : Word
  lanes : Word
  inH : Bool
  deriving DecidableEq, Repr

/-- A split-table entry (Table 05-2) with what the KX2 keeps beside it: whether it lies in the spill area (R79), what it
waits for, the lanes its collective names (R140), the offset after its waiting unit, the in-handler mark (R325), a hold
by R280 step 1, the one-time re-execution (R199), service-class units left (R308), the halt mark (R311), a move of a
transfer with the offset it left (R29), stop sites passed under a transfer (R29) and under MIGRATE_OUT (R290), its wait in thousandths
of a cycle (R86), and whether the stop site it stands at has been reckoned against breakpoints (R311), against a transfer (R29, R343)
and against MIGRATE_OUT (R290), the collective at
which another fragment's arrival found it in mismatch (R142), and what folded branches have masked off, innermost first (R82);
`mask` is then the path being run. -/
structure Entry where
  st : EState
  mask : Word
  pend : Word
  pc : Word
  join : Word
  stamp : Word
  parent : Nat
  depth : Nat
  spilled : Bool
  park : Park
  named : Word
  next : Word
  inH : Bool
  heldT : Bool
  redo : Option (Word × Word)
  exempt : Nat
  haltP : Bool
  moved : Option Word
  passed : Nat
  outPassed : Nat
  wait : Nat
  seenB : Bool
  seenT : Bool
  seenO : Bool
  clash : Option Word
  fold : List Fold
  deriving DecidableEq, Repr

/-- A FREE entry. -/
def Entry.free : Entry :=
  { st := .free, mask := 0, pend := 0, pc := 0, join := 0xFFFFFFFF, stamp := 0, parent := 0xFF, depth := 0, spilled := false,
    park := .none, named := 0, next := 0, inH := false, heldT := false, redo := none, exempt := 0, haltP := false, moved := none,
    passed := 0, outPassed := 0, wait := 0, seenB := false, seenT := false, seenO := false, clash := none, fold := [] }

/-- What a fault record says of one lane (Table 19-3). -/
structure LaneNote where
  lane : Nat
  addr : Nat
  cause : Nat
  src : Bool
  deriving DecidableEq, Repr

/-- A register of a group. -/
inductive RegName where
  | v (n : Nat)
  | s (n : Nat)
  | t (n : Nat)
  | m (n : Nat)
  deriving DecidableEq, Repr

/-- Where an uncorrectable error of a group lies (R364). -/
inductive SoftPlace where
  | reg (r : RegName)
  | entry (e : Nat)
  deriving DecidableEq, Repr

/-- A data fault found after issue and not yet raised (R200): of entry `e`, of the instruction at `pc`, with the registers that
it would have written. -/
structure Late where
  e : Nat
  pc : Word
  fmask : Word
  cmask : Word
  notes : List LaneNote
  /-- The address of the failing access, where Table 19-2 gives it one: a uniform access. -/
  addr : Nat
  dests : List RegName
  deriving DecidableEq, Repr

/-- An `mma` that a `wait` has still to answer for (R195, R230, R231): its operation, base, lanes, whether it read poison,
whether it has lowered mx, and whether a `wait` has matched it. -/
structure MmaRec where
  op : Nat
  pc : Word
  base : Nat
  lanes : Word
  poisoned : Bool
  counted : Bool
  matched : Bool
  deriving DecidableEq, Repr

/-- The held task (R259). -/
structure Task where
  succ : Nat
  argp : Nat
  deriving DecidableEq, Repr

/-- Where a group stands: resident, drained of lanes with operations outstanding (R83), saved (R286), gone. -/
inductive GPhase where
  | resident | draining | saved | gone
  deriving DecidableEq, Repr

/-- What a move of a transfer overwrote (R29, R341): the location by its KIND, the lanes, the entry that moved, and what it
held before, for a refusal. -/
structure MoveWrite where
  kind : Nat
  loc : Nat
  wide : Bool
  mask : Word
  vals : List Nat
  deriving DecidableEq, Repr

/-- A group (R75, R76, R201, R219, R322). -/
structure Group where
  id : Nat
  ctx : Nat
  region : Nat
  wg : Nat
  gid : Nat
  core : Nat
  slot : Nat
  pos : Nat
  age : Nat
  obj : Nat
  kidx : Nat
  ver : Nat
  legacy : Bool
  stage : Nat
  phase : GPhase
  /-- Target version of a pending transfer (R288). -/
  pending : Option Nat
  moves : List MoveWrite
  /-- Killed at its next boundary counts at once; stopped for shedding or a save, it issues nothing (R266, R285). -/
  stopped : Bool
  entries : Vector Entry 72
  events : Word
  v : Vector (Vector Word 32) 128
  sr : Vector Word 64
  mr : Vector Word 16
  tr : Vector (BitVec 512) 16
  ld : Nat
  st : Nat
  cp : Nat
  mx : Nat
  frecp : Quad
  trappc : Word
  trapcode : Byte
  traparg : Word
  /-- The lanes that entered the handler and the entry they entered as (R325); empty outside a handler. -/
  hLanes : Word
  hEntry : Nat
  /-- The handler entry of a non-deferred ACCESS_FAULT, with its FMASK (R281). -/
  hRedo : Option (Word × Word)
  rstack : List Word
  task : Option Task
  mmas : List MmaRec
  late : List Late
  /-- Uncorrectable register and split-table errors not yet raised (R364). -/
  softErr : List SoftPlace
  /-- What the context's reserve holds of it while it is saved (Table 19-4, R286). -/
  image : List Byte
  /-- The release of its exit has been crossed (R240). -/
  left : Bool
  deriving DecidableEq, Repr

/-! ## Operations outstanding -/

/-- Where an access performs, after translation (R176 to R182). A page with ENC names its context and address. -/
inductive Tgt where
  | bytes (key : Nat) (enc : Option (Nat × Nat))
  /-- A replicated page: (device or none, physical address) of each replica, home first (R182, R196). -/
  | repl (reps : List (Option Nat × Nat)) (enc : Option (Nat × Nat))
  | remote (dev pa : Nat)
  deriving DecidableEq, Repr

/-- How far one lane of an access has come: a store to a peer has performed at its core before the peer acknowledges it (R241, R356). -/
inductive LaneSt where
  | pending | performed | done | failed (cause : Nat)
  deriving DecidableEq, Repr

/-- How a lane's access to a peer travels (R355, R357): the port it is sent over, the time at which it was first sent, whether it has been
sent once more after a port went down, and whether it is lost and can only time out. -/
structure Way where
  port : Option Nat
  at_ : Nat
  again : Bool
  lost : Bool
  deriving DecidableEq, Repr

/-- An access that has not been sent. -/
def Way.none : Way := { port := Option.none, at_ := 0, again := false, lost := false }

/-- One lane's access: its address, where it performs, its captured data (R202), and how it reaches a peer. -/
structure LaneAcc where
  lane : Nat
  addr : Nat
  tgt : Tgt
  data : List Byte
  data2 : List Byte
  st : LaneSt
  way : Way
  deriving DecidableEq, Repr

/-- The kinds of outstanding operations (Table 12-1). -/
inductive OpKind where
  /-- Loads: destination register, in S registers, sign-extended. -/
  | load (reg : Nat) (uni signed : Bool)
  | store
  /-- Atomics: AOP, result register, in S registers, with a result. -/
  | atom (aop reg : Nat) (uni result : Bool)
  | tset (t : Nat)
  | copyT (dst src : BitVec 512)
  | copyL
  | mma (a b : BitVec 512) (base rnd : Nat) (lanes : Word)
  deriving DecidableEq, Repr

/-- A destination sector of a copy (R186): `id` orders them, data before scale; a lane copy has one per lane. -/
structure Sector where
  addr : Nat
  scale : Bool
  landed : Bool
  lost : Bool
  /-- The first address of it that a peer failed to complete (R194). -/
  fail : Option Nat
  deriving DecidableEq, Repr

/-- Progress of an `mma` through the Bench (R226 to R230). -/
inductive Grant where
  | waiting
  /-- Granted in pass `p`. -/
  | granted (p : Nat)
  | written
  deriving DecidableEq, Repr

/-- An operation outstanding: issued by entry `e` of group `g` at `pc` of version `ver` on `core`; size in bytes;
release and acquire roles and scope; lanes; barrier key; sectors; failures seen. -/
structure Op where
  id : Nat
  kind : OpKind
  g : Nat
  e : Nat
  pc : Word
  ver : Nat
  ctx : Nat
  core : Nat
  size : Nat
  /-- One access for the fragment (R197). -/
  uni : Bool
  /-- The lanes of the fragment that issued it: its parts by split and its fusions are later in program order (R244, R332). -/
  mask : Word
  rel : Bool
  acq : Bool
  scope : Nat
  accs : List LaneAcc
  /-- It has performed at its core and lowered its counter; a peer has still to acknowledge it (Table 12-1, R356). -/
  lowered : Bool
  bar : Option Nat
  sectors : List Sector
  srcDone : Bool
  firstBad : Option (Nat × Nat)
  grant : Grant
  prio : Nat
  issued : Nat
  readyAt : Option Nat
  poisoned : Bool
  /-- The core's snapshot at issue, and the moment of the issue in the memory order (R250). -/
  seen : Snap
  begun : Nat
  /-- The moment at which its release crossed its boundary, once it has (R205). -/
  crossed : Option Nat
  saved : Bool
  /-- Accumulators of an unmatched `mma` were touched: what it writes is undefined (R231). -/
  touched : Bool
  /-- The barrier before a move of a transfer, once its fragment has moved (R344). -/
  prev : Option (Option Nat)
  /-- The barrier that the target's record names and the source's does not: what lands leaves it undefined (R344). -/
  wild : Option Nat
  /-- Chunks that a copy stopped by a pre-emption still finishes (R285). -/
  limit : Option Nat
  /-- Intervals [lo, hi) of its group's context-private memory that a copy reads or writes (R238). -/
  privs : List (Nat × Nat × Bool)
  deriving DecidableEq, Repr

/-- A granted pass (R228, R229): its operations, its quarters, its plane pairs, and when the array has done its work, in 48,000ths of
an engine cycle. -/
structure Pass where
  id : Nat
  cluster : Nat
  ops : List Nat
  quarters : Nat
  pairs : Nat
  endAt : Nat
  deriving DecidableEq, Repr

/-! ## Code objects -/

/-- A live-value record (Table 02-9). -/
structure Live where
  value : Nat
  kind : Nat
  width : Nat
  loc : Nat
  deriving DecidableEq, Repr

/-- A recipe (Table 02-10). -/
structure Recipe where
  value : Nat
  how : Nat
  width : Nat
  base : Nat
  lsize : Nat
  opnd : Nat
  deriving DecidableEq, Repr

/-- An async record (Table 02-11). -/
structure AsyncRec where
  aid : Nat
  akind : Nat
  cls : Nat
  maxout : Nat
  aflags : Nat
  txb : Nat
  dest : Nat
  dsize : Nat
  deriving DecidableEq, Repr

/-- A safe-point map entry with its lists (Table 02-8, R26): fragment descriptors are (JORD, LEVEL). -/
structure MapEntry where
  coff : Nat
  ord : Nat
  portable : Bool
  anchor : Bool
  live : List Live
  recipes : List Recipe
  frags : List (Nat × Nat)
  asyncs : List AsyncRec
  deriving DecidableEq, Repr

/-- A version of a kernel (Tables 02-4, 02-7, 07-12); the translated Pinamet form carries VTAG 0xFFFF_FFFF. -/
structure Version where
  vtag : Nat
  gen : Nat
  width : Nat
  vregs : Nat
  featreq : Nat
  vflags : Nat
  entry : Nat
  secOff : Nat
  code : List Word
  horizon : Nat
  map : List MapEntry
  /-- Stage table: (ENTRY, COFF). -/
  stages : List (Nat × Nat)
  deriving DecidableEq, Repr

/-- A kernel (Table 02-3). -/
structure Kernel where
  kflags : Nat
  pregs : Nat
  priv : Nat
  spad : Nat
  ords : Nat
  versions : List Version
  deriving DecidableEq, Repr

/-- A resident code object (R17, R18): the contexts that hold its references, the address each loaded it from, and the
context it is confined to when that is confidential. -/
structure Obj where
  id : Nat
  tag : Quad
  hash : List Byte
  image : List Byte
  refs : List Nat
  bases : List (Nat × Nat)
  /-- The address that its relocations were applied for (R31). -/
  load : Nat
  owner : Option Nat
  draining : Bool
  kernels : List Kernel
  deriving DecidableEq, Repr

/-! ## Regions and workgroups -/

/-- Effective values of a region (R47); the defaults of a context have the same form. -/
structure Eff where
  cores : Nat
  spad : Nat
  vregs : Nat
  priv : Nat
  prio : Nat
  weight : Nat
  fdom : Bool
  fpin : Bool
  deriving DecidableEq, Repr

/-- A stage of a pipeline (Table 04-4); a task pool has one. -/
structure Stage where
  kidx : Nat
  maxc : Nat
  minc : Nat
  gpc : Nat
  qlog : Nat
  deriving DecidableEq, Repr

/-- A move of a core between stages, and the donor's groups that have still to leave it (R65, R66). -/
structure Move where
  core : Nat
  donor : Nat
  receiver : Nat
  groups : List Nat
  deriving DecidableEq, Repr

/-- A region (R46, R47, R51, R61 to R69): the RCB as read at its start (log 29). -/
structure Region where
  id : Nat
  ctx : Nat
  rcb : Nat
  parent : Option Nat
  root : Bool
  seq : Nat
  eff : Eff
  debug : Bool
  kind : Nat
  obj : Nat
  kidx : Nat
  argp : Nat
  rstate : Nat
  rcode : Nat
  gx : Nat
  gy : Nat
  gz : Nat
  wgg : Nat
  cset : Nat
  dspad : Nat
  fetch : Bool
  cursor : Nat
  stages : List Stage
  seedP : Nat
  seedN : Nat
  seeded : Nat
  low : Nat
  high : Nat
  rivl : Nat
  dlwin : Nat
  queues : List (List (List Byte))
  /-- Poisoned records of its queues: queue, and place from the head (R364). -/
  qbad : List (Nat × Nat)
  /-- The die that holds each queue's storage (R61). -/
  dies : List Nat
  /-- Cores held: (core, stage). -/
  cores : List (Nat × Nat)
  moves : List Move
  startedAt : Nat
  /-- The moment of the Dresser's last sample of it (R65). -/
  dressedAt : Option Nat
  blockedAt : Option Nat
  warned : Bool
  /-- Groups started in this region so far: work has been placed. -/
  begun : Bool
  /-- Cores on which its groups have run (Table 14-2, end of a region). -/
  ran : List Nat
  deriving DecidableEq, Repr

/-- Where a workgroup stands: placed, draining towards a save (R285), saved (R286), gone: its groups have all left, and what they have
outstanding still runs (R34, R83). -/
inductive WPhase where
  | placed | saving | saved | gone
  deriving DecidableEq, Repr

/-- A workgroup (R50, R52 to R54). -/
structure Workgroup where
  id : Nat
  ctx : Nat
  region : Nat
  lin : Nat
  x : Nat
  y : Nat
  z : Nat
  member : Nat
  set : Nat
  wgg : Nat
  core : Nat
  spOff : Nat
  spSize : Nat
  order : Nat
  phase : WPhase
  /-- Scratchpad bytes and poison bits of a saved workgroup (R286). -/
  image : List Byte
  poison : List Nat
  /-- Offsets of initialised barriers of a saved workgroup (R189). -/
  bars : List Nat
  /-- Why it is saved: 1 its class is shed, 2 for a debugger, 8 + r for work of region r (R284). -/
  why : Nat
  deriving DecidableEq, Repr

/-- A fetch-work withdrawal whose mailbox is not yet written (R58): mailbox key, outcome, coordinates. -/
structure Mailbox where
  key : Nat
  wg : Nat
  core : Nat
  status : Nat
  x : Nat
  y : Nat
  z : Nat
  deriving DecidableEq, Repr

/-- A transfer of a kernel of an object in a context (R288, R366): pending, or finished and still choosing the version
of groups started afterwards. -/
structure Xfer where
  ctx : Nat
  obj : Nat
  kidx : Nat
  target : Nat
  active : Bool
  moved : Nat
  cmd : Option Nat
  deriving DecidableEq, Repr

/-! ## Contexts, commands and the journal -/

/-- A command taken from the intake (R36): its bytes, and the SEQ of its ACCEPTED record. -/
structure Cmd where
  seq : Nat
  ctx : Nat
  opc : Nat
  bytes : List Byte
  deriving DecidableEq, Repr

/-- A journal record without its chain hash, which is computed from the chain (Table 03-7, R42). -/
structure JRec where
  /-- SEQ of the ACCEPTED record it concerns; none for its own SEQ. -/
  ref : Option Nat
  kind : Nat
  ctx : Nat
  state : Nat
  reason : Nat
  time : Nat
  arg : Nat
  deriving DecidableEq, Repr

/-- State of a context (Table 03-1). -/
inductive CState where
  | free | open_ | closing
  deriving DecidableEq, Repr

/-- A context (R33): also its boost tokens (R301), throttle notification, due or queued for its classes (R308, R309), and debug
state, with whether a save for the debugger is under way (R311, R312). -/
structure Context where
  st : CState
  root : Nat
  reserve : Nat
  conf : Bool
  deflt : Eff
  key : Option (List Byte)
  xkey : Nat
  sealed : Option (List Byte)
  accepted : List Cmd
  started : List Cmd
  closing : Option Cmd
  tokens : Nat
  share : Nat
  notifyDue : Bool
  queued : List Nat
  notified : Option Nat
  /-- Clusters on which the context's groups are withheld, with the moment that began (R308). -/
  withheld : List (Nat × Nat)
  halt : Bool
  saveReq : Bool
  saving : Bool
  saved : Bool
  migrating : Option (Nat × Nat)
  deriving DecidableEq, Repr

/-- An intake slot's register (Table 03-5). -/
structure Accept where
  seq : Nat
  ticket : Nat
  outcome : Nat
  deriving DecidableEq, Repr

/-! ## Power -/

/-- A voltage island (Table 20-2), with the count of R299, the level that a change goes to (R348) and the moment it began, when
`vcode` is the code it leaves; its cycles in thousandths, those of R298's a and s since the last sample, that sample's moment, and the context whose request set
TARGET, if one did (R301). -/
structure Island where
  stall : Nat
  vfloor : Nat
  vcode : Nat
  freq : Nat
  target : Nat
  level : Nat
  nt : Bool
  chg : Bool
  hot : Nat
  going : Nat
  since : Nat
  mcyc : Nat
  act : Nat
  stl : Nat
  sampAt : Nat
  setBy : Option Nat
  deriving DecidableEq, Repr

/-- A cluster's allowance (Table 20-3), the windows of 64 cluster cycles gone by at its last decision (R302), and the engine cycle of
its Bench's last grant (R227). -/
structure Cluster where
  rate : Nat
  w : Nat
  credit : Int
  windows : Nat
  granted : Option Nat
  deriving DecidableEq, Repr

/-- The power registers (Table 20-4), junction temperatures in thousandths of a degree, the timers of R305 to R307, and the moments of
the last refill and charge of tokens (R301). -/
structure Power where
  isl : List Island
  clu : List Cluster
  temp : List Nat
  frac : Nat
  crcerr : Nat
  gaps : Nat
  tloss : Bool
  point : Nat
  shedlvl : Nat
  shedreq : Nat
  nomf : Nat
  resthold : Nat
  ntenter : Nat
  ntexit : Nat
  tlfrac : Nat
  telem : Nat
  frameAt : Option Nat
  curve : List Nat
  holdFrom : Nat
  shedAt : List (Nat × Nat)
  /-- `setperf` requests: (context, core island, level) (R300). -/
  reqs : List (Nat × Nat × Nat)
  refilled : Nat
  charged : Nat
  deriving DecidableEq, Repr

/-! ## Observing -/

/-- A breakpoint (Table 21-1). -/
structure Breakpoint where
  tag : Nat
  ord : Nat
  ctx : Nat
  hits : Nat
  action : Nat
  en : Bool
  deriving DecidableEq, Repr

/-- A sample bin (Table 21-2). -/
structure Bin where
  tag : Nat
  vtag : Nat
  ord : Nat
  lanes : Nat
  issue : Nat
  memst : Nat
  sync : Nat
  idle : Nat
  deriving DecidableEq, Repr

/-- A trace stream's last packet time, packets since its SYNC, and whether packets were lost since (R317, R318). -/
structure TStream where
  g : Nat
  last : Nat
  since : Nat
  lossy : Bool
  deriving DecidableEq, Repr

/-- A fragment that could not issue its unit when the last step began (R315, Table 21-3): its group, entry and PC, the moment
that began, its kind (0 to 4 as KIND of BLAME; 5 a counter at its maximum; 6 `wait` for loads or stores; 8 the clock-crossing FIFO;
7 anything else), whether R298 counts it, and the operations that held it, oldest first, each with its bin and the words after it. -/
structure Stall where
  g : Nat
  e : Nat
  pc : Word
  since : Nat
  kind : Nat
  counts : Bool
  srcs : List (Nat × Nat × Nat)
  deriving DecidableEq, Repr

/-- The debug, sample and trace registers (Table 21-1), and the fragments that could not issue. -/
structure Observe where
  bps : List Breakpoint
  sampCtx : Nat
  sampLost : Nat
  sampPeriod : Nat
  sampEn : Bool
  sbuf : Nat
  bins : List Bin
  trcCtx : Nat
  blmin : Nat
  tlog : Nat
  trcEn : Bool
  tbase : Nat
  twr : Nat
  trd : Nat
  dropped : Nat
  streams : List TStream
  stalls : List Stall
  deriving DecidableEq, Repr

/-- A Clanyx Link port (R355, R358): with link encryption, the number of the exchange that its keys come from, and the key and the
counter nonce of each direction, which counts the flits that it has carried under its key. -/
structure Link where
  up : Bool
  enc : Bool
  crcerr : Nat
  retries : Nat
  admitted : Bool
  exch : Nat
  rxKey : List Byte
  txKey : List Byte
  rxNonce : Nat
  txNonce : Nat
  deriving DecidableEq, Repr

/-- What the last host read completed with (R352); a poisoned one carries its data bytes with the marker. -/
inductive Completion where
  | value (v : Nat)
  | data (bs : List Byte)
  | unsupported
  | poisoned (bs : List Byte)
  deriving DecidableEq, Repr

/-- The data of a poisoned completion: every byte 0xFF (R352). -/
def poisonedTlp (n : Nat) : List Byte := List.replicate n 0xFF

/-! ## Issue slots and the schedule -/

/-- An issue slot (R73, R74, R86): last fragment, words in a row, what is left of the issue cycles of its last unit and of the pipe
cycles of its last vector unit, in thousandths of a cycle, the last unit's offset and executed lanes (R315), the reuse latch:
entry and the operands latched, and the moment of its last sample, in thousandths of a cycle of its island (R315). -/
structure Slot where
  core : Nat
  slot : Nat
  last : Option (Nat × Nat)
  run : Nat
  issue : Nat
  pipe : Nat
  pc : Word
  lanes : Nat
  latch : Option (Nat × Nat × Nat)
  sampled : Nat
  deriving DecidableEq, Repr

/-- An entry of a core's clock-crossing FIFO, or one that waits behind its 16 (R295, R347): the core, and the operation whose request or
response it carries. -/
structure Crossing where
  core : Nat
  op : Nat
  deriving DecidableEq, Repr

/-- What moves next (log 1): a step of the device, or an issue slot. -/
inductive Agent where
  | event (i : Instr)
  | slot (core slot : Nat)
  deriving DecidableEq, Repr

/-- The state of the KX2. -/
structure State where
  /-- The model's own: what moves next, and how many ns later (log 1). -/
  agenda : List (Nat × Agent)
  /-- The model's own: the group and entry whose unit is in issue (log 3). -/
  cur : Option (Nat × Nat)
  /-- The model's own: whether the last unit given to a fragment issued, rather than waited (log 3). -/
  issued : Bool
  /-- The model's own: counter of free values (log 6). -/
  free : Nat
  /-- The model's own: counter that names groups, operations, regions, workgroups (log 3). -/
  nextId : Nat
  time : Nat
  mem : Memory
  /-- Writes not in `mem`, newest first: their list order is the coherence order of R242 (log 7). -/
  wlog : List Write
  /-- The model's own: clock of boundaries (log 7). -/
  mclock : Nat
  /-- Cores with what their last acquire took (R245). -/
  acqs : List (Nat × Snap)
  /-- Lines held as plain bytes of encrypted pages (R182). -/
  encs : List EncLine
  /-- Writes that a barrier's phase commits when it flips: barrier key, moment of the write (R250). -/
  landed : List (Nat × Nat)
  /-- Poisoned scratchpad lines, core * 8192 + line (R185). -/
  spoison : List Nat
  /-- Poisoned 64-byte lines of main memory, by physical address / 64 (R364). -/
  mpoison : List Nat
  sideboard : List SbEntry
  /-- Requests of cores in their outbound FIFOs and behind them, in order; responses likewise (R347). -/
  outq : List Crossing
  inq : List Crossing
  /-- Initialised barriers, by key (R189). -/
  txbs : List Nat
  tlb : List TlbEntry
  xinvq : List Nat
  xdone : Nat
  groups : List Group
  ops : List Op
  passes : List Pass
  slots : List Slot
  objs : List Obj
  regions : List Region
  wgs : List Workgroup
  mailboxes : List Mailbox
  xfers : List Xfer
  ctxs : List Context
  boots : Nat
  /-- Journal records, newest first (R41). -/
  journal : List JRec
  /-- The on-die queue, oldest first (R44). -/
  jqueue : List JRec
  jack : Nat
  intake : List (List Byte)
  accept : List Accept
  heads : List (List Byte)
  headNext : Nat
  fwq : List Cmd
  fwStaged : Option (List Byte)
  /-- The firmware image running; empty for that of manufacture (R360). -/
  fwRunning : List Byte
  fwMin : Nat
  /-- MSI-X: (vector, moment of its last signal, a record waits for the next) (R353). -/
  msix : List (Nat × Nat × Bool)
  intmap : List Nat
  /-- Host windows: (+0, +8) of window w of context c at index 2c + w (Table 26-2). -/
  hostwin : List (Nat × Nat)
  errsCor : Nat
  errsUnc : Nat
  links : List Link
  devnum : Nat
  devnumSet : Bool
  lto : Nat
  power : Power
  obs : Observe
  reply : Option Completion
  /-- A warm reset has begun, and operations are still completing (R45 step 1). -/
  resetting : Bool
  deriving DecidableEq, Repr

/-! ## Reset -/

/-- A budget of zero, for a context that is FREE. -/
def Eff.zero : Eff :=
  { cores := 0, spad := 0, vregs := 0, priv := 0, prio := 0, weight := 0, fdom := false, fpin := false }

/-- A FREE context (R33). -/
def Context.free : Context :=
  { st := .free, root := 0, reserve := 0, conf := false, deflt := Eff.zero, key := none, xkey := 0, sealed := none, accepted := [],
    started := [], closing := none, tokens := 0, share := 0, notifyDue := false, queued := [], notified := none, withheld := [], halt := false,
    saveReq := false, saving := false, saved := false, migrating := none }

/-- An island after reset (Table 20-2): level 12. -/
def Island.reset : Island :=
  { stall := 0, vfloor := Config.vcode 0, vcode := Config.vcode 12, freq := 2100, target := 12, level := 12, nt := false,
    chg := false, hot := 0, going := 12, since := 0, mcyc := 0, act := 0, stl := 0, sampAt := 0, setBy := none }

/-- A cluster's allowance after reset (Table 20-3). -/
def Cluster.reset : Cluster := { rate := 256, w := 0, credit := 0, windows := 0, granted := none }

/-- The power registers after reset (Tables 20-2 to 20-4); junction temperatures are log 5. -/
def Power.reset : Power :=
  { isl := List.replicate 480 Island.reset, clu := List.replicate 96 Cluster.reset, temp := [25000, 25000, 25000, 25000], frac := 256,
    crcerr := 0, gaps := 0, tloss := false, point := 8, shedlvl := 0, shedreq := 0, nomf := 50000, resthold := 1000, ntenter := 192,
    ntexit := 128, tlfrac := 192, telem := 0, frameAt := none, curve := List.replicate 8 0, holdFrom := 0, shedAt := [], reqs := [], refilled := 0, charged := 0 }

/-- A breakpoint after reset (Table 21-1). -/
def Breakpoint.reset : Breakpoint := { tag := 0, ord := 0, ctx := 0, hits := 0, action := 0, en := false }

/-- The debug, sample and trace registers after reset (Table 21-1). -/
def Observe.reset : Observe :=
  { bps := List.replicate 16 Breakpoint.reset, sampCtx := 0, sampLost := 0, sampPeriod := 0, sampEn := false, sbuf := 0, bins := [],
    trcCtx := 0, blmin := 0, tlog := 0, trcEn := false, tbase := 0, twr := 0, trd := 0, dropped := 0, streams := [], stalls := [] }

/-- A link port after reset (R355). -/
def Link.reset : Link :=
  { up := false, enc := false, crcerr := 0, retries := 0, admitted := false, exch := 0, rxKey := [], txKey := [], rxNonce := 0, txNonce := 0 }

/-- Whether a port carries flits: it is up, and an encrypted one has not sent as many as an exchange allows (R358). -/
def Link.live (l : Link) : Bool := l.up && !(l.enc && 2 ^ 32 ≤ l.txNonce + 1)

/-- The RESET record of a cold reset (R41): SEQ 0, ARG holds BOOTS. -/
def JRec.coldReset (boots : Nat) : JRec :=
  { ref := none, kind := 0x80, ctx := 0xFF, state := 6, reason := 0, time := 0, arg := boots }

/-- The machine after a cold reset that counts as boot `boots` with firmware `fw` and minimum SVN `svn`. -/
def State.boot (boots : Nat) (fw : List Byte) (svn : Nat) : State :=
  { agenda := [], cur := none, issued := false, free := 0, nextId := 1, time := 0, mem := [], wlog := [], mclock := 0, acqs := [],
    encs := [], landed := [], spoison := [], mpoison := [], sideboard := [], outq := [], inq := [], txbs := [], tlb := [], xinvq := [], xdone := 0, groups := [], ops := [], passes := [], slots := [],
    objs := [], regions := [], wgs := [], mailboxes := [], xfers := [], ctxs := List.replicate 64 Context.free, boots := boots,
    journal := [JRec.coldReset boots], jqueue := [], jack := 0, intake := List.replicate 256 (List.replicate 64 0),
    accept := List.replicate 256 { seq := 0, ticket := 0, outcome := 0 }, heads := [List.replicate 128 0, List.replicate 128 0],
    headNext := 0, fwq := [], fwStaged := none, fwRunning := fw, fwMin := svn, msix := [], intmap := List.replicate 65 0,
    hostwin := List.replicate 128 (0, 0), errsCor := 0, errsUnc := 0, links := List.replicate 12 Link.reset, devnum := 0,
    devnumSet := false, lto := 100, power := Power.reset, obs := Observe.reset, reply := none, resetting := false }

/-- The machine right after reset: the first cold reset (R41); what the spec does not give is log 5. -/
def State.reset : State := State.boot 1 [] 0

end Sys2Proof.Machine
end

