-- ==== Sys2Proof/Machine/Masks.lean ====
section
/-! DEFINITION. Masks of lanes. -/
namespace Sys2Proof.Machine

/-- Bit `l` of a lane mask. -/
def laneIn (m : Word) (l : Nat) : Bool := m.getLsbD l

/-- The lanes 0 to 31. -/
def lanes32 : List Nat := List.range 32

/-- The lanes of a mask, ascending. -/
def lanesOf (m : Word) : List Nat := lanes32.filter (laneIn m)

/-- The lowest lane of a mask; 32 for none. -/
def lowLane (m : Word) : Nat := (lanesOf m).headD 32

/-- The mask of the lanes that satisfy a test. -/
def maskOf (p : Nat → Bool) : Word := (BitVec.ofBoolListLE (lanes32.map p)).setWidth 32

end Sys2Proof.Machine
end

