-- ==== Sys2Proof/Machine/Mem.lean ====
section
/-! DEFINITION. Memory in canonical form (log 4), the keys under which each space lies in it, and the memory order of
R238 to R252: performing, committing, acquiring, and what an observer reads (log 7). -/
namespace Sys2Proof.Machine

/-- The byte at a key; an unlisted key reads 0 (log 4). -/
def Memory.get : Memory → Nat → Byte
  | [], _ => 0
  | c :: m, k => if c.1 = k then c.2 else Memory.get m k

/-- Writes the byte at a key and keeps the canonical form. -/
def Memory.set : Memory → Nat → Byte → Memory
  | [], k, b => if b = 0 then [] else [(k, b)]
  | c :: m, k, b =>
    if k < c.1 then (if b = 0 then c :: m else (k, b) :: c :: m)
    else if k = c.1 then (if b = 0 then m else (k, b) :: m)
    else c :: Memory.set m k b

/-- Canonical from key `lo` on. -/
def Memory.wfFrom (lo : Nat) : Memory → Bool
  | [] => true
  | c :: m => decide (lo ≤ c.1) && decide (c.2 ≠ 0) && Memory.wfFrom (c.1 + 1) m

/-- The canonical form: keys strictly rising, no byte equal to what an unlisted key reads as. -/
def Memory.wf (m : Memory) : Bool := Memory.wfFrom 0 m

/-! ## Keys -/

/-- Key of a scratchpad byte (R185). -/
def spadKey (core off : Nat) : Nat := 2 ^ 48 + core * 524288 + off

/-- Key of a host-memory byte at a bus address of 64 bits (R176, R360). -/
def hostKey (a : Nat) : Nat := 2 ^ 56 + a % 2 ^ 64

/-- Key of a byte of a group's context-private memory (R177). -/
def privKey (g off : Nat) : Nat := 2 ^ 66 + g * 2 ^ 52 + off

/-- Whether a key lies in a scratchpad. -/
def isSpadKey (k : Nat) : Bool := 2 ^ 48 ≤ k && k < 2 ^ 48 + 384 * 524288

/-- The core whose scratchpad a key lies in. -/
def spadCore (k : Nat) : Nat := (k - 2 ^ 48) / 524288

/-- The offset of a scratchpad key. -/
def spadOff (k : Nat) : Nat := (k - 2 ^ 48) % 524288

/-! ## The memory order -/

/-- Whether a commit's reach covers a core (Table 14-1). -/
def Reach.covers (r : Reach) (core : Nat) : Bool :=
  match r with
  | .core c => core == c
  | .cluster c => core / 4 == c
  | .device | .system => true

/-- Whether an acquire took a commit (R245, R247). -/
def Snap.takes (t : Snap) (p : Commit) : Bool := p.at_ ≤ t.at_ && !(t.miss.any fun m => m.1 == p.by_ && m.2 < p.at_)

/-- What a core's last acquire took (R245). -/
def State.snap (s : State) (core : Nat) : Snap := ((s.acqs.find? fun p => p.1 == core).map Prod.snd).getD { at_ := 0, miss := [], heard := [] }

/-- Whether a write lies in core `core`'s snapshot when its last acquire took `t` (R243). One on a replicated page does so as soon as
it is committed (R196). -/
def Write.inSnap (w : Write) (core : Nat) (t : Snap) : Bool :=
  w.core == core || (w.joined.any fun j => j.1 == core) || w.commits.any fun p => p.reach.covers core && (w.mca || t.takes p)

/-- Whether a write lay in core `core`'s snapshot at moment `m`, when its last acquire had taken `t` (R250). -/
def Write.wasInSnap (w : Write) (core m : Nat) (t : Snap) : Bool :=
  (w.core == core && w.at_ ≤ m) || (w.joined.any fun j => j.1 == core && j.2 ≤ m) ||
    w.commits.any fun p => p.reach.covers core && (t.takes p || (w.mca && p.at_ ≤ m))

/-- Whether a write has been committed at a scope that covers the core (R243). -/
def Write.committedTo (w : Write) (core : Nat) : Bool := w.commits.any fun p => p.reach.covers core

/-- Whether a write has been committed at device or system scope: what the host and the tables' walks read (R252). -/
def Write.global (w : Write) : Bool := w.commits.any fun p => p.reach == .device || p.reach == .system

/-- A store to a replicated page that leaves its core at the core's next commit (R196). -/
def Write.owed (w : Write) (core : Nat) : Bool := w.mca && w.core == core && w.commits.isEmpty && w.key < 2 ^ 48

/-- The write that core `core` reads at a key, if one is in the log, when its last acquire took `t` and the writes of `more` may join
its snapshot (R243): the newest there; but its own, where it owes one there, since that comes after every committed one (R196, R241). -/
def State.viewIn (s : State) (core key : Nat) (t : Snap) (more : Write → Bool) : Option Write :=
  if s.wlog.any fun w => w.key == key && w.owed core then s.wlog.find? fun w => w.key == key && w.core == core
  else s.wlog.find? fun w => w.key == key && (w.inSnap core t || more w)

/-- The write that core `core` reads at a key from its snapshot. -/
def State.view (s : State) (core key : Nat) : Option Write := s.viewIn core key (s.snap core) fun _ => false

/-- What core `core` reads at a key from its snapshot (R243), in the form in which the line is held. -/
def State.observe (s : State) (core key : Nat) : Byte :=
  match s.view core key with
  | some w => w.val
  | none => s.mem.get key

/-- The newest globally committed byte at a key (R252, log 7), in the form in which the line is held. -/
def State.shared (s : State) (key : Nat) : Byte :=
  match s.wlog.find? fun w => w.key == key && w.global with
  | some w => w.val
  | none => s.mem.get key

/-- The newest write at a key: what engines and atomics on a scratchpad read (R248, log 26). -/
def State.newest (s : State) (key : Nat) : Byte :=
  match s.wlog.find? fun w => w.key == key with
  | some w => w.val
  | none => s.mem.get key

/-! ## Lines of encrypted pages (R182) -/

/-- How a line is held: as the plain bytes of an encrypted page with a key and tweak, or as it lies in memory. -/
def State.heldAs (s : State) (line : Nat) : Option (List Byte × Nat) := (s.encs.find? fun e => e.line == line).map fun e => (e.key, e.tweak)

/-- The 64 bytes of a line under one view, from those under another: `none` is the line as it lies in memory. -/
def reView (held want : Option (List Byte × Nat)) (line : List Byte) : List Byte :=
  if held == want then line
  else
    let raw := match held with | some h => Config.encLine h.1 h.2 line | none => line
    match want with | some w => Config.decLine w.1 w.2 raw | none => raw

/-- A byte under a view, of a line of which `rd` gives the bytes as they are held. -/
def State.viewed (s : State) (want : Option (List Byte × Nat)) (rd : Nat → Byte) (key : Nat) : Byte :=
  if s.heldAs (key / 64) == want then rd key
  else (reView (s.heldAs (key / 64)) want ((List.range 64).map fun i => rd (key / 64 * 64 + i)))[key % 64]?.getD 0

/-- What the host, a walk, the loader or a peer reads at a key (R252, log 7): memory as it lies there. -/
def State.peek (s : State) (key : Nat) : Byte := s.viewed none s.shared key

/-- `n` bytes that core `core` reads from its snapshot from a key on, as they are held. -/
def State.observeN (s : State) (core key n : Nat) : List Byte := (List.range n).map fun i => s.observe core (key + i)

/-- `n` bytes that the host or a walk reads from a key on. -/
def State.peekN (s : State) (key n : Nat) : List Byte := (List.range n).map fun i => s.peek (key + i)

/-! ## Writes -/

/-- A write that every observer sees at once, in the form in which the line is held: scratchpad (R191, log 7), context-private
memory, a write of the KX2 itself. -/
def State.put (s : State) (key : Nat) (b : Byte) : State :=
  if s.wlog.any fun w => w.key == key then
    { s with wlog := { key := key, val := b, core := 384, at_ := s.mclock, commits := [{ reach := .system, at_ := 0, by_ := 384 }],
                       joined := [], mca := false, atomic := none, src := none } :: s.wlog }
  else { s with mem := s.mem.set key b }

/-- `put` of consecutive bytes. -/
def State.putN (s : State) (key : Nat) : List Byte → State
  | [] => s
  | b :: bs => (s.put key b).putN (key + 1) bs

/-- Makes a line held under a view (R182): its newest bytes are converted, and every observer has them (log 57). -/
def State.hold (s : State) (line : Nat) (want : Option (List Byte × Nat)) : State :=
  if s.heldAs line == want then s
  else
    let bs := reView (s.heldAs line) want ((List.range 64).map fun i => s.newest (line * 64 + i))
    let rest := s.encs.filter fun e => e.line != line
    { s.putN (line * 64) bs with
      encs := match want with | some w => { line := line, key := w.1, tweak := w.2 } :: rest | none => rest }

/-- Every line of an interval is held under a view that is one for all of it. -/
def State.holdN (s : State) (key n : Nat) (want : Option (List Byte × Nat)) : State :=
  (List.range ((key + n - 1) / 64 + 1 - key / 64)).foldl (fun (s : State) i => s.hold (key / 64 + i) want) s

/-- The bytes of one write, like `w` but for their keys from `key` on and their values. -/
def Write.spread (w : Write) (key : Nat) : List Byte → List Write
  | [] => []
  | b :: bs => { w with key := key, val := b } :: w.spread (key + 1) bs

/-- A write that is committed, within a reach, at the moment `m` at which it performs: of a core, or of none (384). -/
def doneWrite (core m : Nat) (r : Reach) (mca : Bool) : Write :=
  { key := 0, val := 0, core := core, at_ := m, commits := [{ reach := r, at_ := m, by_ := core }], joined := [], mca := mca,
    atomic := none, src := none }

/-- Bytes of such a write, at a moment of their own. -/
def State.doneBytes (s : State) (core : Nat) (r : Reach) (mca : Bool) (key : Nat) (bs : List Byte) : State :=
  { s with mclock := s.mclock + 1, wlog := (doneWrite core (s.mclock + 1) r mca).spread key bs ++ s.wlog }

/-- Enters a write directly after the newest one that satisfies a test, in coherence order (R242). -/
def enterAfter (p : Write → Bool) (w : Write) : List Write → List Write
  | [] => [w]
  | x :: xs => if p x then w :: x :: xs else x :: enterAfter p w xs

/-- Bytes that the host or a peer writes directly after the newest write at their home (R248). -/
def State.homeBytes (s : State) (m key : Nat) : List Byte → State
  | [] => s
  | b :: bs =>
    let w : Write := { doneWrite 384 m .system false with key := key, val := b }
    ({ s with wlog := enterAfter (fun x => x.key == key && x.global) w s.wlog } : State).homeBytes m (key + 1) bs

/-- Bytes that the distributor writes into a mailbox of a core (R58): they reach that core, at workgroup scope (R240), and what it
reads there without an acquire may stay the older value (R59). -/
def State.mailBytes (s : State) (core key : Nat) (bs : List Byte) : State := s.doneBytes 384 (.core core) false key bs

/-- Bytes that the host, a peer or the KX2 itself writes (R252): committed at system scope. -/
def State.hostBytes (s : State) (key : Nat) (bs : List Byte) : State := s.doneBytes 384 .system false key bs

/-- Bytes that the host or a peer writes to memory as it lies there. -/
def State.hostWrite (s : State) (key : Nat) (bs : List Byte) : State := (s.holdN key bs.length none).hostBytes key bs

/-- A read-modify-write of the host or of a peer at the home of `n` bytes (R248, R352, R356): the old value, of the newest write that is
committed at device or system scope, and the state after it. -/
def State.homeRmw (s : State) (key n : Nat) (new : Nat → Nat) : Nat × State :=
  let s1 := s.holdN key n none
  let old := ofBytes ((List.range n).map fun i => s1.shared (key + i))
  (old, ({ s1 with mclock := s1.mclock + 1 } : State).homeBytes (s1.mclock + 1) key (bytesOf n (new old)))

/-- A write that performs at a core at a moment: nothing has committed it. -/
def coreWrite (core m : Nat) (mca : Bool) (src : Option Origin) : Write :=
  { key := 0, val := 0, core := core, at_ := m, commits := [], joined := [], mca := mca, atomic := none, src := src }

/-- Consecutive bytes of a write perform at a core (R241): they become the newest in coherence order, in no other core's snapshot.
Every observer sees a write of scratchpad at once, since R191 orders all that conflict (log 7). -/
def State.performN (s : State) (core key : Nat) (mca : Bool) (src : Option Origin) (bs : List Byte) : State :=
  if isSpadKey key then s.putN key bs
  else { s with mclock := s.mclock + 1, wlog := (coreWrite core (s.mclock + 1) mca src).spread key bs ++ s.wlog }

/-! ## Boundaries -/

/-- The reach of a release by `core` at a scope code of Table 07-5; none for group and workgroup scope (R239, R244). -/
def reachOf (scope core : Nat) : Option Reach :=
  match scope with
  | 0 => some .device
  | 3 => some (.cluster (core / 4))
  | 4 => some .system
  | _ => none

/-- Adds a commit to a write; a write on a replicated page is then seen by all (R196). -/
def Write.commit (w : Write) (r : Reach) (t core : Nat) : Write :=
  { w with commits := { reach := if w.mca then .system else r, at_ := t, by_ := core } :: w.commits }

/-- Whether the commit of a write is known to fail (R196, R200). -/
def Write.doomed (w : Write) : Bool := w.src.any fun o => o.doomed

/-- Lanes of an operation among origins. -/
def lanesAmong (os : List Origin) (op : Nat) : Word :=
  os.foldl (fun (m : Word) o => if o.op == op then m ||| BitVec.ofNat 32 (2 ^ o.lane) else m) 0

/-- The failure of a replicated commit, for its fragment's next boundary (R200): cause REMOTE_FAIL (R196). Its record names every lane
of the access (R338), those that have not failed in CMASK, and the address of a uniform access (Table 19-2). -/
def lateCommit (bad : List Origin) (op : Nat) : Option Late :=
  (bad.find? fun o => o.op == op).map fun o =>
    let f := lanesAmong bad op
    { e := o.e, pc := o.pc, fmask := f, cmask := maskOf fun l => !laneIn f l && o.lanes.any fun x => x.1 == l, dests := [],
      addr := if o.uni then o.addr else 0,
      notes := o.lanes.map fun x => { lane := x.1, addr := x.2, cause := if laneIn f x.1 then 8 else 0, src := false } }

/-- The groups after the commits of `bad` stores have failed. -/
def State.failCommits (s : State) (bad : List Origin) : State :=
  if bad.isEmpty then s
  else { s with groups := s.groups.map fun g =>
    { g with late := g.late ++ (((bad.filter fun o => o.g == g.id).map Origin.op).eraseDups.filterMap (lateCommit bad)) } }

/-- Those of a core's stores to replicated pages that satisfy a test leave it at moment `t`, one after another, each the newest write
of its place then, or fail and change no replica (R196). -/
def State.leave (s : State) (core t : Nat) (p : Write → Bool) : State :=
  let mine := s.wlog.filter fun w => w.owed core && p w
  if mine.isEmpty then s
  else
    ({ s with wlog := (mine.filter fun w => !w.doomed).map (fun w => w.commit .system t core) ++
                       s.wlog.filter fun w => !(w.owed core && p w) } : State).failCommits ((mine.filter Write.doomed).filterMap Write.src)

/-- All of a core's stores to replicated pages leave it at moment `t`. -/
def State.leaveCore (s : State) (core t : Nat) : State := s.leave core t fun _ => true

/-- The core's own stores that an atomic or a copy of it comes after at `n` bytes from each of some keys leave it first, whole stores,
for its writes enter a location's order as they perform (R196, R242, log 7). The KX2 itself (384) owes none. -/
def State.flushOwn (s : State) (core : Nat) (keys : List Nat) (n : Nat) : State :=
  let hit (w : Write) : Bool := w.owed core && keys.any fun k => k ≤ w.key && w.key < k + n
  let ms := (s.wlog.filter hit).map Write.at_
  if ms.isEmpty || 384 ≤ core then s else { s with mclock := s.mclock + 1 }.leave core (s.mclock + 1) fun w => ms.contains w.at_

/-- Step 2 of R244: every write then visible to the core is committed at one moment. -/
def State.commit (s : State) (core : Nat) (r : Reach) : State :=
  let t := s.mclock + 1
  let s1 := s.leaveCore core t
  { s1 with mclock := t, wlog := s1.wlog.map fun w => if w.inSnap core (s.snap core) then w.commit r t core else w }

/-- Commits, at one moment, the writes that a state has and an earlier one had not. -/
def State.commitNew (s old : State) (core : Nat) (r : Reach) : State :=
  let n := s.wlog.length - old.wlog.length
  let m := s.mclock + 1
  { s with mclock := m, wlog := (s.wlog.take n).map (fun w => w.commit r m core) ++ s.wlog.drop n }

/-- The phase flip of a barrier commits, to its cluster, what the copies whose sectors it counted have written outside scratchpad
(R250). -/
def State.flipCommit (s : State) (key : Nat) : State :=
  let ms := (s.landed.filter fun x => x.1 == key).map Prod.snd
  if ms.isEmpty then s
  else
    let t := s.mclock + 1
    { s with mclock := t, landed := s.landed.filter fun x => x.1 != key,
             wlog := s.wlog.map fun w => if ms.contains w.at_ then w.commit (.cluster (spadCore key / 4)) t w.core else w }

/-- A release of a scope crossed on a core (R244). -/
def State.release (s : State) (core scope : Nat) : State :=
  match reachOf scope core with
  | some r => s.commit core r
  | none => s

/-- The commits that a core hears of by reading a write at a key (R244, R246, R249): the first that reached the core of that write and
of each that stands before it in the key's coherence order. -/
def State.shows (s : State) (core key : Nat) : Option Write → List (Nat × Nat)
  | none => []
  | some w =>
    ((s.wlog.filter fun x => x.key == key).dropWhile fun x => x != w).filterMap fun x =>
      ((x.commits.filter fun p => p.reach.covers core).getLast?).bind fun p => if p.by_ < 384 then some (p.by_, p.at_) else none

/-- A core hears of commits: its next acquire takes all that their cores committed until then. -/
def State.hear (s : State) (core : Nat) (ps : List (Nat × Nat)) : State :=
  if ps.isEmpty then s
  else { s with acqs := (core, { s.snap core with heard := ps.eraseDups ++ (s.snap core).heard }) :: s.acqs.filter fun p => p.1 != core }

/-- An acquire crossed on a core (R245): every commit made so far joins its snapshot, where its reach covers the core, but for
those of other cores in `miss` that have not reached it yet (R247, log 7). What the core had taken stays, and what its reads have
shown it has reached it (R246). -/
def State.acquireBut (s : State) (core : Nat) (miss : List Nat) : State :=
  let old := s.snap core
  let had (p : Nat) : Nat := ((old.miss.find? fun m => m.1 == p).map Prod.snd).getD old.at_
  let upTo (p : Nat) : Nat := (old.heard.filter fun k => k.1 == p).foldl (fun n k => max n k.2) (had p)
  let away := ((miss.filter fun p => p != core && decide (p < 384)).eraseDups.map fun p => (p, upTo p)).filter fun m => decide (m.2 < s.mclock)
  { s with acqs := (core, { at_ := s.mclock, miss := away, heard := [] }) :: s.acqs.filter fun p => p.1 != core }

/-- An acquire that every commit made so far has reached. -/
def State.acquire (s : State) (core : Nat) : State := s.acquireBut core []

/-- An acquire that leaves out what cores of a free choice, none of them in `near`, have committed since the core heard of them
(R247). -/
def State.acquireFree (s : State) (core : Nat) (near : List Nat) : State :=
  { s with free := s.free + 1 }.acquireBut core ((Config.freeCores s.free).filter fun p => !near.contains p)

/-- The cores of a core's cluster. -/
def clusterCores (core : Nat) : List Nat := (List.range 4).map (core / 4 * 4 + ·)

/-! ## Plain loads -/

/-- The stores, as core and moment, that are newer than the core's snapshot at one of `n` bytes and committed to it (R243). -/
def State.newerStores (s : State) (core key n : Nat) : List (Nat × Nat) :=
  ((List.range n).flatMap fun i =>
    if s.wlog.any fun w => w.key == key + i && w.owed core then []
    else (((s.wlog.filter fun w => w.key == key + i).takeWhile fun w => !w.inSnap core (s.snap core)).filter fun w => w.committedTo core).map
      fun w => (w.core, w.at_)).eraseDups

/-- Those of some stores that a free choice names. -/
def State.chosen (s : State) (cs : List (Nat × Nat)) : List (Nat × Nat) :=
  (cs.zipIdx.filter fun c => Config.freeBit (s.free + c.2)).map Prod.fst

/-- Whether a write is a byte of one of some stores and committed to a core. -/
def Write.among (w : Write) (core : Nat) (cs : List (Nat × Nat)) : Bool := cs.contains (w.core, w.at_) && w.committedTo core

/-- Writes join a core's snapshot: it has read them (R243). -/
def State.join (s : State) (core : Nat) (p : Write → Bool) : State :=
  if !(s.wlog.any fun w => p w && !w.inSnap core (s.snap core)) then s
  else
    { s with mclock := s.mclock + 1,
             wlog := s.wlog.map fun w => if p w && !w.inSnap core (s.snap core) then { w with joined := (core, s.mclock + 1) :: w.joined } else w }

/-- Bytes that a plain load of a core returns, as they are held (R243): the snapshot's; or, where newer stores are committed to the
core, those of them that a free choice names may be returned too, each with all its bytes, and then join the snapshot. -/
def State.loadBytes (s : State) (core key n : Nat) : List Byte × State :=
  match s.newerStores core key n with
  | [] => (s.observeN core key n, s)
  | cs =>
    let ws := (List.range n).map fun i => (key + i, s.viewIn core (key + i) (s.snap core) fun w => w.among core (s.chosen cs))
    (ws.map fun (x : Nat × Option Write) => match x.2 with | some w => w.val | none => s.mem.get x.1,
      ({ s with free := s.free + cs.length }.hear core (ws.flatMap fun (x : Nat × Option Write) => s.shows core x.1 x.2)).join core fun w => w.among core (s.chosen cs))

/-- What an acquiring load of `n` bytes shows a core (R246). -/
def State.readShows (s : State) (core key n : Nat) : List (Nat × Nat) :=
  (List.range n).flatMap fun i => s.shows core (key + i) (s.view core (key + i))

/-! ## Poison marks -/

/-- Whether any line of the interval of a core's scratchpad is poisoned (R195). -/
def State.spadPoisoned (s : State) (core off n : Nat) : Bool :=
  s.spoison.any fun l => core * 8192 + off / 64 ≤ l && l ≤ core * 8192 + (off + n - 1) / 64

/-- Poisons a scratchpad line: its whole content becomes undefined (R194). -/
def State.poisonSpad (s : State) (line : Nat) : State :=
  let base := 2 ^ 48 + line * 64
  let s1 := (List.range 64).foldl (fun (s : State) i => s.put (base + i) (Config.freeByte (s.free + i))) s
  { s1 with spoison := if s.spoison.contains line then s.spoison else line :: s.spoison, free := s.free + 64 }

/-- Whether any line of an interval of main memory carries the mark (R364). -/
def State.memPoisoned (s : State) (key n : Nat) : Bool :=
  s.mpoison.any fun l => key / 64 ≤ l && l ≤ (key + n - 1) / 64

/-- Marks a main-memory or host line (R364, R210). -/
def State.poisonMem (s : State) (line : Nat) : State :=
  if s.mpoison.contains line then s else { s with mpoison := line :: s.mpoison }

/-- A write of all 64 bytes of a line clears its mark; a partial write leaves it (R364). -/
def State.wroteMem (s : State) (key n : Nat) : State :=
  { s with mpoison := s.mpoison.filter fun l => !(key ≤ l * 64 && l * 64 + 64 ≤ key + n) }

/-- Marks of the lines that a write of the host or a peer touches (R364): a marker marks them, and a whole line without one clears its
mark. -/
def State.hostMarks (s : State) (a n : Nat) (poison : Bool) : State :=
  if poison then (List.range ((a + n - 1) / 64 + 1 - a / 64)).foldl (fun (s : State) i => s.poisonMem (a / 64 + i)) s
  else s.wroteMem a n

end Sys2Proof.Machine
end

