-- ==== Sys2Proof/Machine/Lookup.lean ====
section
/-! DEFINITION. Finding and replacing the parts of the state by their names: groups, entries, operations, regions,
objects, versions, workgroups, contexts, slots. -/
namespace Sys2Proof.Machine

/-- A function on every element of a vector. -/
def mapVec {α β : Type} {n : Nat} (f : α → β) (v : Vector α n) : Vector β n := ⟨(v.toList.map f).toArray, by simp⟩

/-- A group by name. -/
def State.group? (s : State) (g : Nat) : Option Group := s.groups.find? fun x => x.id == g

/-- Changes one group. -/
def State.modGroup (s : State) (g : Nat) (f : Group → Group) : State :=
  { s with groups := s.groups.map fun x => if x.id == g then f x else x }

/-- An entry of a group's split table and spill area by ID (R75). -/
def Group.entry (g : Group) (e : Nat) : Entry := g.entries[e]?.getD Entry.free

/-- Replaces an entry. -/
def Group.setEntry (g : Group) (e : Nat) (x : Entry) : Group := { g with entries := g.entries.setIfInBounds e x }

/-- Changes an entry without a change of STATE. -/
def Group.modEntry (g : Group) (e : Nat) (f : Entry → Entry) : Group := g.setEntry e (f (g.entry e))

/-- Changes an entry of a group. -/
def State.modEntry (s : State) (g e : Nat) (f : Entry → Entry) : State := s.modGroup g fun x => x.modEntry e f

/-- Whether an entry is a fragment: in use, and no join wait (Table 05-2). -/
def Entry.isFragment (x : Entry) : Bool :=
  match x.st with
  | .free | .joinWait => false
  | _ => true

/-- MASK of an entry (Table 05-2): the lanes that it runs, and those that folded branches have masked off (R82). -/
def Entry.all (x : Entry) : Word := x.fold.foldl (fun (m : Word) f => m ||| f.lanes) x.mask

/-- The live lanes of a group: those in the MASK of some entry, the join waits' among them (R83). -/
def Group.live (g : Group) : Word := g.entries.toList.foldl (fun (m : Word) x => m ||| x.all) 0

/-- GW (R84). -/
def Group.gw (g : Group) : Nat := if g.legacy then 16 else 32

/-- An operation by name. -/
def State.op? (s : State) (o : Nat) : Option Op := s.ops.find? fun x => x.id == o

/-- Changes one operation. -/
def State.modOp (s : State) (o : Nat) (f : Op → Op) : State :=
  { s with ops := s.ops.map fun x => if x.id == o then f x else x }

/-- Changes every operation. -/
def State.mapOps (s : State) (f : Op → Op) : State := { s with ops := s.ops.map f }

/-- Changes every group. -/
def State.mapGroups (s : State) (f : Group → Group) : State := { s with groups := s.groups.map f }

/-- Changes every entry of a group without a change of STATE. -/
def Group.mapEntries (g : Group) (f : Entry → Entry) : Group := { g with entries := mapVec f g.entries }

/-- A region by name. -/
def State.region? (s : State) (r : Nat) : Option Region := s.regions.find? fun x => x.id == r

/-- Changes one region. -/
def State.modRegion (s : State) (r : Nat) (f : Region → Region) : State :=
  { s with regions := s.regions.map fun x => if x.id == r then f x else x }

/-- A workgroup by name. -/
def State.wg? (s : State) (w : Nat) : Option Workgroup := s.wgs.find? fun x => x.id == w

/-- Changes one workgroup. -/
def State.modWg (s : State) (w : Nat) (f : Workgroup → Workgroup) : State :=
  { s with wgs := s.wgs.map fun x => if x.id == w then f x else x }

/-- A context by number. -/
def State.ctx (s : State) (c : Nat) : Context := s.ctxs[c]?.getD Context.free

/-- Changes one context. -/
def State.modCtx (s : State) (c : Nat) (f : Context → Context) : State := { s with ctxs := s.ctxs.modify c f }

/-- An object by the model's name. -/
def State.obj? (s : State) (o : Nat) : Option Obj := s.objs.find? fun x => x.id == o

/-- The object that a tag names in a context (R17). -/
def State.objByTag (s : State) (c : Nat) (tag : Nat) : Option Obj :=
  s.objs.find? fun x => x.tag.toNat == tag && (x.refs.contains c || (x.draining && ((x.bases.any fun b => b.1 == c) || s.groups.any fun g => g.obj == x.id && g.ctx == c)))

/-- A kernel of an object. -/
def State.kernel? (s : State) (o k : Nat) : Option Kernel := (s.obj? o).bind fun x => x.kernels[k]?

/-- A version of a kernel. -/
def State.version? (s : State) (o k v : Nat) : Option Version := (s.kernel? o k).bind fun x => x.versions[v]?

/-- A version with no code, for a group whose object is gone. -/
def Version.blank : Version :=
  { vtag := 0, gen := 2, width := 32, vregs := 128, featreq := 0, vflags := 0, entry := 0, secOff := 0, code := [], horizon := 1,
    map := [], stages := [] }

/-- The running version of a group; a moved fragment's is its target (R288). -/
def State.versionOf (s : State) (g : Group) : Version := (s.version? g.obj g.kidx g.ver).getD Version.blank

/-- The version in which a fragment's PC stands: the target of a transfer, once it has moved (R29, R343). -/
def State.versionAt (s : State) (g : Group) (e : Nat) : Version :=
  match (g.entry e).moved, g.pending with
  | some _, some t => (s.version? g.obj g.kidx t).getD Version.blank
  | _, _ => s.versionOf g

/-- The object tag of a group's code. -/
def State.tagOf (s : State) (g : Group) : Nat := ((s.obj? g.obj).map fun o => o.tag.toNat).getD 0

/-- The kernel's PRIV: bytes of a group's context-private memory (R177). -/
def State.privOf (s : State) (g : Group) : Nat := ((s.kernel? g.obj g.kidx).map Kernel.priv).getD 0

/-- The effective priority class of a group (R88). -/
def State.prioOf (s : State) (g : Group) : Nat := ((s.region? g.region).map fun r => r.eff.prio).getD 0

/-- Whether a priority class is shed (Table 20-4). -/
def State.isShed (s : State) (prio : Nat) : Bool := prio < s.power.shedlvl

/-- Whether the group's region runs with DEBUG set (R47). -/
def State.debugOf (s : State) (g : Group) : Bool := ((s.region? g.region).map Region.debug).getD false

/-- The stage table's COFF of an entry point in the running version (R119). -/
def State.stageEntry (s : State) (g : Group) (n : Nat) : Option Nat :=
  ((s.versionOf g).stages.find? fun p => p.1 == n).map Prod.snd

/-- The group's workgroup. -/
def State.wgOf (s : State) (g : Group) : Option Workgroup := s.wg? g.wg

/-- Whether a group occupies its place on a core: resident, or draining after its last lane exited (R83). -/
def Group.onCore (g : Group) : Bool :=
  match g.phase with
  | .resident | .draining => true
  | _ => false

/-- An issue slot; one that has never issued is idle. -/
def State.slotAt (s : State) (core slot : Nat) : Slot :=
  (s.slots.find? fun x => x.core == core && x.slot == slot).getD
    { core := core, slot := slot, last := none, run := 0, issue := 0, pipe := 0, pc := 0, lanes := 0, latch := none, sampled := 0 }

/-- Replaces an issue slot. -/
def State.setSlot (s : State) (x : Slot) : State :=
  { s with slots := x :: s.slots.filter fun y => !(y.core == x.core && y.slot == x.slot) }

/-- An island of the power controller. -/
def State.island (s : State) (n : Nat) : Island := s.power.isl[n]?.getD Island.reset

/-- The island of a core: islands 0-3 of its cluster (R295). -/
def coreIsland (core : Nat) : Nat := 5 * (core / 4) + core % 4

/-- A cluster's allowance. -/
def State.cluster (s : State) (n : Nat) : Cluster := s.power.clu[n]?.getD Cluster.reset

/-- A free word, and the counter advanced (log 6). -/
def State.takeFree (s : State) : Word × State := (Config.freeWord s.free, { s with free := s.free + 1 })

/-- A fresh name, and the counter advanced. -/
def State.fresh (s : State) : Nat × State := (s.nextId, { s with nextId := s.nextId + 1 })

end Sys2Proof.Machine
end

