-- ==== Sys2Proof/Machine/Journal.lean ====
section
/-! DEFINITION. SHA-512 (R17, R42), the CRC-16 of telemetry frames (R303), and the command journal: records, ring, on-die
queue, chain hash, signed heads and MSI-X signals (R41 to R44, R353). -/
namespace Sys2Proof.Machine

/-- Round constants 0 to 19 of SHA-512. -/
def sha512K0 : List Nat :=
  [ 0x428A2F98D728AE22, 0x7137449123EF65CD, 0xB5C0FBCFEC4D3B2F, 0xE9B5DBA58189DBBC,
    0x3956C25BF348B538, 0x59F111F1B605D019, 0x923F82A4AF194F9B, 0xAB1C5ED5DA6D8118,
    0xD807AA98A3030242, 0x12835B0145706FBE, 0x243185BE4EE4B28C, 0x550C7DC3D5FFB4E2,
    0x72BE5D74F27B896F, 0x80DEB1FE3B1696B1, 0x9BDC06A725C71235, 0xC19BF174CF692694,
    0xE49B69C19EF14AD2, 0xEFBE4786384F25E3, 0x0FC19DC68B8CD5B5, 0x240CA1CC77AC9C65 ]

/-- Round constants 20 to 39 of SHA-512. -/
def sha512K1 : List Nat :=
  [ 0x2DE92C6F592B0275, 0x4A7484AA6EA6E483, 0x5CB0A9DCBD41FBD4, 0x76F988DA831153B5,
    0x983E5152EE66DFAB, 0xA831C66D2DB43210, 0xB00327C898FB213F, 0xBF597FC7BEEF0EE4,
    0xC6E00BF33DA88FC2, 0xD5A79147930AA725, 0x06CA6351E003826F, 0x142929670A0E6E70,
    0x27B70A8546D22FFC, 0x2E1B21385C26C926, 0x4D2C6DFC5AC42AED, 0x53380D139D95B3DF,
    0x650A73548BAF63DE, 0x766A0ABB3C77B2A8, 0x81C2C92E47EDAEE6, 0x92722C851482353B ]

/-- Round constants 40 to 59 of SHA-512. -/
def sha512K2 : List Nat :=
  [ 0xA2BFE8A14CF10364, 0xA81A664BBC423001, 0xC24B8B70D0F89791, 0xC76C51A30654BE30,
    0xD192E819D6EF5218, 0xD69906245565A910, 0xF40E35855771202A, 0x106AA07032BBD1B8,
    0x19A4C116B8D2D0C8, 0x1E376C085141AB53, 0x2748774CDF8EEB99, 0x34B0BCB5E19B48A8,
    0x391C0CB3C5C95A63, 0x4ED8AA4AE3418ACB, 0x5B9CCA4F7763E373, 0x682E6FF3D6B2B8A3,
    0x748F82EE5DEFB2FC, 0x78A5636F43172F60, 0x84C87814A1F0AB72, 0x8CC702081A6439EC ]

/-- Round constants 60 to 79 of SHA-512. -/
def sha512K3 : List Nat :=
  [ 0x90BEFFFA23631E28, 0xA4506CEBDE82BDE9, 0xBEF9A3F7B2C67915, 0xC67178F2E372532B,
    0xCA273ECEEA26619C, 0xD186B8C721C0C207, 0xEADA7DD6CDE0EB1E, 0xF57D4F7FEE6ED178,
    0x06F067AA72176FBA, 0x0A637DC5A2C898A6, 0x113F9804BEF90DAE, 0x1B710B35131C471B,
    0x28DB77F523047D84, 0x32CAAB7B40C72493, 0x3C9EBE0A15C9BEBC, 0x431D67C49C100D4C,
    0x4CC5D4BECB3E42B6, 0x597F299CFC657E2A, 0x5FCB6FAB3AD6FAEC, 0x6C44198C4A475817 ]

/-- Round constants of SHA-512. -/
def sha512K : List Nat := sha512K0 ++ sha512K1 ++ sha512K2 ++ sha512K3

/-- Initial hash of SHA-512. -/
def sha512H : List Nat :=
  [ 0x6A09E667F3BCC908, 0xBB67AE8584CAA73B, 0x3C6EF372FE94F82B, 0xA54FF53A5F1D36F1,
    0x510E527FADE682D1, 0x9B05688C2B3E6C1F, 0x1F83D9ABFB41BD6B, 0x5BE0CD19137E2179 ]

/-- Rotation right of a 64-bit number. -/
def rotr64 (x n : Nat) : Nat := (x / 2 ^ n + x * 2 ^ (64 - n)) % 2 ^ 64

/-- The next schedule word from the last sixteen, newest first. -/
def shaNext (ws : List Nat) : Nat :=
  let w (i : Nat) := ws[i - 1]?.getD 0
  let s0 := (rotr64 (w 15) 1).xor ((rotr64 (w 15) 8).xor (w 15 / 2 ^ 7))
  let s1 := (rotr64 (w 2) 19).xor ((rotr64 (w 2) 61).xor (w 2 / 2 ^ 6))
  (w 16 + s0 + w 7 + s1) % 2 ^ 64

/-- The rounds over the constants that remain; `ws` holds the schedule words not yet used, oldest first. -/
def shaRounds : List Nat → List Nat → List Nat → List Nat
  | [], _, h => h
  | k :: ks, ws, h =>
    let v (i : Nat) := h[i]?.getD 0
    let e := v 4
    let a := v 0
    let s1 := (rotr64 e 14).xor ((rotr64 e 18).xor (rotr64 e 41))
    let ch := (e.land (v 5)).xor ((2 ^ 64 - 1 - e).land (v 6))
    let t1 := v 7 + s1 + ch + k + ws.headD 0
    let s0 := (rotr64 a 28).xor ((rotr64 a 34).xor (rotr64 a 39))
    let mj := (a.land (v 1)).xor ((a.land (v 2)).xor ((v 1).land (v 2)))
    shaRounds ks (ws.drop 1 ++ [shaNext ws.reverse])
      [(t1 + s0 + mj) % 2 ^ 64, a, v 1, v 2, (v 3 + t1) % 2 ^ 64, e, v 5, v 6]

/-- Big-endian number of bytes. -/
def beNat (bs : List Byte) : Nat := bs.foldl (fun n b => n * 256 + b.toNat) 0

/-- `n` bytes of a number, most significant first. -/
def beBytes (n x : Nat) : List Byte := (bytesOf n x).reverse

/-- One block of 128 bytes. -/
def shaBlock (h : List Nat) (b : List Byte) : List Nat :=
  let ws := (List.range 16).map fun i => beNat ((b.drop (8 * i)).take 8)
  (h.zip (shaRounds sha512K ws h)).map fun p => (p.1 + p.2) % 2 ^ 64

/-- The padded message (FIPS 180-4). -/
def shaPad (bs : List Byte) : List Byte :=
  let n := bs.length
  bs ++ 0x80 :: (List.replicate ((239 - n % 128) % 128) 0 ++ beBytes 16 (8 * n))

/-- SHA-512 of bytes: 64 bytes. -/
def sha512 (bs : List Byte) : List Byte :=
  let p := shaPad bs
  let blocks := (List.range (p.length / 128)).map fun i => (p.drop (128 * i)).take 128
  (blocks.foldl shaBlock sha512H).flatMap (beBytes 8)

/-- One byte of the CRC-16 of R303. -/
def crcByte (crc b : Nat) : Nat :=
  (List.range 8).foldl (fun (c : Nat) _ => if 32768 ≤ c then (c * 2 % 65536).xor 0x1021 else c * 2) (crc.xor (b * 256))

/-- CRC-16, polynomial 0x1021, initial value 0xFFFF (R303). -/
def crc16 (bs : List Nat) : Nat := bs.foldl crcByte 0xFFFF

/-! ## The journal -/

/-- SEQ of the newest record written: JHEAD (Table 03-2). -/
def State.jhead (s : State) : Nat := s.journal.length - 1

/-- SEQ of the oldest record still in the ring: JOLD (Table 03-2). -/
def State.jold (s : State) : Nat := s.journal.length - 524288

/-- A record by SEQ. -/
def State.record? (s : State) (seq : Nat) : Option JRec :=
  if seq < s.journal.length then s.journal[s.journal.length - 1 - seq]? else none

/-- Bytes 0-31 of a record (Table 03-7). -/
def JRec.bytes32 (r : JRec) (seq : Nat) : List Byte :=
  bytesOf 8 seq ++ bytesOf 1 r.reason ++ bytesOf 1 r.state ++ bytesOf 1 r.ctx ++ bytesOf 1 r.kind ++
    bytesOf 4 (r.ref.getD seq) ++ bytesOf 8 r.time ++ bytesOf 8 r.arg

/-- Chain hashes of a chain given newest first (R42): the hash of its newest record. -/
def chainHash : List JRec → List Byte
  | [] => List.replicate 32 0
  | r :: rs => (sha512 (chainHash rs ++ r.bytes32 rs.length)).take 32

/-- The 64 bytes of record `seq`, if the ring holds it (R35). -/
def State.recordBytes (s : State) (seq : Nat) : List Byte :=
  if seq < s.jold then List.replicate 64 0
  else
    match s.record? seq with
    | some r => r.bytes32 seq ++ chainHash (s.journal.drop (s.journal.length - 1 - seq))
    | none => List.replicate 64 0

/-- Records above JACK (R44). -/
def State.jabove (s : State) : Nat := s.jhead - s.jack

/-- JSTAT.FULL (R44). -/
def State.jfull (s : State) : Bool := 458752 < s.jabove

/-- JSTAT.HELD (R44). -/
def State.held (s : State) : Bool := 4096 ≤ s.jqueue.length

/-- Whether the ring has room for a record (R44). -/
def State.jroom (s : State) : Bool := s.jabove < 524288

/-- A signed head over the newest record (R43). -/
def State.signHead (s : State) : State :=
  let body := bytesOf 8 0x4A48584B ++ bytesOf 8 s.jhead ++ chainHash s.journal
  let sig := ((Config.sign body) ++ List.replicate 64 0).take 64
  { s with heads := s.heads.set s.headNext (body.take 48 ++ sig ++ List.replicate 16 0), headNext := 1 - s.headNext }

/-- Signals the vector of a context's INTMAP entry, or leaves it to the next signal within 2 us (R353). -/
def State.signal (s : State) (ctx : Nat) : State :=
  let e := s.intmap[if ctx < 64 then ctx else 64]?.getD 0
  let v := bitsOf e 5 0
  if !bitOf e 8 then s
  else
    match s.msix.find? fun p => p.1 == v with
    | some (_, t, _) =>
      if s.time < t + 2000 then { s with msix := s.msix.map fun p => if p.1 == v then (v, t, true) else p }
      else { s with msix := s.msix.map fun p => if p.1 == v then (v, s.time, false) else p }
    | none => { s with msix := (v, s.time, false) :: s.msix }

/-- Writes a record to the ring; it is signed when its SEQ ends a run of 4,096, and signalled (R41 to R43, R353). -/
def State.enter (s : State) (r : JRec) : State :=
  let s1 := { s with journal := r :: s.journal }
  let s2 := if s1.jhead % 4096 == 4095 then s1.signHead else s1
  if 4 ≤ r.state then s2.signal r.ctx else s2

/-- Posts a record: to the ring, or to the on-die queue while the ring is full or the queue holds earlier ones (R44). -/
def State.post (s : State) (ref : Option Nat) (kind ctx state reason arg : Nat) : State :=
  let r : JRec := { ref := ref, kind := kind, ctx := ctx, state := state, reason := reason, time := s.time, arg := arg }
  if s.jqueue.isEmpty && s.jroom then s.enter r else { s with jqueue := s.jqueue ++ [r] }

/-- Posts an event (Table 03-7). -/
def State.event (s : State) (kind ctx reason arg : Nat) : State := s.post none kind ctx 6 reason arg

/-- Moves records of the on-die queue into the ring while it has room (R44). -/
def State.drainQueue (s : State) : List JRec → State
  | [] => { s with jqueue := [] }
  | r :: rs => if s.jroom then (s.enter r).drainQueue rs else { s with jqueue := r :: rs }

/-- A step that would post more than the on-die queue holds does not happen; one that posts nothing is never delayed
(R44, log 19). -/
def State.unlessHeld (old new : State) : State := if new.jqueue.length ≤ max 4096 old.jqueue.length then new else old

end Sys2Proof.Machine
end

