-- ==== Sys2Proof/Machine/Levels.lean ====
section
/-! DEFINITION. Performance levels (R295 to R300, R348): floors, requests, targets and the start of a change. -/
namespace Sys2Proof.Machine

/-! ## Allowance -/

/-- CREDIT clamped (R302). -/
def clampCredit (c : Int) : Int := max (-8388607) (min 8388607 c)

/-- The thermal factor of a junction temperature in thousandths of a degree, in 10,000ths (R302). -/
def thermal (t : Nat) : Nat := if t ≤ 95000 then 2560000 else if 105000 < t then 640000 else 2560000 - (t - 95000) * 192

/-- What CREDIT of cluster `cl` rises by in a cluster cycle (R302): base rate * FRAC * TF / 65,536, rounded down (log 16). -/
def Power.rise (p : Power) (cl : Nat) : Nat :=
  Config.baseRate cl * p.frac * thermal (p.temp[cl / 24]?.getD 25000) / 655360000

/-- Cluster cycles gone by at a moment: the fabric runs at 2.1 GHz (R302, R347). -/
def clusterCycles (now : Nat) : Nat := now * 21 / 10

/-- Cluster cycles pass: CREDIT rises by the rate in each (R302). -/
def Power.earn (p : Power) (cycles : Nat) : Power :=
  { p with clu := p.clu.zipIdx.map fun k => { k.1 with credit := clampCredit (k.1.credit + cycles * p.rise k.2) } }

/-- A unit is issued or passed on one of a cluster's islands: CREDIT falls by its weight (R302). -/
def State.spend (s : State) (cl weight : Nat) : State :=
  { s with power := { s.power with clu := s.power.clu.modify cl fun k => { k with credit := clampCredit (k.credit - weight) } } }

/-! ## Islands -/

/-- Changes an island. -/
def State.modIsland (s : State) (n : Nat) (f : Island → Island) : State :=
  { s with power := { s.power with isl := s.power.isl.modify n f } }

/-- floorlv of an island (R299). -/
def State.floorlv (s : State) (n : Nat) : Nat :=
  ((List.range 16).find? fun l => decide ((s.island n).vfloor ≤ Config.vcode l)).getD 15

/-- The exit threshold in use (Table 20-4). -/
def Power.exitThreshold (p : Power) : Nat := if p.ntexit < p.ntenter then p.ntexit else p.ntenter - 1

/-- The core of a core island. -/
def islandCore (n : Nat) : Nat := n / 5 * 4 + n % 5

/-- req[c] on an island (R299): 12 without a request, or above 12 without tokens. -/
def State.reqLevel (s : State) (n c : Nat) : Nat :=
  match s.power.reqs.find? fun r => r.1 == c && r.2.1 == n with
  | some r => if 12 < r.2.2 && (s.ctx c).tokens == 0 then 12 else r.2.2
  | none => 12

/-- The contexts resident on a core island, ascending. -/
def State.islandCtxs (s : State) (n : Nat) : List Nat :=
  (List.range 64).filter fun c => s.groups.any fun g => g.ctx == c && g.core == islandCore n && g.phase == .resident

/-- top of R299. -/
def State.topLevel (s : State) (n : Nat) : Nat :=
  match (s.islandCtxs n).map (s.reqLevel n) with
  | [] => 12
  | l :: ls => ls.foldl max l

/-- The context whose request makes the level `top` of an island (R301): the lowest one that asks for it, where the floor does not lie
above it. -/
def State.asker (s : State) (n : Nat) : Option Nat :=
  if s.topLevel n < s.floorlv n then none
  else (s.islandCtxs n).find? fun c => s.reqLevel n c == s.topLevel n && s.power.reqs.any fun r => r.1 == c && r.2.1 == n

/-- NT and TARGET of a core island from the values in force (R299), and whose request has set TARGET (R301). -/
def State.targetCore (s : State) (n : Nat) : State :=
  let top := s.topLevel n
  let i := s.island n
  let nt := i.nt && !(i.stall < s.power.exitThreshold || 12 < top)
  s.modIsland n fun x => { x with nt := nt, target := if nt then s.floorlv n else max top (s.floorlv n),
                                  setBy := if nt then none else s.asker n }

/-- The engine island's TARGET: the largest of its cluster's core islands (R299). -/
def State.targetEngine (s : State) (cl : Nat) : State :=
  let t := [0, 1, 2, 3].foldl (fun (m : Nat) k => max m (s.island (5 * cl + k)).target) 0
  s.modIsland (5 * cl + 4) fun x => { x with target := t }

/-- A change starts towards a TARGET that differs from the level, unless one is in progress (R296, R348). The island runs at the lower
frequency until it ends, and LEVEL reads the level of that (R351, log 62). -/
def Island.start (now : Nat) (i : Island) : Island :=
  if i.chg || i.target == i.level then i
  else { i with chg := true, going := i.target, since := now, freq := min (Config.levelFreq i.level) (Config.levelFreq i.target),
                level := min i.level i.target }

/-- A change ends at its level (R296); a newer TARGET starts the next (R348). -/
def Island.finish (now : Nat) (i : Island) : Island :=
  if i.chg then
    Island.start now { i with chg := false, level := i.going, freq := Config.levelFreq i.going, vcode := Config.vcode i.going }
  else i

/-- The supply code of island `n` at a moment (R296): a change moves it one code per 25 ns, upwards before the clock follows, downwards
after the clock has. -/
def Island.supply (i : Island) (n now : Nat) : Nat :=
  let goal := Config.vcode i.going
  if !i.chg then i.vcode
  else if i.vcode ≤ goal then min goal (i.vcode + (now - i.since) / 25)
  else max goal (i.vcode - (now - i.since - Config.relock n i.since) / 25)

/-- When a change of island `n` ends (R296): the supply has moved and the clock has locked again. -/
def Island.endsAt (i : Island) (n : Nat) : Nat :=
  let goal := Config.vcode i.going
  i.since + Config.relock n i.since + 25 * (i.vcode - goal + (goal - i.vcode))

/-- Whether a change has ended by a moment. -/
def Island.due (i : Island) (n now : Nat) : Bool := i.chg && i.endsAt n ≤ now

/-- What R298 asks of a core island while time passes: whether it has a resident group that is not withheld, whether a fragment waits
for memory, and thousandths of its cycles in which a unit goes on issuing. -/
structure Load where
  active : Bool
  stalled : Bool
  busy : Nat

/-- Cycles pass on an island, in thousandths, with those of them that R298 counts. -/
def Island.count (w : Load) (n : Nat) (i : Island) : Island :=
  { i with mcyc := i.mcyc + n, act := if w.active then i.act + n else i.act,
           stl := if w.active && w.stalled then i.stl + (n - w.busy) else i.stl }

/-- Time passes on island `n` from one moment to another, each part at the frequency in force (R348): a change ends, and the next one
starts, when it is due. `k` bounds the changes. -/
def Island.pass (n to_ : Nat) (w : Load) (from_ : Nat) (i : Island) : Nat → Island
  | 0 => i.count w (i.freq * (to_ - from_))
  | k + 1 =>
    if i.due n to_ then
      let e := max from_ (i.endsAt n)
      let c := i.freq * (e - from_)
      ((i.count w c).finish e).pass n to_ { w with busy := w.busy - c } e k
    else i.count w (i.freq * (to_ - from_))

/-- TARGET of a core island is computed again, after a sample or a change of its requests, with that of its cluster's engine island,
and changes start (R299). -/
def State.retarget (s : State) (n : Nat) : State :=
  (((s.targetCore n).targetEngine (n / 5)).modIsland n (Island.start s.time)).modIsland (n / 5 * 5 + 4) (Island.start s.time)

/-- A `setperf` request (R300): its result and the state. -/
def State.requestLevel (s : State) (c core level : Nat) : Nat × State :=
  let n := coreIsland core
  if Config.vcode level < (s.island n).vfloor then (1, s)
  else
    let s1 : State := { s with power := { s.power with reqs := (c, n, level) :: s.power.reqs.filter fun r => !(r.1 == c && r.2.1 == n) } }
    (if 12 < level && (s.ctx c).tokens == 0 then 2 else 0, s1.retarget n)

end Sys2Proof.Machine
end

