-- ==== Sys2Proof/Machine/Split.lean ====
section
/-! DEFINITION. The split table (R75 to R83, R337): events, spilling and refilling, joins, exits. -/
namespace Sys2Proof.Machine

/-- Entry IDs 0 to 71. -/
def entryIds : List Nat := List.range 72

/-- Changes an entry's STATE, with the event counter and STAMP of R337; a refilled entry is READY in the table. -/
def Group.chg (g : Group) (e : Nat) (st : EState) (f : Entry → Entry) : Group :=
  let x := g.entry e
  let y := f x
  if x.st = st then g.setEntry e { y with st := st }
  else
    let n := g.events + 1
    { (g.setEntry e { y with st := st, stamp := n }) with events := n }

/-- An entry becomes FREE: every field but ID is cleared, the STAMP moves. -/
def Group.freeEntry (g : Group) (e : Nat) : Group := g.chg e .free fun _ => Entry.free

/-- The lanes that a fragment runs have left it: it becomes FREE, or runs on with those that a folded branch has masked off, from
where the paths meet (R82). -/
def Group.vacate (g : Group) (e : Nat) : Group :=
  match (g.entry e).fold with
  | [] => g.freeEntry e
  | f :: fs => g.chg e .ready fun x =>
      { x with mask := f.lanes, pend := 0, pc := f.meet, spilled := false, park := .none, named := 0, inH := f.inH, heldT := false,
               redo := none, moved := none, seenB := false, seenT := false, seenO := false, clash := none, fold := fs }

/-- A folded fragment that has reached where its paths meet runs on with all of them (R82). -/
def Entry.meet (x : Entry) : List Fold → Entry
  | [] => { x with fold := [] }
  | f :: fs => if f.meet == x.pc && f.inH == x.inH then { x with mask := x.mask ||| f.lanes }.meet fs else { x with fold := f :: fs }

/-- Entries in use (R75). -/
def Group.used (g : Group) : Nat := (entryIds.filter fun e => (g.entry e).st != .free).length

/-- Entries in use that lie in the table (R79). -/
def Group.inTable (g : Group) : List Nat := entryIds.filter fun e => (g.entry e).st != .free && !(g.entry e).spilled

/-- Entries that lie in the spill area (R79). -/
def Group.inSpill (g : Group) : List Nat := entryIds.filter fun e => (g.entry e).st != .free && (g.entry e).spilled

/-- The entry of lowest STAMP among some, the lowest ID among equals. -/
def Group.oldest (g : Group) : List Nat → Option Nat
  | [] => none
  | e :: es =>
    match g.oldest es with
    | none => some e
    | some f => if (g.entry f).stamp.toNat < (g.entry e).stamp.toNat then some f else some e

/-- The lowest free ID (R77). -/
def Group.freeId (g : Group) : Option Nat := entryIds.find? fun e => (g.entry e).st = .free

/-- The entry that R79 spills first; `cause` is the fragment that caused the event. After the waits and the READY entries a
HALTED one, which the rule does not name (log 23). -/
def Group.victim (g : Group) (cause : Nat) : Option Nat :=
  let waits := g.inTable.filter fun e => match (g.entry e).st with
    | .joinWait | .collective | .parked => true
    | _ => false
  match g.oldest waits with
  | some e => some e
  | none =>
    match g.oldest (g.inTable.filter fun e => e != cause && (g.entry e).st == .ready) with
    | some e => some e
    | none => g.oldest (g.inTable.filter fun e => e != cause)

/-- The entry that R79 refills first: SPILLED-READY before any other, lowest STAMP. -/
def Group.refill (g : Group) : Option Nat :=
  match g.oldest (g.inSpill.filter fun e => (g.entry e).st = .spilledReady) with
  | some e => some e
  | none => g.oldest g.inSpill

/-- Moves an entry to the spill area; a READY one shows SPILLED-READY (R79). -/
def Group.spillOne (g : Group) (e : Nat) : Group :=
  if (g.entry e).st = .ready then g.chg e .spilledReady fun x => { x with spilled := true }
  else g.modEntry e fun x => { x with spilled := true }

/-- Moves an entry back to the table; SPILLED-READY becomes READY (R79). -/
def Group.refillOne (g : Group) (e : Nat) : Group :=
  if (g.entry e).st = .spilledReady then g.chg e .ready fun x => { x with spilled := false, wait := 0 }
  else g.modEntry e fun x => { x with spilled := false }

/-- Spills or refills until at most 8 entries lie in the table and none that could be refilled waits (R79). -/
def Group.settleTable (g : Group) (cause : Nat) : Nat → Group
  | 0 => g
  | n + 1 =>
    if 8 < g.inTable.length then
      match g.victim cause with
      | some e => (g.spillOne e).settleTable cause n
      | none => g
    else if g.inTable.length < 8 then
      match g.refill with
      | some e => (g.refillOne e).settleTable cause n
      | none => g
    else g

/-- `settleTable` to its end: at most 72 entries move in one event. -/
def Group.settle (g : Group) (cause : Nat) : Group := g.settleTable cause 80

/-- One split-table event (R337): the entries whose STATE it has changed take STAMPs in ascending ID order. -/
def Group.event (g : Group) (f : Group → Group) : Group :=
  let h := f g
  let changed := entryIds.filter fun e => (h.entry e).st != (g.entry e).st
  let stamp (e : Nat) (x : Entry) : Entry :=
    { x with stamp := if changed.contains e then g.events + BitVec.ofNat 32 (changed.idxOf e + 1) else (g.entry e).stamp }
  { h with events := g.events + BitVec.ofNat 32 changed.length, entries := h.entries.mapIdx stamp }

/-- An entry wakes or resumes: READY, refilled at once if it was spilled (R79); its wait for issue begins anew (R86). -/
def Group.awake (g : Group) (e : Nat) (f : Entry → Entry) : Group :=
  (g.chg e .ready fun x => { f x with spilled := false, park := .none, named := 0, wait := 0 }).settle e

/-- `awake` as an event of its own. -/
def Group.wake (g : Group) (e : Nat) (f : Entry → Entry) : Group := g.event fun h => h.awake e f

/-- A new fragment beside entry `e` for one path of a divergent branch (Table 05-3). -/
def Group.newPath (g : Group) (e : Nat) (m pc : Word) : Group :=
  match g.freeId with
  | none => g
  | some i =>
    let x := g.entry e
    g.chg i .ready fun _ => { Entry.free with mask := m, pc := pc, join := x.join, parent := x.parent, depth := x.depth, inH := x.inH,
                                              exempt := x.exempt, haltP := x.haltP, passed := x.passed, outPassed := x.outPassed }

/-- Paths by their lowest lane (Table 05-3): insertion of one. -/
def insertPath (p : Word × Word) : List (Word × Word) → List (Word × Word)
  | [] => [p]
  | q :: qs => if lowLane p.1 < lowLane q.1 then p :: q :: qs else q :: insertPath p qs

/-- Nonempty paths ordered by their lowest lane. -/
def sortPaths (ps : List (Word × Word)) : List (Word × Word) :=
  (ps.filter fun p => p.1 != 0).foldl (fun acc p => insertPath p acc) []

/-- `split(p…)` of R120 on entry `e`: none when R78 forbids it; one path only sets the PC. -/
def Group.split (g : Group) (e : Nat) (ps : List (Word × Word)) : Option Group :=
  match sortPaths ps with
  | [] => some g
  | p :: qs =>
    if 72 < g.used + qs.length then none
    else
      let first (h : Group) : Group := h.modEntry e fun x => { x with mask := p.1, pc := p.2 }
      some (if qs.isEmpty then first g else g.event fun h => (qs.foldl (fun (h : Group) q => h.newPath e q.1 q.2) (first h)).settle e)

/-- `jset` (Table 05-3): entry `e` becomes a join wait and a new entry takes its lanes; none when R78 forbids it. -/
def Group.jset (g : Group) (e : Nat) (j next : Word) : Option (Group × Nat) :=
  match g.freeId with
  | none => none
  | some i =>
    let x := g.entry e
    let child : Entry := { Entry.free with mask := x.mask, pc := next, join := j, parent := e, depth := x.depth + 1, inH := x.inH,
                                           exempt := x.exempt, haltP := x.haltP, passed := x.passed, outPassed := x.outPassed }
    some (g.event fun h => ((h.chg e .joinWait fun y => { y with pend := x.mask, pc := j }).chg i .ready fun _ => child).settle i, i)

/-- A join wait whose PEND is zero resumes, or becomes FREE and passes the step to its parent (Table 05-3): each an event of its
own (R337). -/
def Group.resolve (g : Group) (e : Nat) : Nat → Group
  | 0 => g
  | n + 1 =>
    let x := g.entry e
    if x.st = .joinWait && x.pend = 0 then
      if x.mask = 0 then
        (let g1 := g.event fun h => (h.vacate e).settle e
         if x.parent < 72 then g1.resolve x.parent n else g1)
      else g.wake e fun y => { y with pc := y.pc + 4, pend := 0 }
    else g

/-- `join` at the fragment's JOIN (Table 05-3). -/
def Group.joinAt (g : Group) (e : Nat) : Group :=
  let x := g.entry e
  let g1 := g.modEntry x.parent fun p => { p with pend := p.pend &&& ~~~x.mask }
  (g1.event fun h => (h.vacate e).settle x.parent).resolve x.parent 72

/-- The order in which entries are settled after an exit (R83): deepest first, ascending ID. -/
def Group.settleOrder (g : Group) : List Nat :=
  let depths := (List.range 72).reverse
  depths.flatMap fun d => entryIds.filter fun e => (g.entry e).depth == d && (g.entry e).st != .free

/-- Whether every live lane that a COLLECTIVE wait names has arrived at its PC (R140). -/
def Group.arrived (g : Group) (pc named : Word) (with_ : Word) : Bool :=
  let here := g.entries.toList.foldl (fun (m : Word) x => if x.st = .collective && x.pc = pc then m ||| x.mask else m) with_
  (named &&& g.live &&& ~~~here) == 0

/-- One entry of the settlement of R83. A join wait's parent has its own turn, since it lies less deep. A COLLECTIVE wait that ends
keeps the lane set that it names, and executes. -/
def Group.settleExit (g : Group) (e : Nat) : Group :=
  let x := g.entry e
  match x.st with
  | .free => g
  | .joinWait =>
    if x.pend != 0 then g
    else if x.mask = 0 then (g.vacate e).settle e
    else g.awake e fun y => { y with pc := y.pc + 4, pend := 0 }
  | .collective =>
    if x.mask = 0 then (g.vacate e).settle e
    else if g.arrived x.pc x.named 0 then (g.chg e .ready fun y => { y with spilled := false, wait := 0 }).settle e
    else g
  | _ => if x.mask = 0 then (g.vacate e).settle e else g

/-- Lanes leave the group (R83): they leave every MASK and PEND, and the entries are settled. -/
def Group.dropLanes (g : Group) (m : Word) : Group :=
  let cut (x : Entry) : Entry :=
    { x with mask := x.mask &&& ~~~m, pend := x.pend &&& ~~~m, redo := x.redo.map fun (r : Word × Word) => (r.1, r.2 &&& ~~~m),
             fold := (x.fold.map fun f => { f with lanes := f.lanes &&& ~~~m }).filter fun f => f.lanes != 0 }
  let g1 := { g with entries := mapVec cut g.entries, hLanes := g.hLanes &&& ~~~m,
                     hRedo := g.hRedo.map fun (r : Word × Word) => (r.1, r.2 &&& ~~~m) }
  g1.settleOrder.foldl Group.settleExit g1

/-- Fragments of a group: entries that hold lanes and a PC. -/
def Group.fragments (g : Group) : List Nat := entryIds.filter fun e => (g.entry e).isFragment

/-- Whether some fragment is in the handler (R280). -/
def Group.inHandler (g : Group) : Bool := entryIds.any fun e => (g.entry e).isFragment && (g.entry e).inH

end Sys2Proof.Machine
end

