-- ==== Sys2Proof/Machine/Xlate.lean ====
section
/-! DEFINITION. Tagged pointers, page tables, the host IOMMU, replicas and encrypted pages (R176 to R184, R354), and the
reads and writes of single accesses after translation. -/
namespace Sys2Proof.Machine

/-- Causes of Table 11-6. -/
def causeSpace : Nat := 1
def causeSpad : Nat := 2
def causePriv : Nat := 3
def causeUnmapped : Nat := 4
def causeProt : Nat := 5
def causePte : Nat := 6
def causeHost : Nat := 7
def causeRemote : Nat := 8
def causePoison : Nat := 9
def causeAlign : Nat := 10
def causeCode : Nat := 11

/-- A page-table entry or other 64-bit value read from physical memory. -/
def State.phys64 (s : State) (pa : Nat) : Nat := ofBytes (s.peekN pa 8)

/-- Bytes of a page of SIZE `z` (Table 11-3). -/
def pageBytes (z : Nat) : Nat := 4096 * 4 ^ z

/-- PA field of an entry, as an address (Table 11-3). -/
def pteAddr (e : Nat) : Nat := bitsOf e 47 12 * 4096

/-- Field errors of a leaf (R180 to R182). -/
def State.leafBad (s : State) (c e lo hi : Nat) : Bool :=
  let z := bitsOf e 5 2
  let dev := bitsOf e 60 48
  let remote := bitOf e 8
  bitsOf e 63 61 != 0 || bitOf e 11 || z < lo || hi < z ||
    (if bitOf e 9 then Config.memTop < pteAddr e + 4096
    else pteAddr e % pageBytes z != 0 || Config.memTop < pteAddr e + pageBytes z) ||
    (!remote && dev != 0) || (remote && s.devnumSet && dev == s.devnum) || (bitOf e 10 && !(s.ctx c).conf) || (bitOf e 9 && remote)

/-- The entry used of a leaf's covered entries (R181): its own, or, where they differ, a free choice among them. -/
def State.coveredEntry (s : State) (table idx granule e : Nat) : Nat :=
  let n := pageBytes (bitsOf e 5 2) / granule
  let first := idx / n * n
  if n ≤ 1 || (List.range n).all fun i => s.phys64 (table + 8 * (first + i)) == e then e
  else s.phys64 (table + 8 * (first + (Config.freeWord s.free).toNat % n))

/-- A leaf at a level with its granule and permitted sizes (Table 11-2). -/
def State.walkLeaf (s : State) (c va table idx granule lo hi e : Nat) : Except Nat TlbEntry :=
  if lo ≤ bitsOf e 5 2 && bitsOf e 5 2 ≤ hi then
    let u := s.coveredEntry table idx granule e
    if !bitOf u 0 then .error causeUnmapped
    else if s.leafBad c u lo hi || !bitOf u 1 then .error causePte
    else .ok { ctx := c, va := va / pageBytes (bitsOf u 5 2) * pageBytes (bitsOf u 5 2), size := pageBytes (bitsOf u 5 2), pte := u }
  else .error causePte

/-- Field errors of an entry that points to a table of `bytes` (R180). -/
def tableBad (e bytes : Nat) : Bool :=
  bitsOf e 11 2 != 0 || bitsOf e 63 48 != 0 || pteAddr e % max bytes 4096 != 0 || Config.memTop < pteAddr e + bytes

/-- The four-level walk (R179 to R181). -/
def State.walk (s : State) (c va : Nat) : Except Nat TlbEntry :=
  let t3 := (s.ctx c).root
  let e3 := s.phys64 (t3 + 8 * bitsOf va 51 42)
  if !bitOf e3 0 then .error causeUnmapped
  else if bitOf e3 1 || tableBad e3 32768 then .error causePte
  else
    let t2 := pteAddr e3
    let e2 := s.phys64 (t2 + 8 * bitsOf va 41 30)
    if !bitOf e2 0 then .error causeUnmapped
    else if bitOf e2 1 then s.walkLeaf c va t2 (bitsOf va 41 30) (2 ^ 30) 9 9 e2
    else if tableBad e2 8192 then .error causePte
    else
      let t1 := pteAddr e2
      let e1 := s.phys64 (t1 + 8 * bitsOf va 29 20)
      if !bitOf e1 0 then .error causeUnmapped
      else if bitOf e1 1 then s.walkLeaf c va t1 (bitsOf va 29 20) (2 ^ 20) 4 8 e1
      else if tableBad e1 2048 then .error causePte
      else
        let t0 := pteAddr e1
        let e0 := s.phys64 (t0 + 8 * bitsOf va 19 12)
        if !bitOf e0 0 then .error causeUnmapped
        else if !bitOf e0 1 then .error causePte
        else s.walkLeaf c va t0 (bitsOf va 19 12) 4096 0 3 e0

/-- The cached translation of an address, if any (R183). -/
def State.cached (s : State) (c va : Nat) : Option TlbEntry :=
  s.tlb.find? fun t => t.ctx == c && t.va ≤ va && va < t.va + t.size

/-- The translation an access uses: the walk's, or a cached one that differs from it by a free choice (R183, log 9). -/
def State.lookup (s : State) (c va : Nat) : Except Nat TlbEntry :=
  let w := s.walk c va
  match s.cached c va with
  | none => w
  | some t =>
    match w with
    | .ok t' => if t == t' then w else if Config.freeBit s.free then .ok t else w
    | .error _ => if Config.freeBit s.free then .ok t else w

/-- Caches a translation in place of one of the same page (R183). -/
def cacheIn (l : List TlbEntry) (t : TlbEntry) : List TlbEntry :=
  if l.contains t then l else t :: l.filter fun u => !(u.ctx == t.ctx && u.va == t.va)

/-- Remembers the translations that accesses at some addresses of a context use, and passes to the next free value, if one had to
choose (R183). -/
def State.rememberAll (s : State) (c : Nat) (vas : List Nat) : State :=
  if vas.all fun va => (s.cached c va).isSome && s.lookup c va == s.walk c va then s
  else
    { s with free := s.free + 1,
             tlb := (vas.filterMap fun va => match s.lookup c va with | .ok t => some t | .error _ => none).eraseDups.foldl cacheIn s.tlb }

/-- Remembers the translation that an access uses. -/
def State.remember (s : State) (c va : Nat) : State := s.rememberAll c [va]

/-- The replicas of a descriptor, home first: (device or none, physical address); none when a field is wrong (R182). -/
def State.replicas (s : State) (pa size : Nat) : Option (List (Option Nat × Nat)) :=
  let es := (List.range 8).map fun i => s.phys64 (pa + 8 * i)
  let ok (e : Nat) : Bool := !bitOf e 63 || (!bitOf e 61 && bitsOf e 11 0 == 0 && pteAddr e % size == 0 &&
    pteAddr e + size ≤ Config.memTop)
  match es with
  | home :: _ =>
    if bitOf home 63 && es.all ok then
      some ((es.filter fun e => bitOf e 63).map fun e => (if bitOf e 62 then some (bitsOf e 60 48) else none, pteAddr e))
    else none
  | [] => none

/-- Where an access to a global address performs, under the permission it needs: 0 read, 1 write or atomic, 2 fetch. A line sent
to a peer is encrypted on its way out of the state: nothing here holds it. -/
def State.xlate (s : State) (c va need : Nat) : Except Nat Tgt :=
  match s.lookup c va with
  | .error e => .error e
  | .ok t =>
    let off := va - t.va
    if (need == 1 && !bitOf t.pte 6) || (need == 2 && !bitOf t.pte 7) then .error causeProt
    else
      let enc := if bitOf t.pte 10 then some (c, va) else none
      if bitOf t.pte 8 then .ok (.remote (bitsOf t.pte 60 48) (pteAddr t.pte + off))
      else if bitOf t.pte 9 then
        (match s.replicas (pteAddr t.pte) t.size with
        | some rs => .ok (.repl (rs.map fun r => (r.1, r.2 + off)) enc)
        | none => .error causePte)
      else .ok (.bytes (pteAddr t.pte + off) enc)

/-- The device IOMMU (R354). -/
def State.hostAllowed (s : State) (c a n : Nat) (write : Bool) : Bool :=
  [0, 1].any fun w =>
    let p := s.hostwin[2 * c + w]?.getD (0, 0)
    bitOf p.1 0 && (!write || bitOf p.1 1) && p.1 / 4096 ≤ a / 4096 && (a + n - 1) / 4096 ≤ p.2 / 4096

/-- Whether two workgroups are one, or members of one cluster set (R54, R178). -/
def State.sameSet (s : State) (a b : Workgroup) : Bool :=
  a.id == b.id || (a.region == b.region && a.set == b.set && ((s.region? a.region).map fun r => decide (1 < r.cset)).getD false)

/-- Whether a scratchpad interval lies in a range held there by the group's workgroup or its cluster set (R178). -/
def State.spadHeld (s : State) (g : Group) (core off n : Nat) : Bool :=
  match s.wgOf g with
  | none => false
  | some w => s.wgs.any fun x => s.sameSet w x && x.core == core && x.phase != .saved &&
      x.spOff ≤ off && off + n ≤ x.spOff + x.spSize

/-- Tag of a pointer (Table 11-1). -/
def ptrTag (p : Nat) : Nat := p / 2 ^ 60

/-- The core that a space-0x1 pointer names (Table 11-1). -/
def spadTarget (core p : Nat) : Nat := core / 4 * 4 + bitsOf p 59 58

/-- SPACE_FAULT conditions of R177 for an access of `n` bytes. -/
def spaceBad (p n : Nat) : Bool :=
  match ptrTag p with
  | 0 | 2 | 3 => bitsOf p 59 52 != 0
  | 1 => bitsOf p 57 19 != 0 || 524288 < bitsOf p 18 0 + n
  | _ => true

/-- The check of one access (R198 steps 1 to 5) and where it performs; `align` is the alignment it needs. -/
def State.resolve (s : State) (g : Group) (p n align : Nat) (write : Bool) : Except Nat Tgt :=
  if spaceBad p n then .error causeSpace
  else if p % align != 0 then .error causeAlign
  else
    match ptrTag p with
    | 0 => s.xlate g.ctx p (if write then 1 else 0)
    | 1 =>
      let core := spadTarget g.core p
      let off := bitsOf p 18 0
      if !s.spadHeld g core off n then .error causeSpad
      else if !write && s.spadPoisoned core off n then .error causePoison
      else .ok (.bytes (spadKey core off) none)
    | 2 =>
      let off := bitsOf p 51 0
      if s.privOf g < off + n then .error causePriv else .ok (.bytes (privKey g.id off) none)
    | _ =>
      let a := bitsOf p 51 0
      if s.hostAllowed g.ctx a n write then .ok (.bytes (hostKey a) none) else .error causeHost

/-- The state after a check: its translation is cached (R183). -/
def State.resolved (s : State) (g : Group) (p : Nat) : State :=
  if ptrTag p == 0 && !spaceBad p 1 then s.remember g.ctx p else s

/-- The replica a core's load uses: the first local one on its die, else the lowest local one, else home (R182). -/
def replicaFor (core : Nat) (rs : List (Option Nat × Nat)) : Option Nat × Nat :=
  match rs.find? fun r => r.1.isNone && Config.dieOf r.2 == core / 96 with
  | some r => r
  | none =>
    match rs.find? fun r => r.1.isNone with
    | some r => r
    | none => rs.headD (none, 0)

/-- The key that a core reads for a target; none when a peer must answer. -/
def Tgt.readKey (t : Tgt) (core : Nat) : Option Nat :=
  match t with
  | .bytes k _ => some k
  | .repl rs _ => match replicaFor core rs with | (none, pa) => some pa | (some _, _) => none
  | .remote _ _ => none

/-- The XTS key of a context (R362). -/
def State.xtsKey (s : State) (c : Nat) : List Byte := (s.ctx c).key.getD []

/-- The view of a page with ENC at an address of a context: key and tweak VA[51:6] (R182). -/
def State.encView (s : State) (enc : Option (Nat × Nat)) : Option (List Byte × Nat) := enc.map fun e => (s.xtsKey e.1, e.2 / 64)

/-- The view under which an access reaches its bytes. -/
def State.tgtView (s : State) (t : Tgt) : Option (List Byte × Nat) :=
  match t with
  | .bytes _ enc | .repl _ enc => s.encView enc
  | .remote _ _ => none

/-- The local keys of a target. -/
def Tgt.localKeys : Tgt → List Nat
  | .bytes k _ => [k]
  | .repl rs _ => rs.filterMap fun r => if r.1.isNone then some r.2 else none
  | .remote _ _ => []

/-- A byte that a core reads at a target's key from its snapshot, under the target's view. -/
def State.tgtByte (s : State) (core : Nat) (t : Tgt) (key : Nat) : Byte := s.viewed (s.tgtView t) (s.observe core) key

/-- Plain bytes that a core's load returns at a target (R243), with the state after any free choice; an empty answer
when a peer must answer. -/
def State.readTgt (s : State) (core : Nat) (t : Tgt) (n : Nat) : List Byte × State :=
  match t.readKey core with
  | none => ([], s)
  | some k =>
    if 2 ^ 48 ≤ k || s.heldAs (k / 64) == s.tgtView t then s.loadBytes core k n
    else ((List.range n).map fun i => s.tgtByte core t (k + i), s)

/-- The lines of a target are held under its view. -/
def State.holdTgt (s : State) (t : Tgt) (n : Nat) : State :=
  t.localKeys.foldl (fun (s : State) k => if 2 ^ 48 ≤ k then s else s.holdN k n (s.tgtView t)) s

/-- Stores bytes at a target as writes that perform at a core (R241); private memory is the group's own (R238). On a replicated
page they wait for the core's next commit (R196), for which `src` names the store. -/
def State.writeTgt (s : State) (core : Nat) (t : Tgt) (bs : List Byte) (src : Option Origin) : State :=
  let s1 := s.holdTgt t bs.length
  match t with
  | .bytes k _ => if 2 ^ 66 ≤ k then s1.putN k bs else s1.performN core k false none bs
  | .repl _ _ => t.localKeys.foldl (fun (s : State) k => s.performN core k true src bs) s1
  | .remote _ _ => s1

/-- Whether a target is a replicated page. -/
def Tgt.isRepl : Tgt → Bool
  | .repl _ _ => true
  | _ => false

/-- Bytes at a target that are committed at system scope as they perform: of the KX2 itself (core 384), or of an engine of a core on a
replicated page (R196), which comes after the stores that the core still owes there. -/
def State.putTgt (s : State) (core : Nat) (t : Tgt) (bs : List Byte) : State :=
  t.localKeys.foldl (fun (s : State) k => s.doneBytes core .system t.isRepl k bs)
    ((s.flushOwn core t.localKeys bs.length).holdTgt t bs.length)

/-- Whether a port is up, over which a peer is reached (R355). -/
def State.linked (s : State) : Bool := s.links.any Link.live

/-- A peer's byte that the KX2 itself reads for a command or a device engine: a free value, or, by free choices for its line, the
failure of the access or the poison marker (R357, R364, log 15). -/
def State.peerByte (s : State) (va : Nat) : Except Nat Byte :=
  if !s.linked || Config.freeBit (s.free + 2 * (va / 64)) then .error causeRemote
  else if Config.freeBit (s.free + 2 * (va / 64) + 1) then .error causePoison
  else .ok (Config.freeByte (s.free + va))

/-- Bytes read by the KX2 itself through a context's translation, for a command or a device engine (R367); a cause on
failure. Reads go byte by byte, so that a range may cross pages. -/
def State.readVirt (s : State) (c va : Nat) : Nat → Except Nat (List Byte)
  | 0 => .ok []
  | n + 1 =>
    if va / 2 ^ 52 != 0 then .error causeSpace
    else
      match s.xlate c va 0 with
      | .error e => .error e
      | .ok t =>
        match t.readKey 384 with
        | none =>
          (match s.peerByte va, State.readVirt s c (va + 1) n with
          | .error e, _ | _, .error e => .error e
          | .ok b, .ok bs => .ok (b :: bs))
        | some k =>
          if s.memPoisoned k 1 then .error causePoison
          else
            match State.readVirt s c (va + 1) n with
            | .error e => .error e
            | .ok bs => .ok (s.viewed (s.tgtView t) s.shared k :: bs)

/-- Bytes written by the KX2 itself through a context's translation, committed at system scope; a byte that does not translate is
not written. -/
def State.writeVirt (s : State) (c va : Nat) : List Byte → State
  | [] => s
  | b :: bs =>
    let s1 := match if va / 2 ^ 52 == 0 then s.xlate c va 1 else .error causeSpace with
      | .ok t => s.putTgt 384 t [b]
      | .error _ => s
    s1.writeVirt c (va + 1) bs

/-- Whether a context's page at an address is mapped writable. -/
def State.writable (s : State) (c va : Nat) : Bool :=
  match s.xlate c va 1 with
  | .ok _ => true
  | .error _ => false

/-! ## Poison marks of main memory -/

/-- The main-memory key whose poison mark an access meets, if any. -/
def Tgt.memKey (t : Tgt) (core : Nat) : Option Nat :=
  match t.readKey core with
  | some k => if isSpadKey k || 2 ^ 66 ≤ k then none else some k
  | none => none

/-- Whether the bytes of an access carry the mark of an uncorrectable error (R364). -/
def State.tgtPoisoned (s : State) (core : Nat) (t : Tgt) (n : Nat) : Bool :=
  match t.memKey core with
  | some k => s.memPoisoned k n
  | none => false

end Sys2Proof.Machine
end

