-- ==== Sys2Proof/Machine/Trace.lean ====
section
/-! DEFINITION. Bins of code offsets, trace streams and packets (R310, R317, R318). -/
namespace Sys2Proof.Machine

/-- The bin of a code offset: the safe point at or below it with the greatest COFF, and the words after it (chapter 21). -/
def Version.bin (v : Version) (pc : Nat) : Nat × Nat :=
  let below := v.map.filter fun m => !m.anchor && m.coff ≤ pc
  match below.foldl (fun (b : Option MapEntry) m => match b with
      | some x => if x.coff < m.coff then some m else b
      | none => some m) none with
  | some m => (m.ord, (pc - m.coff) / 4)
  | none => (0xFFFFFFFF, pc / 4)

/-- Whether observation acts on a group: its context's registers, and DEBUG in a confidential context (R310). -/
def State.observable (s : State) (g : Group) : Bool := !(s.ctx g.ctx).conf || s.debugOf g

/-- Ring size, 0 when the setting disables trace (Table 21-1). -/
def Observe.ring (o : Observe) : Nat := if o.trcEn && 12 ≤ o.tlog && o.tlog ≤ 30 then 2 ^ o.tlog else 0

/-- Whether trace is on for a group (R317). -/
def State.traced (s : State) (g : Group) : Bool := 0 < s.obs.ring && s.obs.trcCtx == g.ctx && s.observable g

/-- Writes packet bytes at WR, seen by all before WR advances (R317). -/
def State.ringWrite (s : State) (bs : List Byte) : State :=
  let o := s.obs
  let s1 := (List.range (bs.length / 16)).foldl (fun (s : State) i =>
    s.writeVirt o.trcCtx (o.tbase + (o.twr + 16 * i) % o.ring) ((bs.drop (16 * i)).take 16)) s
  { s1 with obs := { s1.obs with twr := o.twr + bs.length } }

/-- The common header (R318). -/
def traceHeader (type stream dt : Nat) : Nat := type + stream * 16 + dt * 2 ^ 20

/-- STREAM of a group (R317). -/
def Group.stream (g : Group) : Nat := g.core * 64 + g.slot * 16 + g.pos

/-- A 16-byte packet: header, and bits [127:32]. -/
def packet16 (type stream dt rest : Nat) : List Byte := bytesOf 4 (traceHeader type stream dt) ++ bytesOf 12 rest

/-- The LOSS packet once 64 bytes are free after drops; every stream then restarts (R317). -/
def State.lossPacket (s : State) : State :=
  let o := s.obs
  if o.dropped != 0 && o.twr + 64 ≤ o.trd + o.ring then
    let s1 := s.ringWrite (packet16 0xF 0 0 (o.dropped * 2 ^ 32))
    { s1 with obs := { s1.obs with dropped := 0, streams := s1.obs.streams.map fun t => { t with lossy := true } } }
  else s

/-- Writes a packet if the ring has room for it, else drops and counts it (R317). -/
def State.putPacket (s : State) (bs : List Byte) : State :=
  let s0 := s.lossPacket
  let o := s0.obs
  if o.twr + bs.length ≤ o.trd + o.ring then s0.ringWrite bs
  else { s0 with obs := { o with dropped := o.dropped + 1 } }

/-- Linear workgroup index of a group, 0 for a task group (Table 21-4). -/
def State.wgLinear (s : State) (g : Group) : Nat := ((s.wgOf g).map Workgroup.lin).getD 0

/-- One SYNC packet (Table 21-4). -/
def State.syncBytes (s : State) (g : Group) (e reason : Nat) : List Byte :=
  let v := s.versionAt g e
  let x := g.entry e
  let b := v.bin x.pc.toNat
  bytesOf 4 (traceHeader 1 g.stream 0) ++ bytesOf 4 0 ++ bytesOf 8 s.time ++ bytesOf 1 reason ++ bytesOf 1 g.gid ++ bytesOf 2 g.kidx ++
    bytesOf 4 x.all.toNat ++ bytesOf 1 e ++ bytesOf 3 b.2 ++ bytesOf 4 b.1 ++ bytesOf 4 (s.wgLinear g) ++ bytesOf 4 v.vtag ++
    bytesOf 8 (s.tagOf g)

/-- SYNC packets of a group, one per live entry, ascending ID (R317, Table 21-3). -/
def State.syncWith (s : State) (gid reason : Nat) : State :=
  match s.group? gid with
  | none => s
  | some g =>
    if !s.traced g then s
    else
      let s1 := (entryIds.filter fun e => (g.entry e).st != .free).foldl (fun (s : State) e => s.putPacket (s.syncBytes g e reason)) s
      { s1 with obs := { s1.obs with streams :=
          { g := gid, last := s.time, since := 0, lossy := false } :: s1.obs.streams.filter fun t => t.g != gid } }

/-- As `syncWith`: a stream that lost packets first restarts with a SYNC of REASON 3 (R317). -/
def State.sync (s : State) (gid reason : Nat) : State :=
  if reason != 3 && s.obs.streams.any (fun t => t.g == gid && t.lossy) then (s.syncWith gid 3).syncWith gid reason else s.syncWith gid reason

/-- A 16-byte packet of a group's stream, after the TIME or SYNC packet it needs (R318): a SYNC stands among every 4,096. -/
def State.emit (s : State) (gid type rest : Nat) : State :=
  match s.group? gid with
  | none => s
  | some g =>
    if !s.traced g then s
    else
      let s1 := match s.obs.streams.find? fun t => t.g == gid with
        | some t =>
          if t.lossy then s.sync gid 3
          else if t.since + (if 4095 < s.time - t.last then 2 else 1) < 4096 then s
          else s.sync gid 1
        | none => s.sync gid 0
      let last := ((s1.obs.streams.find? fun t => t.g == gid).map TStream.last).getD s.time
      let dt := s.time - last
      let s2 := if 4095 < dt then s1.putPacket (packet16 0x6 g.stream 0 (s.time * 2 ^ 32)) else s1
      let s3 := s2.putPacket (packet16 type g.stream (if 4095 < dt then 0 else dt) rest)
      { s3 with obs := { s3.obs with streams := s3.obs.streams.map fun t =>
          if t.g == gid then { t with last := s.time, since := t.since + (if 4095 < dt then 2 else 1) } else t } }

/-- A BRANCH packet (Table 21-3): lanes, target bin and words or path, and the entry that holds the path. -/
def State.branchPacket (s : State) (gid ent : Nat) (m : Word) (tord tdw newent : Nat) : State :=
  s.emit gid 2 (ent + newent * 2 ^ 8 + tdw * 2 ^ 16 + tord * 2 ^ 32 + m.toNat * 2 ^ 64)

/-- A MASK packet (Table 21-3). -/
def State.maskPacket (s : State) (gid ent : Nat) (m : Word) (evt : Nat) : State :=
  s.emit gid 3 (ent + evt * 2 ^ 32 + m.toNat * 2 ^ 64)

end Sys2Proof.Machine
end

