-- ==== Sys2Proof/Machine/Life.lean ====
section
/-! DEFINITION. How groups, workgroups, regions, commands and objects end (R48, R57, R64, R83, R256, R264, R265, R18). -/
namespace Sys2Proof.Machine

/-- Trap code of an access fault, and the other codes of Table 19-1. -/
def trapOpcode : Nat := 0x40
def trapModifier : Nat := 0x41
def trapField : Nat := 0x42
def trapOperand : Nat := 0x43
def trapFetch : Nat := 0x44
def trapAccess : Nat := 0x45
def trapSplit : Nat := 0x46
def trapCollective : Nat := 0x47
def trapTxb : Nat := 0x48
def trapShape : Nat := 0x49
def trapHazard : Nat := 0x4A
def trapPoison : Nat := 0x4B
def trapTask : Nat := 0x4C
def trapQueue : Nat := 0x4D
def trapSoftware : Nat := 0x4E
def trapBreak : Nat := 0x4F
def trapDouble : Nat := 0x50

/-! ## Fault records -/

/-- Code of STATE in Table 05-2. -/
def EState.code : EState → Nat
  | .free => 0 | .ready => 1 | .joinWait => 2 | .collective => 3 | .parked => 4 | .halted => 5 | .spilledReady => 6

/-- The 32 bytes of an entry (Table 05-2); a FREE entry shows only its ID (R338). -/
def Entry.bytes (x : Entry) (id : Nat) : List Byte :=
  if x.st = .free then List.replicate 8 0 ++ [0, BitVec.ofNat 8 id] ++ List.replicate 22 0
  else List.replicate 8 0 ++ [BitVec.ofNat 8 x.depth, BitVec.ofNat 8 id, BitVec.ofNat 8 x.parent, BitVec.ofNat 8 x.st.code] ++
    bytesOf 4 x.stamp.toNat ++ bytesOf 4 x.join.toNat ++ bytesOf 4 x.pc.toNat ++ bytesOf 4 x.all.toNat ++ bytesOf 4 x.pend.toNat

/-- The ID shown at each of the 8 table positions (log 31): ID i where it lies in the table, else a higher one that does. -/
def Group.tableIds (g : Group) : List Nat :=
  let high := g.inTable.filter fun e => 8 ≤ e
  let gaps := (List.range 8).filter fun i => !g.inTable.contains i
  (List.range 8).map fun i => if g.inTable.contains i then i else high[gaps.idxOf i]?.getD i

/-- What a fault record says (Table 19-2). -/
structure Fault0 where
  code : Nat
  pc : Word
  flags : Nat
  entry : Nat
  fmask : Word
  cmask : Word
  notes : List LaneNote
  aux : Nat
  addr : Nat
  deriving DecidableEq, Repr

/-- The 832 bytes of a fault record (R279, R338). -/
def State.faultBytes (s : State) (g : Group) (f : Fault0) : List Byte :=
  let v := s.versionOf g
  let spilled := if g.inSpill.isEmpty then 0 else 4
  let head := bytesOf 4 g.events.toNat ++ bytesOf 4 0x5246584B ++ bytesOf 8 ((s.region? g.region).map Region.rcb |>.getD 0) ++
    bytesOf 8 f.addr ++ bytesOf 8 s.time ++ bytesOf 3 f.aux ++ bytesOf 1 f.code ++ bytesOf 1 (f.flags + spilled) ++ bytesOf 1 f.entry ++
    bytesOf 2 g.kidx ++ bytesOf 4 f.cmask.toNat ++ bytesOf 4 f.fmask.toNat ++ bytesOf 4 v.vtag ++ bytesOf 4 f.pc.toNat ++
    bytesOf 8 (s.tagOf g)
  let lane (l : Nat) : List Byte :=
    match f.notes.find? fun n => n.lane == l with
    | some n => bytesOf 8 ((if laneIn f.fmask l then n.cause else 0) + (if n.src then 256 else 0)) ++ bytesOf 8 n.addr
    | none => List.replicate 16 0
  head ++ lanes32.flatMap lane ++ g.tableIds.flatMap fun e => (g.entry e).bytes e

/-- FRECP is valid: nonzero, in space 0x0, 2 KiB aligned and mapped writable (R279). -/
def State.frecpOk (s : State) (g : Group) : Bool :=
  let p := g.frecp.toNat
  p != 0 && p / 2 ^ 52 == 0 && p % 2048 == 0 && s.writable g.ctx p

/-- Writes a record as plain stores of the group's core, committed at once (R279); whether it was written. A write that a peer has to
take, or every replica, may fail: a free choice (R200, R280; log 6). -/
def State.writeRecord (s : State) (g : Group) (off : Nat) (bs : List Byte) : State × Bool :=
  match s.xlate g.ctx (g.frecp.toNat + off) 1 with
  | .ok (.bytes k enc) => ((s.writeTgt g.core (.bytes k enc) bs none).commitNew s g.core .system, true)
  | .ok t =>
    let s1 := { s with free := s.free + 1 }
    if Config.freeBit s.free then (s1.putTgt g.core t bs, true) else (s1, false)
  | .error _ => (s, false)

/-- Writes a record into a slot of a valid FRECP; the address of the slot, or 0 where no record stands (R279, R283). -/
def State.leaveRecord (s : State) (g : Group) (off : Nat) (bs : List Byte) : State × Nat :=
  if s.frecpOk g then
    let r := s.writeRecord g off bs
    (r.1, if r.2 then g.frecp.toNat + off else 0)
  else (s, 0)

/-- A record posted without a trap (R279): slot 1, and a FAULT event with the slot's address. -/
def State.postFault (s : State) (g : Group) (f : Fault0) : State :=
  let r := s.leaveRecord g 1024 (s.faultBytes g { f with flags := f.flags + 2 })
  r.1.event 0x84 g.ctx f.code r.2

/-! ## Ends -/

/-- Ends the handler when its last lane has gone (R325): the mark clears and held fragments issue again. -/
def Group.endHandler (g : Group) : Group :=
  { g with hLanes := 0, hRedo := none }.mapEntries fun x => { x with inH := false, heldT := false, exempt := 0 }

/-- Drops lanes of a group, with the handler's end if they were its last (R83, R325). -/
def Group.lose (g : Group) (m : Word) : Group :=
  let h := g.dropLanes m
  if g.hLanes != 0 && h.hLanes == 0 then h.endHandler else h

/-- Operations that a group has outstanding. -/
def State.opsOf (s : State) (g : Nat) : List Op := s.ops.filter fun o => o.g == g

/-- Drops a context's `setperf` request on an island where no group of it is resident any more (R349). -/
def State.dropReqs (s : State) (c core : Nat) : State :=
  if (s.groups.any fun g => g.ctx == c && g.core == core && g.phase == .resident) ||
      !(s.power.reqs.any fun r => r.1 == c && r.2.1 == coreIsland core) then s
  else
    let s1 : State := { s with power := { s.power with reqs := s.power.reqs.filter fun r => !(r.1 == c && r.2.1 == coreIsland core) } }
    s1.retarget (coreIsland core)

/-- Frees a draining object that no group executes any more (R18). Model choice (log 64): work of a region that is still to be placed
does not keep it, and finds no version of it then. -/
def State.freeObjs (s : State) : State :=
  { s with objs := s.objs.filter fun o => !(o.draining && !(s.groups.any fun g => g.obj == o.id && g.phase != .gone &&
      g.phase != .draining)) }

/-- A workgroup whose groups have all left is gone; its scratchpad is given back once what they have outstanding has completed (R34,
R52). -/
def State.retireWg (s : State) (w : Nat) : State :=
  if s.groups.any fun g => g.wg == w && (g.phase == .resident || g.phase == .saved) then s
  else
    let drains := s.groups.any fun g => g.wg == w
    { s with mailboxes := s.mailboxes.filter fun m => m.wg != w,
             wgs := if drains then s.wgs.map fun x => if x.id == w then { x with phase := .gone } else x
                    else s.wgs.filter fun x => x.id != w }

/-- The lanes whose fragment raises a late failure (R200): the failing ones, or when those have exited the others. -/
def Late.lanes (f : Late) (live : Word) : Word := if (f.fmask &&& live) != 0 then f.fmask else f.cmask

/-- Late failures and poisoned `mma` of lanes that have all left are posted without a trap (R195, R200). -/
def State.postOrphans (s : State) (gid : Nat) : State :=
  match s.group? gid with
  | none => s
  | some g =>
    let live := g.live
    let gone := g.late.filter fun f => (f.lanes live &&& live) == 0
    let s1 := gone.foldl (fun (s : State) f => s.postFault g
      { code := trapAccess, pc := f.pc, flags := 1, entry := f.e, fmask := f.fmask, cmask := f.cmask, notes := f.notes, aux := 0,
        addr := (f.notes.find? fun n => laneIn f.fmask n.lane).map LaneNote.addr |>.getD 0 }) s
    let bad := g.mmas.filter fun m => m.poisoned && (m.lanes &&& live) == 0
    let s2 := bad.foldl (fun (s : State) m => s.postFault g
      { code := trapPoison, pc := m.pc, flags := 0, entry := 0, fmask := 0, cmask := 0, notes := [], aux := 0,
        addr := 0 }) s1
    s2.modGroup gid fun x => { x with late := x.late.filter (fun f => !gone.contains f), mmas := x.mmas.filter fun m => !bad.contains m }

/-- The release of a group's exit, once every access of the group has performed (R240, R244). -/
def State.leaveRelease (s : State) (g : Group) : State :=
  if g.left || (s.opsOf g.id).any fun o => o.accs.any fun a => a.st == .pending then s
  else (s.release g.core 0).modGroup g.id fun x => { x with left := true }

/-- Residency ends when the group's operations have completed (R83). -/
def State.retire (s : State) (g : Nat) : State :=
  match s.group? g with
  | some x =>
    if x.phase == .draining then
      let s1 := s.leaveRelease x
      if (s.opsOf g).isEmpty then
        let s2 := s1.postOrphans g
        ({ s2 with groups := s2.groups.filter fun y => y.id != g } : State).retireWg x.wg
      else s1
    else s
  | none => s

/-- The barrier of a workgroup completes when every group with a live lane has arrived (R256). -/
def State.wgsyncReady (s : State) (w : Nat) : Bool :=
  (s.groups.filter fun g => g.wg == w && g.live != 0).all fun g =>
    (g.live &&& ~~~(g.entries.toList.foldl (fun (m : Word) x => if x.st == .parked && x.park == .wgsync then m ||| x.mask else m) 0)) == 0

/-- Wakes the parked fragments of a completed `wgsync`: each crosses an acquire and continues (R256). -/
def State.wgsyncDone (s : State) (w : Nat) : State :=
  let gs := s.groups.filter fun g => g.wg == w && g.live != 0
  if gs.isEmpty || !s.wgsyncReady w then s
  else gs.foldl (fun (s : State) g =>
    let s1 := s.modGroup g.id fun x => x.fragments.foldl (fun (x : Group) e =>
      x.wake e fun y => { y with pc := y.next, seenB := false, seenT := false, seenO := false }) x
    s1.acquireFree g.core []) s

/-- The group's last lane has left (R83, R264): release of device scope, records of what it leaves behind, and its task. -/
def State.groupLeft (s : State) (gid : Nat) (abandon : Bool) : State :=
  match s.group? gid with
  | none => s
  | some g =>
    let s2 := s.postOrphans gid
    let running := ((s2.region? g.region).map fun r => r.rstate == 1).getD false
    let s3 := match g.task with
      | some t => if abandon && running then s2.event 0x84 g.ctx 0x35 t.succ else s2
      | none => s2
    let s4 := s3.modGroup gid fun x => { x with phase := .draining, task := none }
    ((((s4.dropReqs g.ctx g.core).retireWg g.wg).wgsyncDone g.wg).retire gid).freeObjs

/-- Lanes of a group exit or are killed (R83); when they were its last, the group leaves. -/
def State.loseLanes (s : State) (gid : Nat) (m : Word) (abandon : Bool) : State :=
  let s1 := s.modGroup gid fun g => g.lose m
  match s1.group? gid with
  | none => s1
  | some g => if g.live == 0 then s1.groupLeft gid abandon else (s1.postOrphans gid).wgsyncDone g.wg

/-- Kills a whole group at its boundary (R265). A saved one is dropped with its image, and so are the operations that its image
holds; what one that was being saved has outstanding runs on (R34). -/
def State.killGroup (s : State) (gid : Nat) : State :=
  match s.group? gid with
  | none => s
  | some g =>
    match g.phase with
    | .saved =>
      let s1 := (s.modGroup gid fun h => h.lose g.live).postOrphans gid
      let s2 : State := { s1 with groups := s1.groups.filter fun y => y.id != gid, ops := s1.ops.filter fun o => o.g != gid }
      (s2.retireWg g.wg).freeObjs
    | .resident => (s.mapOps fun o => if o.g == gid then { o with saved := false, limit := none } else o).loseLanes gid g.live false
    | _ => s

/-! ## Commands and regions -/

/-- Writes the last record of a started command (R42). -/
def State.endCmd (s : State) (c seq opc state reason arg : Nat) : State :=
  let s1 := s.post (some seq) opc c state reason arg
  s1.modCtx c fun x => { x with started := x.started.filter fun d => d.seq != seq }

/-- Whether region `r` lies in the subtree of `top`, looking up at most `n` levels. -/
def State.under (s : State) (top r : Nat) : Nat → Bool
  | 0 => r == top
  | n + 1 => r == top ||
    match (s.region? r).bind Region.parent with
    | some p => s.under top p n
    | none => false

/-- The regions of a subtree. -/
def State.subtree (s : State) (top : Nat) : List Region := s.regions.filter fun r => s.under top r.id s.regions.length

/-- The root above a region. -/
def State.rootOf (s : State) (r : Nat) : Nat → Nat
  | 0 => r
  | n + 1 =>
    match (s.region? r).bind Region.parent with
    | some p => s.rootOf p n
    | none => r

/-- The nearest region at or above with effective FDOM set (R48). -/
def State.domainOf (s : State) (r : Nat) : Nat → Option Nat
  | 0 => none
  | n + 1 =>
    match s.region? r with
    | none => none
    | some x => if x.eff.fdom then some r else x.parent.bind fun p => s.domainOf p n

/-- Whether a region has ended or failed. -/
def Region.ended (r : Region) : Bool := 2 ≤ r.rstate

/-- The release at the end of a region: every write of the cores its groups ran on is committed to the system
(Table 14-2). -/
def State.regionRelease (s : State) (r : Region) : State := r.ran.foldl (fun (s : State) c => s.commit c .system) s

/-- A region ends: RSTATE and RCODE are written to its RCB, its queues and cores are given back (R46, R57, R64, R265). -/
def State.setRegionEnd (s : State) (rid rstate rcode : Nat) : State :=
  match s.region? rid with
  | none => s
  | some r =>
    let s1 := s.regionRelease r
    let s2 := s1.writeVirt r.ctx (r.rcb + 79) [BitVec.ofNat 8 rstate, BitVec.ofNat 8 rcode]
    s2.modRegion rid fun x => { x with rstate := rstate, rcode := rcode, queues := [], qbad := [], cores := [], moves := [], blockedAt := none }

/-- The last record of a START; a region that a migration brought has none on this device (log 27). -/
def State.endStart (s : State) (c seq state reason : Nat) : State :=
  if (s.ctx c).started.any fun d => d.seq == seq then s.endCmd c seq 5 state reason 0 else s

/-- A START completes when its root and every descendant have ended (Table 03-4); its regions are then forgotten. -/
def State.startDone (s : State) (rid : Nat) : State :=
  let root := s.rootOf rid s.regions.length
  let tree := s.subtree root
  if tree.all Region.ended then
    match s.region? root with
    | some r => { s.endStart r.ctx r.seq 4 0 with regions := s.regions.filter fun x => !(tree.any fun y => y.id == x.id) }
    | none => s
  else s

/-- A region ends normally (R57, R64). -/
def State.finishRegion (s : State) (rid : Nat) : State := (s.setRegionEnd rid 2 0).startDone rid

/-- Kills every group of the regions of a list (R265). -/
def State.killRegions (s : State) (rs : List Region) : State :=
  (s.groups.filter fun g => rs.any fun r => r.id == g.region).foldl (fun (s : State) g => s.killGroup g.id) s

/-- The region at the top of a subtree had ended before its children failed (R268): RSTATE becomes 3, RCODE the failure's code (R48). -/
def State.failEnded (s : State) (rid code : Nat) : State :=
  match s.region? rid with
  | none => s
  | some r =>
    if r.rstate == 2 then
      (s.writeVirt r.ctx (r.rcb + 79) [3, BitVec.ofNat 8 code]).modRegion rid fun x => { x with rstate := 3, rcode := code }
    else s

/-- The regions of a subtree end because it fails (R48). -/
def State.endSubtree (s : State) (top failed code : Nat) : State :=
  let rs := (s.subtree top).filter fun r => !r.ended
  let s1 := (s.failEnded top code).killRegions rs
  rs.foldl (fun (s : State) r => s.setRegionEnd r.id 3 (if r.id == top || r.id == failed then code else 0x32)) s1

/-- A failure of region `rid` with `code` (R48): the contained region's subtree ends, or the whole START fails. -/
def State.failRegion (s : State) (rid code : Nat) : State :=
  match s.region? rid with
  | none => s
  | some r =>
    match s.domainOf rid (s.regions.length + 1) with
    | some d =>
      let rcb := ((s.region? d).map Region.rcb).getD 0
      let s1 := (s.endSubtree d rid code).event 0x84 r.ctx code rcb
      s1.startDone rid
    | none =>
      let root := s.rootOf rid s.regions.length
      let seq := ((s.region? root).map Region.seq).getD 0
      let s1 := s.endSubtree root rid code
      let tree := s1.subtree root
      let s2 := s1.endStart r.ctx seq 5 code
      { s2 with regions := s2.regions.filter fun x => !(tree.any fun y => y.id == x.id) }

/-- Workgroups of a grid (R50). -/
def Region.count (r : Region) : Nat := r.gx * r.gy * r.gz

/-- A grid whose work is all placed or withdrawn and whose groups have exited ends (R57). -/
def State.gridEnd (s : State) (rid : Nat) : State :=
  match s.region? rid with
  | none => s
  | some r =>
    if r.kind == 1 && r.rstate == 1 && r.count ≤ r.cursor && !(s.wgs.any fun w => w.region == rid) &&
        !(s.groups.any fun g => g.region == rid) then s.finishRegion rid else s

end Sys2Proof.Machine
end

