-- ==== Sys2Proof/Machine/Image.lean ====
section
/-! DEFINITION. The save image of a group, as its context's reserve holds it (R286, Tables 19-4 to 19-6), and what a restore takes
from it (R287). Where the 64 bytes of handler state lie is log 59. -/
namespace Sys2Proof.Machine

/-- Little-endian fields in order, each a size and a number. -/
def pack (fs : List (Nat × Nat)) : List Byte := fs.flatMap fun f => bytesOf f.1 f.2

/-- `n` bytes of an image at an offset, as a number; bytes beyond its end read 0. -/
def rdImg (img : List Byte) (off n : Nat) : Nat := ofBytes ((img.drop off).take n)

/-- Whether a save takes an operation as an async-slot record (R285): a stopped tensor copy, an ungranted `mma`. -/
def Op.isAsync (o : Op) : Bool :=
  match o.kind with
  | .copyT _ _ => o.limit.isSome
  | .mma .. => o.grant == .waiting
  | _ => false

/-- A barrier's pointer for the cores of its cluster (Table 11-1). -/
def barPtr (k : Nat) : Nat := 2 ^ 60 + spadCore k % 4 * 2 ^ 58 + spadOff k

/-- An async-slot record: its header (Table 19-5) and the two captured shapes. -/
def Op.record (o : Op) : List Byte :=
  let head (rnd akind acc lanes : Nat) : List Byte := List.replicate 37 0 ++ pack [(1, rnd), (1, akind), (1, acc), (4, lanes),
    (4, o.limit.getD 0), (8, o.id), (8, (o.bar.map barPtr).getD 0)]
  match o.kind with
  | .copyT d h => head 0 1 0 0 ++ pack [(64, d.toNat), (64, h.toNat)]
  | .mma a b base rnd lanes => head rnd 3 base lanes.toNat ++ pack [(64, a.toNat), (64, b.toNat)]
  | _ => []

/-- The counters of a group as CNT holds them (Table 19-6). -/
def Group.cntWord (g : Group) : Nat := g.ld * 2 ^ 16 + g.st * 2 ^ 11 + g.cp * 2 ^ 4 + g.mx

/-- A group save header (Table 19-6) with the given SIZE, GFLAGS PORTABLE, NASYNC, CNT and VREGS. -/
def State.groupHeader (s : State) (g : Group) (size : Nat) (portable : Bool) (nasync cnt vregs : Nat) : List Byte :=
  let flags := (if g.task.isSome then 1 else 0) + (if g.pending.isSome then 2 else 0) + (if portable then 4 else 0) + (if g.legacy then 8 else 0)
  let w (f : Workgroup → Nat) : Nat := ((s.wgOf g).map f).getD 0
  pack [(4, size), (4, 0x5347584B), (8, (g.task.map Task.succ).getD 0), (2, 0), (1, flags), (1, nasync), (4, cnt), (4, w Workgroup.spOff),
    (1, vregs), (1, g.gid), (2, g.kidx), (4, w Workgroup.x), (4, w Workgroup.y), (4, w Workgroup.z), (4, (s.versionOf g).vtag),
    (8, ((s.region? g.region).map Region.rcb).getD 0), (8, s.tagOf g)]

/-- Registers saved per thread: those of the running version, and of the target while fragments have moved (R288). -/
def State.savedVregs (s : State) (g : Group) : Nat :=
  match g.pending with
  | some t => max (s.versionOf g).vregs ((s.version? g.obj g.kidx t).getD Version.blank).vregs
  | none => (s.versionOf g).vregs

/-- The split table and the spill area (Table 05-2): 72 entries. -/
def Group.splitBytes (g : Group) : List Byte :=
  (g.tableIds ++ entryIds.filter fun e => !g.tableIds.contains e).flatMap fun e => (g.entry e).bytes e

/-- The handler state: TRAPPC, TRAPCODE, the entry ID that entered the handler or 0xFF, FRECP, TRAPARG (R286, R322, log 59). -/
def Group.handlerBytes (g : Group) : List Byte :=
  pack [(4, g.trappc.toNat), (1, g.trapcode.toNat), (1, if g.hLanes == 0 then 0xFF else g.hEntry), (2, 0), (8, g.frecp.toNat), (4, g.traparg.toNat), (44, 0)]

/-- The save image of a group (Table 19-4). -/
def State.saveImage (s : State) (g : Group) : List Byte :=
  let recs := s.ops.filter fun o => o.g == g.id && o.isAsync
  let n := s.savedVregs g
  s.groupHeader g (3776 + 192 * recs.length + 128 * n) false recs.length g.cntWord n ++ g.splitBytes ++
    g.sr.toList.flatMap (fun w => bytesOf 4 w.toNat) ++ bytesOf 4 0 ++ (g.mr.toList.drop 1).flatMap (fun w => bytesOf 4 w.toNat) ++
    g.tr.toList.flatMap (fun w => bytesOf 64 w.toNat) ++ g.handlerBytes ++ recs.flatMap Op.record ++
    (g.v.toList.take n).flatMap fun r => r.toList.flatMap fun w => bytesOf 4 w.toNat

/-- The reserve holds a saved group's image as the group now stands. -/
def State.reimage (s : State) (gid : Nat) : State :=
  s.modGroup gid fun g => if g.phase == .saved then { g with image := s.saveImage g } else g

/-- The registers, counters and handler state of a group, reinstated from its image (R287). -/
def Group.fromImage (g : Group) : Group :=
  let word (o : Nat) : Word := BitVec.ofNat 32 (rdImg g.image o 4)
  let v0 := 3776 + 192 * rdImg g.image 19 1
  let cnt := rdImg g.image 20 4
  { g with sr := Vector.ofFn fun k => word (2368 + 4 * k.val), mr := Vector.ofFn fun k => word (2624 + 4 * k.val),
           tr := Vector.ofFn fun k => BitVec.ofNat 512 (rdImg g.image (2688 + 64 * k.val) 64),
           v := Vector.ofFn fun n => if n.val < rdImg g.image 28 1 then Vector.ofFn fun l => word (v0 + 128 * n.val + 4 * l.val) else g.v[n],
           ld := bitsOf cnt 21 16, st := bitsOf cnt 15 11, cp := bitsOf cnt 10 4, mx := bitsOf cnt 3 0,
           trappc := word 3712, trapcode := BitVec.ofNat 8 (rdImg g.image 3716 1), frecp := BitVec.ofNat 64 (rdImg g.image 3720 8), traparg := word 3728,
           image := [] }

end Sys2Proof.Machine
end

