-- ==== Sys2Proof/Machine/Stop.lean ====
section
/-! DEFINITION. Stop sites (R98): moves of a transfer and their refusal (R25 to R29, R288, R341 to R344), stops for a
portable save (R290), halts and breakpoints (R311, R314), and the request of a transfer (R288, R329, R366). -/
namespace Sys2Proof.Machine

/-! ## Maps -/

/-- The non-anchor entry of a map at a code offset (R23). -/
def Version.stopAt (v : Version) (pc : Nat) : Option MapEntry := v.map.find? fun m => !m.anchor && m.coff == pc

/-- The non-anchor entry of an ordinal. -/
def Version.ordinal (v : Version) (n : Nat) : Option MapEntry := v.map.find? fun m => !m.anchor && m.ord == n

/-- Code offset of an anchor (R26). -/
def Version.anchorAt (v : Version) (n : Nat) : Option Nat := (v.map.find? fun m => m.anchor && m.ord == n).map MapEntry.coff

/-- The ordinal of an anchor at a code offset. -/
def Version.anchorOrd (v : Version) (off : Nat) : Option Nat := (v.map.find? fun m => m.anchor && m.coff == off).map MapEntry.ord

/-- Join addresses pending above an entry, innermost first; `n` bounds the depth (R26). -/
def Group.joins (g : Group) (e : Nat) : Nat → List Nat
  | 0 => []
  | n + 1 =>
    let x := g.entry e
    if x.parent < 72 then x.join.toNat :: g.joins x.parent n else []

/-- Whether a fragment's pending joins match an entry's descriptors (R26). -/
def MapEntry.fits (m : MapEntry) (v : Version) (joins : List Nat) : Bool :=
  m.frags.length == joins.length && (List.range joins.length).all fun l =>
    match m.frags.find? fun d => d.2 == l with
    | some d => v.anchorAt d.1 == joins[l]?
    | none => false

/-- Whether two entries list descriptors with the same JORD at each LEVEL (R342). -/
def MapEntry.sameFrags (a b : MapEntry) : Bool :=
  a.frags.length == b.frags.length && a.frags.all fun d => b.frags.contains d

/-- Whether ordinal `n` of S has a counterpart in D (R28). -/
def hasCounterpart (src dst : MapEntry) : Bool :=
  (dst.live.all fun v => (src.live.any fun u => u.value == v.value) || (src.recipes.any fun r => r.value == v.value)) &&
  (dst.asyncs.all fun a => src.asyncs.any fun b => b.aid == a.aid && b.akind == a.akind && b.cls == a.cls &&
    b.maxout == a.maxout && bitOf b.aflags 1 == bitOf a.aflags 1 && b.dest == a.dest && b.dsize == a.dsize) &&
  (src.asyncs.all fun b => dst.asyncs.any fun a => a.aid == b.aid)

/-! ## Values -/

/-- A value at a stop site: per lane, or one for the group. -/
structure Val where
  lane : Bool
  vals : List Nat
  deriving DecidableEq, Repr

/-- The value in a lane. -/
def Val.at_ (v : Val) (l : Nat) : Nat := if v.lane then v.vals[l]?.getD 0 else v.vals.headD 0

/-- The value for the group: that of the lowest lane of a per-lane value. -/
def Val.one (v : Val) (m : Word) : Nat := v.at_ (lowLane m)

/-- A V register of a lane. -/
def Group.getV (g : Group) (r l : Nat) : Word := ((g.v[r]?).bind fun x => x[l]?).getD 0

/-- An S register. -/
def Group.getS (g : Group) (r : Nat) : Word := g.sr[r]?.getD 0

/-- A T register. -/
def Group.getT (g : Group) (t : Nat) : BitVec 512 := g.tr[t]?.getD 0

/-- Writes a V register in the lanes of a mask. -/
def Group.setV (g : Group) (r : Nat) (m : Word) (f : Nat → Word) : Group :=
  match g.v[r]? with
  | none => g
  | some x => { g with v := g.v.setIfInBounds r (Vector.ofFn fun l => if laneIn m l then f l else x[l]) }

/-- Writes an S register. -/
def Group.setS (g : Group) (r : Nat) (x : Word) : Group := { g with sr := g.sr.setIfInBounds r x }

/-- Writes bits of an M register in the lanes of a mask; M0 is read-only, legacy lanes end at 15 (R84, R137). -/
def Group.setM (g : Group) (r : Nat) (m x : Word) : Group :=
  let n := if g.legacy then m &&& 0xFFFF else m
  if r = 0 then g else { g with mr := g.mr.setIfInBounds r ((g.mr[r]?.getD 0 &&& ~~~n) ||| (x &&& n)) }

/-- Writes a T register. -/
def Group.setT (g : Group) (t : Nat) (x : BitVec 512) : Group := { g with tr := g.tr.setIfInBounds t x }

/-- A value at a location of Table 02-9. -/
def State.readLoc (s : State) (g : Group) (kind loc : Nat) (wide : Bool) : Val :=
  match kind with
  | 0 => ⟨true, lanes32.map fun l => (g.getV loc l).toNat + (if wide then (g.getV (loc + 1) l).toNat * 2 ^ 32 else 0)⟩
  | 1 => ⟨false, [(g.getS loc).toNat + (if wide then (g.getS (loc + 1)).toNat * 2 ^ 32 else 0)]⟩
  | 2 => ⟨false, [(g.mr[loc]?.getD 0).toNat]⟩
  | 3 => ⟨false, [(g.getT loc).toNat]⟩
  | _ => ⟨false, [ofBytes (s.peekN (privKey g.id loc) (if wide then 8 else 4))]⟩

/-- Writes a value into a location: KIND 0 and 2 in the lanes of a mask only (R341). -/
def State.writeLoc (s : State) (gid kind loc : Nat) (wide : Bool) (m : Word) (v : Val) : State :=
  match kind with
  | 0 => s.modGroup gid fun g =>
      let g1 := g.setV loc m fun l => BitVec.ofNat 32 (v.at_ l)
      if wide then g1.setV (loc + 1) m fun l => BitVec.ofNat 32 (v.at_ l / 2 ^ 32) else g1
  | 1 => s.modGroup gid fun g =>
      let g1 := g.setS loc (BitVec.ofNat 32 (v.one m))
      if wide then g1.setS (loc + 1) (BitVec.ofNat 32 (v.one m / 2 ^ 32)) else g1
  | 2 => s.modGroup gid fun g => g.setM loc m (BitVec.ofNat 32 (v.one m))
  | 3 => s.modGroup gid fun g => g.setT loc (BitVec.ofNat 512 (v.one m))
  | _ => s.putN (privKey gid loc) (bytesOf (if wide then 8 else 4) (v.one m))

/-- One access of a LOAD recipe through the group's translation; none on a fault, that of a poisoned line or of a failed access to a peer
among them (R25). Bytes of a peer are free, and so is whether it fails (log 15). -/
def State.recipeLoad (s : State) (g : Group) (p n : Nat) : Option (Nat × State) :=
  match s.resolve g p n n false with
  | .error _ => none
  | .ok t =>
    if s.tgtPoisoned g.core t n then none
    else
      match t.readKey g.core with
      | none =>
        if !s.linked || Config.freeBit s.free then none
        else some (ofBytes ((List.range n).map fun i => Config.freeByte (s.free + i)), { s with free := s.free + n + 1 })
      | some _ => (let r := s.readTgt g.core t n; some (ofBytes r.1, r.2))

/-- A recipe's value for one base (R25). -/
def State.recipeOne (s : State) (g : Group) (r : Recipe) (x : Nat) : Option (Nat × State) :=
  let w := if r.width == 0 then 2 ^ 32 else 2 ^ 64
  let a := (x + r.opnd) % (if r.how == 1 then w else 2 ^ 64)
  (if r.how == 1 then some (a, s) else s.recipeLoad g a r.lsize).map fun y => (y.1 % w, y.2)

/-- A recipe's value in each lane of a mask, 0 in the others. -/
def State.recipeLanes (s : State) (g : Group) (m : Word) (r : Recipe) (b : Val) : List Nat → Option (List Nat × State)
  | [] => some ([], s)
  | l :: ls =>
    match (if laneIn m l then s.recipeOne g r (b.at_ l) else some (0, s)) with
    | none => none
    | some y => (y.2.recipeLanes g m r b ls).map fun q => (y.1 :: q.1, q.2)

/-- The value that one recipe makes from those in place. -/
def State.recipeVal (s : State) (g : Group) (m : Word) (r : Recipe) (vs : List (Nat × Val)) : Option (Val × State) :=
  if r.how == 0 then some (⟨false, [r.opnd % (if r.width == 0 then 2 ^ 32 else 2 ^ 64)]⟩, s)
  else
    match vs.find? fun p => p.1 == r.base with
    | none => none
    | some (_, b) =>
      if b.lane then (s.recipeLanes g m r b lanes32).map fun q => (⟨true, q.1⟩, q.2)
      else (s.recipeOne g r (b.at_ 0)).map fun q => (⟨false, [q.1]⟩, q.2)

/-- Recipes in list order over the values in place (R25); none when a load faults. -/
def State.recipes (s : State) (g : Group) (m : Word) : List Recipe → List (Nat × Val) → Option (List (Nat × Val) × State)
  | [], vs => some (vs, s)
  | r :: rs, vs =>
    match s.recipeVal g m r vs with
    | none => none
    | some q => q.2.recipes g m rs ((r.value, q.1) :: vs)

/-- The recipes of a list that some wanted values need: those that make one, and those that make a base of such a recipe (R29). -/
def neededRecipes (want : List Nat) (rs : List Recipe) : List Recipe :=
  (rs.reverse.foldl (fun (p : List Nat × List Recipe) r =>
    if p.1.contains r.value then (if r.how == 0 then p.1 else r.base :: p.1, r :: p.2) else p) (want, [])).2

/-! ## Moves -/

/-- The pending transfer of a group's kernel (R288). -/
def State.xferOf (s : State) (g : Group) : Option Xfer :=
  s.xfers.find? fun x => x.active && x.ctx == g.ctx && x.obj == g.obj && x.kidx == g.kidx

/-- AKIND of an operation (Table 02-11). -/
def OpKind.akind : OpKind → Nat
  | .copyT _ _ => 1 | .copyL => 2 | .mma .. => 3 | .load .. => 4 | .store => 5 | .atom .. => 6 | .tset _ => 0

/-- The fragment that issued an operation, as its group stands: the one that holds the lowest live lane of those that issued it and
are in a fragment; none while all of them stand in join waits (R344, log 21). -/
def Group.issuerOf (g : Group) (o : Op) : Option Nat :=
  (lanesOf (o.mask &&& g.live)).findSome? fun l => entryIds.find? fun e => (g.entry e).isFragment && laneIn (g.entry e).all l

/-- Where a workgroup's scratchpad range begins, as a key: the offsets of async records count from it (R27). -/
def State.spadBase (s : State) (g : Group) : Nat := spadKey g.core (((s.wgOf g).map Workgroup.spOff).getD 0)

/-- Whether an async record is that of an operation (R27, log 21): its kind, its barrier, and for a copy into the workgroup's
scratchpad its destination. -/
def AsyncRec.names (a : AsyncRec) (base : Nat) (o : Op) : Bool :=
  a.akind == o.kind.akind && (if bitOf a.aflags 0 then o.bar == some (base + a.txb) else o.bar.isNone) &&
    (match o.kind with
    | .copyT .. | .copyL => o.sectors.isEmpty || o.sectors.any fun x =>
        ptrTag x.addr != 1 || (base + a.dest ≤ spadKey o.core (bitsOf x.addr 18 0) && spadKey o.core (bitsOf x.addr 18 0) < base + a.dest + a.dsize)
    | _ => true)

/-- An outstanding operation of a moving fragment counts its later sectors on the barrier of the target's async record (R29, R344); one
that the source's record does not name counts nothing, and is undefined from then on. Its class and its destination are those of both
records (R28). -/
def Op.rebind (src dst : MapEntry) (base : Nat) (o : Op) : Op :=
  match (src.asyncs.find? fun a => a.names base o).bind fun a => dst.asyncs.find? fun b => b.aid == a.aid with
  | none => o
  | some b =>
    let key := base + b.txb
    if !bitOf b.aflags 0 then { o with prev := some o.bar, bar := none }
    else if o.bar == some key then { o with prev := some o.bar }
    else { o with prev := some o.bar, bar := none, wild := some key }

/-- Undoes `rebind` (R344). -/
def Op.unbind (o : Op) : Op :=
  match o.prev with
  | some b => { o with prev := none, bar := b, wild := none }
  | none => o

/-- An operation whose lanes all stand in join waits goes over with its group: by the record of a fragment that has moved (R344). -/
def Op.rebindLate (o : Op) (moved : List (MapEntry × MapEntry)) (base : Nat) : Op :=
  match moved.find? fun p => p.1.asyncs.any fun a => a.names base o with
  | some p => if o.prev.isSome then o else o.rebind p.1 p.2 base
  | none => o

/-- The map entries of the fragments of a group that have moved: those that they left, and those at which they stand. -/
def State.movedEntries (s : State) (g : Group) (d : Version) : List (MapEntry × MapEntry) :=
  g.fragments.filterMap fun e => (g.entry e).moved.bind fun pc => ((s.versionOf g).stopAt pc.toNat).bind fun src =>
    (d.ordinal src.ord).map fun dst => (src, dst)

/-- A barrier that only the target's record names holds undefined values (R344). -/
def State.spoilBarrier (s : State) (src dst : MapEntry) (base : Nat) : State :=
  dst.asyncs.foldl (fun (s : State) b =>
    if bitOf b.aflags 0 && !(src.asyncs.any fun a => a.aid == b.aid && bitOf a.aflags 0 && a.txb == b.txb) then
      let s1 := s.putN (base + b.txb) ((List.range 16).map fun i => Config.freeByte (s.free + i))
      { s1 with free := s1.free + 16 }
    else s) s

/-- Whether a fragment could run in a version at all: of its width, within its region's registers (R329, log 54). -/
def State.runsIn (s : State) (g : Group) (d : Version) : Bool :=
  (s.versionOf g).width == d.width && !((s.region? g.region).map fun r => decide (r.eff.vregs < d.vregs)).getD false

/-- A pending fragment at a stop site moves into version `d`, if its ordinal has a counterpart and its descriptors match
(R29, R288, R341, R342); none when it is postponed. What D's list lets a fragment still in S read or write is undefined when one
does (`Group.movedRegs`). -/
def State.tryMove (s : State) (g : Group) (e : Nat) (d : Version) : Option State :=
  let v := s.versionOf g
  let x := g.entry e
  match v.stopAt x.pc.toNat with
  | none => none
  | some src =>
    match d.ordinal src.ord with
    | none => none
    | some dst =>
      if !(hasCounterpart src dst && src.fits v (g.joins e 72) && src.sameFrags dst && s.runsIn g d && x.fold.isEmpty) then none
      else
        let live := src.live.map fun u => (u.value, s.readLoc g u.kind u.loc (u.width == 1))
        let want := (dst.live.map Live.value).filter fun n => !(src.live.any fun u => u.value == n)
        match s.recipes g x.mask (neededRecipes want src.recipes) live with
        | none => none
        | some (vs, sv) =>
          let dv := dst.live.filterMap fun u => (vs.find? fun p => p.1 == u.value).map fun p => (u, p.2)
          match sv.recipes g x.mask dst.recipes (dv.map fun p => (p.1.value, p.2)) with
          | none => none
          | some (_, s0) =>
            let old := dst.live.map fun u =>
              ({ kind := u.kind, loc := u.loc, wide := u.width == 1, mask := x.mask,
                 vals := (s.readLoc g u.kind u.loc (u.width == 1)).vals } : MoveWrite)
            let base := s.spadBase g
            let mine (o : Op) : Bool := o.g == g.id && g.issuerOf o == some e
            let s1 := dv.foldl (fun (s : State) p => s.writeLoc g.id p.1.kind p.1.loc (p.1.width == 1) x.mask p.2) s0
            let s2 := s1.mapOps fun o => if mine o then o.rebind src dst base else o
            let s3 := if s.ops.any mine then s2.spoilBarrier src dst base else s2
            some (s3.modGroup g.id fun h =>
              let h1 := h.chg e .parked fun y =>
                { y with park := .transfer, named := 0, moved := some x.pc, pc := BitVec.ofNat 32 dst.coff, seenB := false, seenT := false, seenO := false }
              { h1 with moves := old.reverse ++ h.moves })

/-- Whether the command that asked for a transfer has had its STARTED record (R42). -/
def State.cmdStarted (s : State) (c seq : Nat) : Bool := (s.ctx c).started.any fun d => d.seq == seq

/-- Completes a transfer when no group of its kernel is pending (R288); its command's record waits for its STARTED one. -/
def State.xferDone (s : State) (x : Xfer) : State :=
  if s.groups.any fun g => g.pending.isSome && g.ctx == x.ctx && g.obj == x.obj && g.kidx == x.kidx then s
  else
    match s.xfers.find? fun y => y.active && y.ctx == x.ctx && y.obj == x.obj && y.kidx == x.kidx with
    | none => s
    | some y =>
      let ends := y.cmd.any fun seq => s.cmdStarted y.ctx seq
      let z : Xfer := { y with active := false, cmd := if ends then none else y.cmd }
      let s1 : State := { s with xfers := s.xfers.map fun w => if w == y then z else w }
      match y.cmd with
      | some seq => if ends then s1.endCmd y.ctx seq 6 4 0 y.moved else s1
      | none => s1

/-- Every live fragment of a pending group has moved: all resume in the target (R288, R342), once its mailboxes are written (R267), with
an empty return stack (R127). -/
def State.tryResume (s : State) (gid : Nat) : State :=
  match s.group? gid with
  | none => s
  | some g =>
    match g.pending, s.xferOf g with
    | some t, some x =>
      if s.mailboxes.any fun m => m.wg == g.wg then s
      else if g.phase != .resident then (if g.phase == .draining then (s.modGroup gid fun h => { h with pending := none }).xferDone x else s)
      else if !(g.fragments.all fun e => (g.entry e).moved.isSome) then s
      else
        let v := s.versionOf g
        let d := (s.version? g.obj g.kidx t).getD Version.blank
        let turn (off : Word) : Word := ((v.anchorOrd off.toNat).bind d.anchorAt).elim off (BitVec.ofNat 32)
        let g0 : Group := { g with ver := t, pending := none, moves := [], rstack := [] }
        let g1 := g0.mapEntries fun y =>
          if y.st == .free then y
          else { y with join := if y.parent < 72 then turn y.join else y.join,
                        pc := if y.st == .joinWait then turn y.pc else y.pc }
        let g2 := g1.fragments.foldl (fun (h : Group) e =>
          let go (y : Entry) : Entry := { y with moved := none, passed := 0 }
          if (h.entry e).st == .halted then h.modEntry e go else h.wake e go) g1
        let s1 := { s with xfers := s.xfers.map fun z => if z == x then { z with moved := z.moved + 1 } else z }
        let s2 := (s1.modGroup gid fun _ => g2)
        let s3 := s2.mapOps fun o => if o.g == gid then { o.rebindLate (s.movedEntries g d) (s.spadBase g) with prev := none } else o
        (s3.sync gid 2).xferDone x
    | _, _ => s

/-- Transfers of a kernel that choose no version any more (R366): one whose command has still to end stays, without a target. -/
def forgetXfers (xs : List Xfer) (c o k : Nat) : List Xfer :=
  (xs.filter fun z => !(z.ctx == c && z.obj == o && z.kidx == k && z.cmd.isNone)).map fun z =>
    if z.ctx == c && z.obj == o && z.kidx == k then { z with target := 0xFFFF } else z

/-- A transfer is refused (R29, R288 step 4): moved fragments return to their own stop sites, and groups start as before the request
(R366). -/
def State.refuseXfer (s : State) (x : Xfer) : State :=
  let tag := ((s.obj? x.obj).map fun o => o.tag.toNat).getD 0
  let s1 := s.event 0x82 x.ctx 0 tag
  let mine := s1.groups.filter fun g => g.pending.isSome && g.ctx == x.ctx && g.obj == x.obj && g.kidx == x.kidx
  let back (s : State) (g : Group) : State :=
    let s2 := g.moves.foldl (fun (s : State) w => s.writeLoc g.id w.kind w.loc w.wide w.mask ⟨w.kind == 0, w.vals⟩) s
    let s3 := s2.mapOps fun o => if o.g == g.id then o.unbind else o
    (s3.modGroup g.id fun h =>
      let h1 := { h with pending := none, moves := [] }
      h1.fragments.foldl (fun (h : Group) e =>
        match (h.entry e).moved with
        | some pc =>
          let back (y : Entry) : Entry := { y with moved := none, pc := pc, passed := 0 }
          if (h.entry e).st == .halted then h.modEntry e back else h.wake e back
        | none => h.modEntry e fun y => { y with passed := 0 }) h1).reimage g.id
  let s4 := mine.foldl back s1
  let ends := x.cmd.any fun seq => s4.cmdStarted x.ctx seq
  let rest := forgetXfers (s4.xfers.filter fun z => z != x) x.ctx x.obj x.kidx
  let late : Xfer := { x with active := false, target := 0xFFFF }
  match x.cmd with
  | some seq =>
    if ends then ({ s4 with xfers := rest } : State).endCmd x.ctx seq 6 4 0 x.moved
    else { s4 with xfers := late :: rest }
  | none => { s4 with xfers := rest }

/-! ## Reaching a stop site -/

/-- Whether a fragment's context stops it here for a portable save (R290): MIGRATE_OUT without DRAIN. -/
def State.portableStop (s : State) (g : Group) (e : Nat) : Bool :=
  match (s.ctx g.ctx).migrating with
  | some (_, 0) =>
    let v := s.versionOf g
    let x := g.entry e
    !g.stopped && x.outPassed < v.horizon && !x.inH &&
      (match v.stopAt x.pc.toNat with
      | some m => m.portable && m.fits v (g.joins e 72)
      | none => false)
  | _ => false

/-- The enabled breakpoints that a fragment matches at its stop site (R311). -/
def State.breaksAt (s : State) (g : Group) (e : Nat) : List Nat :=
  match (s.versionOf g).stopAt (g.entry e).pc.toNat with
  | none => []
  | some m =>
    if !s.observable g then []
    else (List.range 16).filter fun n =>
      match s.obs.bps[n]? with
      | some b => b.en && b.ctx == g.ctx && b.tag == s.tagOf g && b.ord == m.ord && b.ord != 0xFFFFFFFF
      | none => false

/-- Counts a hit (Table 21-1). -/
def State.hit (s : State) (n : Nat) : State :=
  { s with obs := { s.obs with bps := s.obs.bps.modify n fun b => { b with hits := min 65535 (b.hits + 1) } } }

/-- Whether a fragment is parked before a unit that is a stop site and has not begun it (R311, R263): one that a transfer has moved stands
before the counterpart unit (R343). -/
def State.parkedAtStop (s : State) (g : Group) (e : Nat) : Bool :=
  let x := g.entry e
  x.st == .parked && ((s.versionAt g e).stopAt x.pc.toNat).isSome &&
    (match x.park with
    | .tdone .. => false
    | _ => true)

/-- The fragments of a group that a halt concerns (R311): those parked at a stop site halt in place, the others are halt-pending. -/
def State.haltGroup (s : State) (g : Group) : Group :=
  g.fragments.foldl (fun (h : Group) e =>
    if s.parkedAtStop g e then h.chg e .halted fun y => { y with park := .none, haltP := false, seenB := true }
    else if (g.entry e).st == .halted then h
    else h.modEntry e fun y => { y with haltP := true }) g

/-- A halt of a context, or of one group (R311). -/
def State.markHalt (s : State) (c : Nat) (only : Option Nat) : State :=
  let s1 := s.modCtx c fun x => { x with halt := true }
  s1.mapGroups fun g => if g.ctx == c && (only.isNone || only == some g.id) && s.observable g then s.haltGroup g else g

/-- A breakpoint's ACTION on a fragment that stands before a unit (R311). -/
def State.breakAct (s : State) (g : Group) (e n : Nat) : State :=
  let s1 := s.hit n
  let here (h : Group) : Group := h.chg e .halted fun y => { y with haltP := false, seenB := true }
  match (s.obs.bps[n]?.map Breakpoint.action).getD 2 with
  | 0 => (s1.markHalt g.ctx none).modGroup g.id here
  | 1 => (s1.markHalt g.ctx (some g.id)).modGroup g.id here
  | _ => s1.modEntry g.id e fun y => { y with seenB := true }

/-- What happens when a fragment reaches a stop site (R29, R290, R311): the new state, and whether the fragment stays. -/
def State.atStop (s : State) (g : Group) (e : Nat) : State × Bool :=
  let x := g.entry e
  let moved : Option State :=
    match g.pending, x.seenT with
    | some t, false => if x.inH || x.heldT then none else s.tryMove g e ((s.version? g.obj g.kidx t).getD Version.blank)
    | _, _ => none
  match moved with
  | some s1 => (s1.tryResume g.id, true)
  | none =>
    if s.portableStop g e then
      (s.modGroup g.id fun h => h.chg e .parked fun y => { y with park := .transfer }, true)
    else
      let counts := g.pending.isSome && !x.inH && !x.heldT && !x.seenT
      let out := (s.ctx g.ctx).migrating.isSome && !x.seenO
      let s0 := if counts then { s with free := s.free + 1 }.modEntry g.id e fun y => { y with seenT := true, passed := y.passed + 1 } else s
      let s1 := if out then s0.modEntry g.id e fun y => { y with seenO := true, outPassed := y.outPassed + 1 } else s0
      let s2 := match g.pending, s.xferOf g with
        | some _, some xf => if counts && (s.versionOf g).horizon ≤ x.passed + 1 then s1.refuseXfer xf else s1
        | _, _ => s1
      let s3 := if x.seenB then s2 else (s.breaksAt g e).foldl (fun (s : State) n => s.breakAct g e n) s2
      let stays : Bool := match s3.group? g.id with
        | some h => decide ((h.entry e).st = .halted)
        | none => false
      if stays then (s3, true)
      else if x.haltP then
        (s3.modGroup g.id fun h => h.chg e .halted fun y => { y with haltP := false, seenB := true }, true)
      else (s3, false)

/-- Whether reaching this stop site may act on the fragment at all. -/
def State.stopMatters (s : State) (g : Group) (e : Nat) : Bool :=
  let x := g.entry e
  (g.pending.isSome && !x.seenT) || x.haltP || (s.ctx g.ctx).migrating.isSome || (!(s.breaksAt g e).isEmpty && !x.seenB)

/-! ## Requesting a transfer -/

/-- The translated Pinamet form (R21, R22): a record of a newer generation may carry its VTAG and is none (R16). -/
def Version.isPinamet (v : Version) : Bool := v.vtag == 0xFFFFFFFF && v.gen ≤ Config.generation

/-- Eligible on this device, apart from XFERONLY and DEBUG (R21). -/
def Version.fitsDevice (v : Version) : Bool :=
  v.gen ≤ Config.generation && (v.featreq % 2 ^ 64).land (2 ^ 64 - 1 - Config.featureWord.toNat) == 0 &&
    (v.gen == 1 || v.width == 32)

/-- Whether a fragment that stands still stands at a stop site, to which a request then comes (R143, R343). -/
def State.waitsAtStop (s : State) (g : Group) (e : Nat) : Bool :=
  let y := g.entry e
  (y.st == .parked || y.st == .collective) && !y.inH && !y.seenT && y.moved.isNone && ((s.versionOf g).stopAt y.pc.toNat).isSome

/-- A fragment of a pending group that stands still reaches its stop site: it moves, or the site counts once (R143, R263, R343). -/
def State.reachStill (s : State) (gid e : Nat) : State :=
  match s.group? gid with
  | none => s
  | some g =>
    match g.pending with
    | none => s
    | some t =>
      if g.phase != .resident || !s.waitsAtStop g e then s
      else
        let begun : Bool := match (g.entry e).park with
          | .tdone .. => true
          | _ => false
        match (if begun then none else s.tryMove g e ((s.version? g.obj g.kidx t).getD Version.blank)) with
        | some s' => s'.tryResume gid
        | none =>
          let s' := { s with free := s.free + 1 }.modEntry gid e fun z => { z with seenT := true, passed := z.passed + 1 }
          match s'.xferOf g with
          | some xf => if (s.versionOf g).horizon ≤ (g.entry e).passed + 1 then s'.refuseXfer xf else s'
          | none => s'

/-- A transfer ends a sleep early, and the fragment continues at the next unit (R269); one that it has moved sleeps no more (R343). -/
def Group.endSleeps (g : Group) : Group :=
  g.fragments.foldl (fun (h : Group) e =>
    match (g.entry e).st, (g.entry e).park with
    | .parked, .sleep _ => h.wake e fun y => { y with pc := y.next, seenB := false, seenT := false, seenO := false }
    | _, _ => h) g

/-- Every fragment of a pending group that stands still is considered (R143, R343), and then its sleeps end (R269). -/
def State.reachAll (s : State) (gid : Nat) : State :=
  match s.group? gid with
  | none => s
  | some g => (g.fragments.foldl (fun (s : State) e => s.reachStill gid e) s).modGroup gid Group.endSleeps

/-- Whether the target of a transfer fails the test of R329: of the issuing group, or for a command of every group of the kernel. -/
def State.targetBad (s : State) (gs : List Group) (self : Option Group) (d : Version) : Bool :=
  !d.fitsDevice || (match self with
    | some g => !s.runsIn g d
    | none => gs.any fun g => !s.runsIn g d)

/-- The groups that a request makes pending (R288, R329): none when the issuing group runs in the target. -/
def pendingNow (gs : List Group) (self : Option Group) (t : Nat) : List Group :=
  if self.any fun g => g.ver == t then [] else gs.filter fun g => g.ver != t

/-- An accepted transfer (R288, R343, R366). -/
def State.startXfer (s : State) (x : Xfer) (pend : List Group) : State :=
  let s1 := { s with xfers := x :: forgetXfers s.xfers x.ctx x.obj x.kidx }
  let s2 := s1.mapGroups fun g =>
    if pend.any fun h => h.id == g.id then
      { g with pending := some x.target, moves := [] }.mapEntries fun y => { y with passed := 0, seenT := false }
    else g
  (pend.foldl (fun (s : State) g => (s.reachAll g.id).reimage g.id) s2).xferDone x

/-- A request of a transfer of kernel `k` of object `o` to VTAG `vtag`, by `xfer` of a group or by a command (R288, R329): the result
code, and the state. Model choice (log 64): a kernel index that the object does not have is a target that does not exist, NO_TARGET. -/
def State.requestXfer (s : State) (c o k vtag : Nat) (self : Option Group) (cmd : Option Nat) : Nat × State :=
  match s.obj? o with
  | none => (0x28, s)
  | some ob =>
    if ob.draining then (0x03, s)
    else if s.xfers.any fun x => x.active && x.ctx == c && x.obj == o && x.kidx == k then (0x27, s)
    else
      let vs := ((s.kernel? o k).map Kernel.versions).getD []
      match vs.findIdx? fun v => v.vtag == vtag && vtag != 0xFFFFFFFF with
      | none => (0x28, s)
      | some t =>
        let gs := s.groups.filter fun g => g.ctx == c && g.obj == o && g.kidx == k && (g.phase == .resident || g.phase == .saved)
        if s.targetBad gs self (vs[t]?.getD Version.blank) then (0x28, s)
        else (0, s.startXfer { ctx := c, obj := o, kidx := k, target := t, active := true, moved := 0, cmd := cmd } (pendingNow gs self t))

/-- The version in which a group of a kernel starts in a region (R21, R55, R366): an accepted transfer's target, else the
eligible one of highest GEN, then PREFER, then lowest VREGS, then the first; else the translated Pinamet form. Model choice (log 64):
PREGS above the effective VREGS only keeps the Pinamet form from being translated; an eligible native version starts all the same. -/
def State.startVersion (s : State) (c o k : Nat) (eff : Eff) (debug : Bool) : Option Nat :=
  match s.kernel? o k with
  | none => none
  | some kn =>
    let ok (v : Version) : Bool :=
      !v.isPinamet && v.fitsDevice && !bitOf v.vflags 1 && bitOf v.vflags 0 == debug && v.vregs ≤ eff.vregs
    let better (a b : Version) : Bool :=
      a.gen > b.gen || (a.gen == b.gen && (bitOf a.vflags 2 && !bitOf b.vflags 2 ||
        (bitOf a.vflags 2 == bitOf b.vflags 2 && a.vregs < b.vregs)))
    let native := (List.range kn.versions.length).foldl (fun (best : Option Nat) i =>
      let v := kn.versions[i]?.getD Version.blank
      if !ok v then best
      else match best with
        | none => some i
        | some j => if better v (kn.versions[j]?.getD Version.blank) then some i else best) none
    let chosen : Option Nat :=
      match s.xfers.find? fun x => x.ctx == c && x.obj == o && x.kidx == k && x.target < kn.versions.length with
      | some x =>
        let d := kn.versions[x.target]?.getD Version.blank
        if debug || !d.fitsDevice || eff.vregs < d.vregs then none else some x.target
      | none => none
    match chosen with
    | some t => some t
    | none =>
      match native with
      | some i => some i
      | none => kn.versions.findIdx? fun v => v.isPinamet && kn.pregs ≤ eff.vregs

end Sys2Proof.Machine
end

