-- ==== Sys2Proof/Machine/Place.lean ====
section
/-! DEFINITION. Places for work (R52 to R54, R56, R57, R61, R62, R66, R68, R70, R76): room on cores, slots and scratchpad
ranges, budgets, starting groups, the end condition of pipelines and pools (R64), and what settles after every step. -/
namespace Sys2Proof.Machine

/-- Groups that occupy an issue slot. -/
def State.onSlot (s : State) (core slot : Nat) : List Group := s.groups.filter fun g => g.core == core && g.slot == slot && g.onCore

/-- Resident groups of a core (R53). -/
def State.resident (s : State) (core : Nat) : Nat := (s.groups.filter fun g => g.core == core && g.onCore).length

/-- The slot of a core with the fewest resident groups, the lowest among equals (R53). -/
def State.pickSlot (s : State) (core : Nat) : Nat :=
  [1, 2, 3].foldl (fun (b : Nat) k => if (s.onSlot core k).length < (s.onSlot core b).length then k else b) 0

/-- The lowest free residency position of a slot. -/
def State.pickPos (s : State) (core slot : Nat) : Nat :=
  ((List.range 16).find? fun p => !((s.onSlot core slot).any fun g => g.pos == p)).getD 16

/-- Bytes rounded up to a multiple of 4 KiB (R52). -/
def roundSpad (n : Nat) : Nat := (n + 4095) / 4096 * 4096

/-- The scratchpad ranges that workgroups hold on a core: until what their groups have outstanding has completed (R34). -/
def State.spadRanges (s : State) (core : Nat) : List (Nat × Nat) :=
  (s.wgs.filter fun w => w.core == core && w.phase != .saved && w.spSize != 0).map fun w => (w.spOff, w.spSize)

/-- Whether a scratchpad range of a core is free. -/
def State.spadFree (s : State) (core off n : Nat) : Bool :=
  off + n ≤ Config.spadBytes && ((s.spadRanges core).all fun r => off + n ≤ r.1 || r.1 + r.2 ≤ off)

/-- The lowest offset at which a range of `n` bytes is free on every one of some cores (R53, R54). -/
def State.spadPick (s : State) (cores : List Nat) (n : Nat) : Option Nat :=
  (List.range 129).map (· * 4096) |>.find? fun o => cores.all fun c => n == 0 || s.spadFree c o n

/-- Context-private bytes of one group: PRIV and 2 KiB of spill area (R52). -/
def State.privNeed (s : State) (o k : Nat) : Nat := ((s.kernel? o k).map Kernel.priv).getD 0 + 2048

/-- Context-private bytes in use of a context's reserve: those of its resident groups, and the images that it holds (R52). -/
def State.privUsed (s : State) (c : Nat) : Nat :=
  (s.groups.filter fun g => g.ctx == c).foldl (fun (n : Nat) g =>
    n + (if g.phase == .saved then g.image.length else s.privNeed g.obj g.kidx)) 0 +
  (s.wgs.filter fun w => w.ctx == c && w.phase == .saved).foldl (fun (n : Nat) w => n + w.spSize + w.spSize / 512) 0

/-- A region and its ancestors, innermost first. -/
def State.ancestors (s : State) (r : Nat) : Nat → List Region
  | 0 => []
  | n + 1 =>
    match s.region? r with
    | none => []
    | some x => x :: (match x.parent with | some p => s.ancestors p n | none => [])

/-- Cores that hold a group of a subtree (R52). -/
def State.coresOf (s : State) (top : Nat) : List Nat :=
  (List.range 384).filter fun c => s.groups.any fun g => g.core == c && g.onCore && s.under top g.region s.regions.length

/-- Scratchpad bytes of a subtree (R52): those of a saved workgroup count too, until its last group exits. -/
def State.spadUse (s : State) (top : Nat) : Nat :=
  (s.wgs.filter fun w => s.under top w.region s.regions.length).foldl
    (fun (n : Nat) w => n + w.spSize) 0

/-- Whether groups on further cores and further scratchpad keep every ancestor's budget (R52). -/
def State.inBudget (s : State) (rid : Nat) (cores : List Nat) (spad : Nat) : Bool :=
  (s.ancestors rid (s.regions.length + 1)).all fun a =>
    let held := s.coresOf a.id
    held.length + (cores.filter fun c => !held.contains c).length ≤ a.eff.cores && s.spadUse a.id + spad ≤ a.eff.spad

/-- Whether a core has room for `n` more groups, at most 16 on any slot. -/
def State.groupRoom (s : State) (core n : Nat) : Bool := s.resident core + n ≤ 64

/-- A group at its start (R76). -/
def State.newGroup (s : State) (r : Region) (kidx ver stage wg gid core slot pos age : Nat) : Group :=
  let v := (s.version? r.obj kidx ver).getD Version.blank
  let lanes : Word := if v.width == 16 then 0xFFFF else 0xFFFFFFFF
  let first : Entry := { Entry.free with st := .ready, mask := lanes, pc := BitVec.ofNat 32 v.entry }
  { id := s.nextId, ctx := r.ctx, region := r.id, wg := wg, gid := gid, core := core, slot := slot, pos := pos, age := age,
    obj := r.obj, kidx := kidx, ver := ver, legacy := v.width == 16, stage := stage, phase := .resident, pending := none, moves := [],
    stopped := false, entries := (Vector.replicate 72 Entry.free).setIfInBounds 0 first, events := 0,
    v := Vector.replicate 128 (Vector.replicate 32 0), sr := Vector.replicate 64 0, mr := Vector.replicate 16 0,
    tr := Vector.replicate 16 0, ld := 0, st := 0, cp := 0, mx := 0, frecp := 0, trappc := 0, trapcode := 0, traparg := 0, hLanes := 0,
    hEntry := 0, hRedo := none, rstack := [], task := none, mmas := [], late := [], softErr := [], image := [], left := false }

/-- Starts one group of a workgroup: on the emptiest slot (R53), with an acquire of system scope (Table 14-2) and a SYNC
packet. -/
def State.startGroup (s : State) (r : Region) (kidx ver stage wg core age gid : Nat) : State :=
  let slot := s.pickSlot core
  let g := s.newGroup r kidx ver stage wg gid core slot (s.pickPos core slot) age
  let s1 := { s with groups := s.groups ++ [g], nextId := s.nextId + 1 }
  let s2 := s1.modRegion r.id fun x => { x with begun := true, ran := if x.ran.contains core then x.ran else core :: x.ran }
  (s2.acquire core).sync g.id 0

/-- Places one workgroup on a core and starts its groups in order. -/
def State.addWg (s : State) (r : Region) (kidx ver stage lin x y z member set wgg core spOff spSize : Nat) : State :=
  let w : Workgroup := { id := s.nextId, ctx := r.ctx, region := r.id, lin := lin, x := x, y := y, z := z, member := member, set := set,
                         wgg := wgg, core := core, spOff := spOff, spSize := spSize, order := s.nextId, phase := .placed, image := [],
                         poison := [], bars := [], why := 0 }
  let s1 := { s with wgs := s.wgs ++ [w], nextId := s.nextId + 1,
                     txbs := s.txbs.filter fun k => !(spadKey core spOff ≤ k && k < spadKey core spOff + spSize) }
  (List.range wgg).foldl (fun (s : State) i => s.startGroup r kidx ver stage w.id core w.id i) s1

/-- Scratchpad bytes of a workgroup of a kernel in a region (R52). -/
def State.spadNeed (s : State) (r : Region) (kidx : Nat) : Nat :=
  roundSpad (((s.kernel? r.obj kidx).map Kernel.spad).getD 0 + r.dspad)

/-- Whether a core has room for some workgroups' scratchpad ranges of `n` bytes each, at the lowest free offsets in turn (R52, R53). -/
def State.spadRoom (s : State) (core n : Nat) : Nat → Bool
  | 0 => true
  | k + 1 =>
    match s.spadPick [core] n with
    | none => false
    | some o =>
      let w : Workgroup := { id := s.nextId, ctx := 0, region := 0, lin := 0, x := 0, y := 0, z := 0, member := 0, set := 0, wgg := 1,
                             core := core, spOff := o, spSize := n, order := 0, phase := .placed, image := [], poison := [], bars := [], why := 0 }
      ({ s with wgs := w :: s.wgs } : State).spadRoom core n k

/-- Whether `gpc` groups of a stage could be hosted by a core: each is a workgroup of one group, with a range of its own (R52, R62). -/
def State.stageFits (s : State) (r : Region) (st : Stage) (core : Nat) : Bool :=
  let n := s.spadNeed r st.kidx
  s.groupRoom core st.gpc && s.spadRoom core n st.gpc && s.inBudget r.id [core] (n * st.gpc) &&
    s.privUsed r.ctx + st.gpc * s.privNeed r.obj st.kidx ≤ (s.ctx r.ctx).reserve

/-- GPC groups of stage `k` start on a core (R62, R66). -/
def State.startStage (s : State) (rid k core : Nat) : State :=
  match s.region? rid with
  | none => s
  | some r =>
    match r.stages[k]? with
    | none => s
    | some st =>
      match s.startVersion r.ctx r.obj st.kidx r.eff r.debug with
      | none => s
      | some v =>
        let n := s.spadNeed r st.kidx
        let go (s : State) (_ : Nat) : State :=
          match s.spadPick [core] n with
          | some o => s.addWg r st.kidx v k 0 0 0 0 0 s.nextId 1 core o n
          | none => s
        let s1 := s.modRegion rid fun x => { x with cores := x.cores ++ [(core, k)] }
        (List.range st.gpc).foldl go s1

/-! ## The end of pipelines and pools -/

/-- The end condition of R64: seeding complete, every queue empty, no group holds a task. -/
def State.drained (s : State) (r : Region) : Bool :=
  r.rstate == 1 && r.seedN ≤ r.seeded && r.queues.all List.isEmpty && !(s.groups.any fun g => g.region == r.id && g.task.isSome)

/-- Parked `qpop`s of a region that meets R64 return S[a] = 2, and a region with no group left ends. -/
def State.endPipe (s : State) (rid : Nat) : State :=
  match s.region? rid with
  | none => s
  | some r =>
    if r.kind == 1 || !s.drained r then s
    else
      let s1 := s.mapGroups fun g =>
        if g.region == rid && g.phase == .resident then
          g.fragments.foldl (fun (h : Group) e =>
            match (h.entry e).park with
            | .qpop reg _ _ => (h.setS reg 2).wake e fun y => { y with pc := y.next, seenB := false, seenT := false, seenO := false }
            | _ => h) g
        else g
      if s1.groups.any fun g => g.region == rid then s1 else s1.finishRegion rid

/-- Capacity of a queue (Table 04-4). -/
def Region.qcap (r : Region) (q : Nat) : Nat := ((r.stages[q]?).map fun t => 2 ^ t.qlog).getD 0

/-- Records of a queue, oldest first. -/
def Region.queue (r : Region) (q : Nat) : List (List Byte) := r.queues[q]?.getD []

/-- Whether a queue has room. -/
def Region.room (r : Region) (q : Nat) : Bool := (r.queue q).length < r.qcap q

/-- Whether a fragment is parked as R67 counts: in a push on a full queue, or a `qpop` on an empty one; and which. -/
def Region.parkedOn (r : Region) (g : Group) (x : Entry) : Option Bool :=
  match x.st, x.park with
  | .parked, .qpush q _ _ => if r.room q then Option.none else some true
  | .parked, .tdone q _ _ => if r.room q then Option.none else some true
  | .parked, .qpop _ _ _ => if (r.queue g.stage).isEmpty then some false else Option.none
  | _, _ => Option.none

/-- Whether a pipeline is blocked (R67): every one of its groups, the saved ones among them, is parked so. -/
def State.isBlocked (s : State) (r : Region) : Bool :=
  let fs := (s.groups.filter fun g => g.region == r.id && g.phase != .gone).flatMap fun g =>
    if g.fragments.isEmpty then [none] else g.fragments.map fun e => r.parkedOn g (g.entry e)
  r.kind != 1 && r.rstate == 1 && fs.all Option.isSome && fs.contains (some true)

/-- Follows the blocked state of a pipeline whose class is not shed (R67). -/
def State.markBlocked (s : State) (rid : Nat) : State :=
  match s.region? rid with
  | none => s
  | some r =>
    if s.isShed r.eff.prio then s
    else if s.isBlocked r then (if r.blockedAt.isSome then s else s.modRegion rid fun x => { x with blockedAt := some s.time, warned := false })
    else if r.blockedAt.isSome then s.modRegion rid fun x => { x with blockedAt := none, warned := false }
    else s

/-- A move whose last donor group has exited: the receiver's groups start on the core that it held last (R66), but for a pipeline that
has met the end condition of R64 and a context that takes no more work (R34). Model choice: a move whose receiver's groups do not fit
on the core waits (log 30). -/
def State.handOver (s : State) (rid : Nat) : State :=
  match s.region? rid with
  | none => s
  | some r =>
    r.moves.foldl (fun (s : State) m =>
      match s.region? rid, r.stages[m.receiver]? with
      | some x, some st =>
        if x.rstate != 1 || (s.ctx x.ctx).st != .open_ || s.drained x || (s.groups.any fun g => m.groups.contains g.id) then s
        else if !s.isShed x.eff.prio && s.stageFits x st m.core then
          let held (c : Nat × Nat) : Bool := s.groups.any fun g => g.region == rid && g.core == c.1 && g.stage == c.2
          (s.modRegion rid fun y => { y with moves := y.moves.filter (fun n => n != m),
                                             cores := y.cores.filter fun c => c.2 != m.donor || held c }).startStage rid m.receiver m.core
        else s
      | _, _ => s) s

/-- Whether a group is withheld, as the throttle period counts it (R88, R308, R311): its class is below W, or it is stopped or
saved because its class is shed; not a handler in its exemption, nor a halted group. -/
def State.withheldG (s : State) (g : Group) : Bool :=
  let p := s.prioOf g
  let here := g.phase == .resident
  !(g.fragments.any fun e => (g.entry e).inH && 0 < (g.entry e).exempt) && !(g.fragments.all fun e => (g.entry e).st == .halted) &&
    (here && p < (s.cluster (g.core / 4)).w || s.isShed p && (g.phase == .saved || here && g.stopped))

/-- Follows, for every context, since when its groups are withheld on each cluster (R308). -/
def State.markWithheld (s : State) : State :=
  let now := (s.groups.filter fun g => s.withheldG g).map fun g => (g.ctx, g.core / 4)
  if now.isEmpty && s.ctxs.all fun x => x.withheld.isEmpty then s
  else
    let upd (p : Context × Nat) : Context :=
      let cls := ((now.filter fun q => q.1 == p.2).map Prod.snd).eraseDups
      { p.1 with withheld := cls.map fun k => (k, ((p.1.withheld.find? fun q => q.1 == k).map Prod.snd).getD s.time) }
    { s with ctxs := s.ctxs.zipIdx.map upd }

/-- What settles after a step: transfers whose fragments have all moved, handovers, the ends of regions, blocked
pipelines and withheld contexts (R57, R64, R66, R67, R288, R308). -/
def State.settle (s : State) : State :=
  let s0 := s.groups.foldl (fun (s : State) g => if g.pending.isSome then s.tryResume g.id else s) s
  let s1 := s0.xfers.foldl (fun (s : State) x => if x.active then s.xferDone x else s) s0
  (s1.regions.foldl (fun (s : State) r => (((s.handOver r.id).endPipe r.id).gridEnd r.id).markBlocked r.id) s1).markWithheld

end Sys2Proof.Machine
end

