-- ==== Sys2Proof/Machine/Regions.lean ====
section
/-! DEFINITION. Region control blocks: their checks against a parent's effective values and the resident object, and the
region that one describes (R46, R47, R49, R50, R268; order of the checks: log 31). -/
namespace Sys2Proof.Machine

/-- Codes of Table 03-6 and Table 15-3. -/
def reasonDraining : Nat := 0x03
def reasonBadCommand : Nat := 0x20
def reasonCtxState : Nat := 0x21
def reasonBadRcb : Nat := 0x22
def reasonBudget : Nat := 0x23
def reasonPriority : Nat := 0x24
def reasonUnknown : Nat := 0x25
def reasonLimit : Nat := 0x26

/-- The fields common to every RCB are in form (R46, R47): RFMT, KIND, reserved bits, overridden fields in range. -/
def rcbForm (x : Nat) : Bool :=
  let ovr (n : Nat) : Bool := bitOf x (664 + n)
  bitsOf x 655 648 == 1 && 1 ≤ bitsOf x 663 656 && bitsOf x 663 656 ≤ 3 && bitsOf x 631 0 == 0 && bitsOf x 687 683 == 0 &&
    bitsOf x 679 675 == 0 && bitsOf x 879 864 == 0 &&
    (!ovr 0 || (1 ≤ bitsOf x 719 704 && bitsOf x 719 704 ≤ 384)) && (!ovr 2 || (1 ≤ bitsOf x 735 720 && bitsOf x 735 720 ≤ 128)) &&
    (!ovr 5 || bitsOf x 703 688 != 0)

/-- Effective values of an RCB below its parent's (R47). -/
def rcbEff (p : Eff) (x : Nat) : Eff :=
  let pick (n v old : Nat) : Nat := if bitOf x (664 + n) then v else old
  { cores := pick 0 (bitsOf x 719 704) p.cores, spad := pick 1 (bitsOf x 767 736) p.spad, vregs := pick 2 (bitsOf x 735 720) p.vregs,
    priv := pick 3 (bitsOf x 799 768) p.priv, prio := pick 4 (bitsOf x 682 680) p.prio, weight := pick 5 (bitsOf x 703 688) p.weight,
    fdom := if bitOf x 670 then bitOf x 672 else p.fdom, fpin := if bitOf x 671 then bitOf x 673 else p.fpin }

/-- The refusal of R47: a budget or a class above the inherited one. -/
def effRefusal (p e : Eff) : Option Nat :=
  if p.cores < e.cores || p.spad < e.spad || p.vregs < e.vregs || p.priv < e.priv then some reasonBudget
  else if p.prio < e.prio then some reasonPriority
  else none

/-- A stage entry (Table 04-4). -/
def stageOf (w : Nat) : Stage :=
  { kidx := bitsOf w 63 48, maxc := bitsOf w 47 36, minc := bitsOf w 35 24, gpc := bitsOf w 23 17, qlog := bitsOf w 16 13 }

/-- Whether a stage's numbers lie in range. -/
def Stage.ok (t : Stage) : Bool :=
  1 ≤ t.maxc && t.maxc ≤ 384 && 1 ≤ t.minc && t.minc ≤ t.maxc && 1 ≤ t.gpc && t.gpc ≤ 64 && 4 ≤ t.qlog && t.qlog ≤ 12

/-- Whether a grid's REGION is in form (Table 04-1, R50); `y` is the REGION field. -/
def gridForm (y : Nat) : Bool :=
  let n := bitsOf y 31 0 * bitsOf y 63 32 * bitsOf y 95 64
  let cset := bitsOf y 135 128
  y / 2 ^ 152 == 0 && bitsOf y 151 145 == 0 && 1 ≤ bitsOf y 143 136 && bitsOf y 143 136 ≤ 32 && 1 ≤ cset && cset ≤ 4 && n != 0 &&
    n < 2 ^ 32 && n % cset == 0

/-- The stage words of a pipeline. -/
def stageWords (y n : Nat) : List Nat := (List.range n).map fun i => y / 2 ^ (64 * i) % 2 ^ 64

/-- A field that 0 leaves at its default. -/
def orDefault (x d : Nat) : Nat := if x == 0 then d else x

/-- Whether a pipeline's REGION is in form (Tables 04-3, 04-4). -/
def pipeForm (y : Nat) : Bool :=
  let n := bitsOf y 643 640
  let rivl := bitsOf y 671 656
  y / 2 ^ 704 == 0 && bitsOf y 655 644 == 0 && bitsOf y 543 512 == 0 && 1 ≤ n && n ≤ 8 &&
    (stageWords y n).all (fun w => (stageOf w).ok && w % 2 ^ 13 == 0) && bitsOf y 511 0 / 2 ^ (64 * n) == 0 &&
    orDefault (bitsOf y 695 688) 32 < orDefault (bitsOf y 703 696) 192 && (rivl == 0 || (10 ≤ rivl && rivl ≤ 10000)) &&
    bitsOf y 607 544 % 64 == 0

/-- Whether a pool's REGION is in form (Table 04-7). -/
def poolForm (y : Nat) : Bool :=
  let maxc := bitsOf y 159 148
  let gpc := bitsOf y 147 141
  let qlog := bitsOf y 140 137
  y / 2 ^ 160 == 0 && bitsOf y 136 128 == 0 && bitsOf y 63 32 == 0 && 1 ≤ maxc && maxc ≤ 384 && 1 ≤ gpc && gpc ≤ 64 && 4 ≤ qlog &&
    qlog ≤ 12 && bitsOf y 127 64 % 64 == 0

/-- Whether the REGION field is in form for its KIND (R49). -/
def regionForm (x : Nat) : Bool :=
  let y := x / 2 ^ 1024
  match bitsOf x 663 656 with
  | 1 => gridForm y
  | 2 => pipeForm y
  | _ => poolForm y

/-- The stages of a region: a pool has one, of the RCB's kernel (R68). -/
def regionStages (x : Nat) : List Stage :=
  let y := x / 2 ^ 1024
  match bitsOf x 663 656 with
  | 1 => []
  | 2 => (stageWords y (bitsOf y 643 640)).map stageOf
  | _ => [{ kidx := bitsOf x 895 880, maxc := bitsOf y 159 148, minc := 1, gpc := bitsOf y 147 141, qlog := bitsOf y 140 137 }]

/-- The kernel conditions of R49 against the resident object. -/
def kernelsOk (x : Nat) (o : Obj) : Bool :=
  let kind := bitsOf x 663 656
  let flag (k n : Nat) : Bool := ((o.kernels[k]?).map fun q => bitOf q.kflags n).getD false
  bitsOf x 895 880 < o.kernels.length &&
    (match kind with
    | 1 => true
    | 2 => (regionStages x).all fun t => flag t.kidx 0
    | _ => flag (bitsOf x 895 880) 1)

/-- The checks of an RCB (R40, R47, R49, R268) in a context below effective values: the object, or a reason. -/
def State.checkRcb (s : State) (c : Nat) (p : Eff) (x : Nat) : Except Nat Obj :=
  if !(rcbForm x && regionForm x) then .error reasonBadRcb
  else
    match effRefusal p (rcbEff p x) with
    | some r => .error r
    | none =>
      match s.objByTag c (bitsOf x 959 896) with
      | none => .error reasonUnknown
      | some o => if o.draining then .error reasonDraining else if kernelsOk x o then .ok o else .error reasonBadRcb

/-- The region that an RCB describes, waiting for placement (log 29). -/
def regionOf (id c rcb seq : Nat) (parent : Option Nat) (p : Eff) (o : Obj) (x : Nat) : Region :=
  let y := x / 2 ^ 1024
  let kind := bitsOf x 663 656
  let grid := kind == 1
  let pipe := kind == 2
  let stages := regionStages x
  { id := id, ctx := c, rcb := rcb, parent := parent, root := parent.isNone, seq := seq, eff := rcbEff p x, debug := bitOf x 674,
    kind := kind, obj := o.id, kidx := bitsOf x 895 880, argp := bitsOf x 1023 960, rstate := 0, rcode := 0,
    gx := if grid then bitsOf y 31 0 else 1, gy := if grid then bitsOf y 63 32 else 1, gz := if grid then bitsOf y 95 64 else 1,
    wgg := if grid then bitsOf y 143 136 else 1, cset := if grid then bitsOf y 135 128 else 1,
    dspad := if grid then bitsOf y 127 96 else 0, fetch := grid && bitOf y 144, cursor := 0, stages := stages,
    seedP := if grid then 0 else if pipe then bitsOf y 607 544 else bitsOf y 127 64,
    seedN := if grid then 0 else if pipe then bitsOf y 639 608 else bitsOf y 31 0, seeded := 0,
    low := if pipe then orDefault (bitsOf y 695 688) 32 else 32, high := if pipe then orDefault (bitsOf y 703 696) 192 else 192,
    rivl := if pipe then orDefault (bitsOf y 671 656) 50 else 50, dlwin := if pipe then orDefault (bitsOf y 687 672) 100 else 100,
    queues := stages.map fun _ => [], qbad := [], dies := [], cores := [], moves := [], startedAt := 0, dressedAt := none, blockedAt := none, warned := false, begun := false,
    ran := [] }

/-- A region is created: PARENT, RSTATE and RCODE of its RCB are written (R46, R268). -/
def State.addRegion (s : State) (r : Region) (parentRcb : Nat) : State :=
  let s1 := s.writeVirt r.ctx (r.rcb + 79) [0, 0]
  let s2 := s1.writeVirt r.ctx (r.rcb + 100) (bytesOf 8 parentRcb)
  { s2 with regions := s2.regions ++ [{ r with id := s2.nextId }], nextId := s2.nextId + 1 }

/-- Regions of a context that have not ended (R268). -/
def State.openRegions (s : State) (c : Nat) : Nat := (s.regions.filter fun r => r.ctx == c && !r.ended).length

end Sys2Proof.Machine
end

