-- ==== Sys2Proof/Machine/Loader.lean ====
section
/-! DEFINITION. Code objects (R14 to R32, R119): parsing an image, the loader's checks with their reasons (order: log 32),
relocation (R30, R31), and the translated Pinamet form (R22, log 11). -/
namespace Sys2Proof.Machine

/-! ## Reading an image -/

/-- The words of a code section. -/
def imgWords (img : List Byte) (off : Nat) : Nat → List Word
  | 0 => []
  | n + 1 => BitVec.ofNat 32 (rdImg img off 4) :: imgWords img (off + 4) n

/-- A section directory entry (Table 02-2). -/
structure Sect where
  kind : Nat
  kernel : Nat
  off : Nat
  size : Nat
  deriving DecidableEq, Repr

/-- The sections of an image. -/
def sectsOf (img : List Byte) : List Sect :=
  let sdir := rdImg img 24 8
  (List.range (rdImg img 20 4)).map fun i =>
    let b := sdir + 32 * i
    { kind := rdImg img b 2, kernel := rdImg img (b + 2) 2, off := rdImg img (b + 8) 8, size := rdImg img (b + 16) 8 }

/-- Whether two sections overlap. -/
def Sect.clash (a b : Sect) : Bool := a.size != 0 && b.size != 0 && a.off < b.off + b.size && b.off < a.off + a.size

/-- Whether any two of a list overlap. -/
def anyClash : List Sect → Bool
  | [] => false
  | x :: xs => xs.any x.clash || anyClash xs

/-- R14 and R15: header and section directory in form, for an image of `n` bytes. -/
def headerOk (img : List Byte) (n : Nat) : Bool :=
  let h := rdImg img 0 64
  let kcount := bitsOf h 159 128
  let scount := bitsOf h 191 160
  let sdir := bitsOf h 255 192
  64 ≤ n && bitsOf h 31 0 == 0x4F43584B && bitsOf h 47 32 == 1 && bitsOf h 63 50 == 0 && bitsOf h 127 64 == n && 1 ≤ kcount &&
    kcount ≤ 4096 && 1 ≤ scount && scount ≤ 65534 && bitsOf h 511 352 == 0 && sdir % 8 == 0 && sdir + 32 * scount ≤ n &&
    bitsOf h 319 256 + bitsOf h 351 320 ≤ n &&
    ((List.range scount).all fun i =>
      let b := sdir + 32 * i
      rdImg img (b + 4) 4 == 0 && rdImg img (b + 24) 8 == 0) &&
    (let ss := sectsOf img
     ss.all (fun s => 1 ≤ s.kind && s.kind ≤ 9 && (s.kernel < kcount || s.kernel == 0xFFFF) && s.off % 8 == 0 && s.off + s.size ≤ n) &&
      !anyClash ss)

/-- A section of a kind by its index. -/
def sectOfKind (ss : List Sect) (i kind : Nat) : Option Sect :=
  match ss[i]? with
  | some s => if s.kind == kind then some s else none
  | none => none

/-- A section field that may be 0xFFFF. -/
def optSect (ss : List Sect) (i kind : Nat) : Bool := i == 0xFFFF || (sectOfKind ss i kind).isSome

/-- The kernel descriptor section of kernel `k` (R16). -/
def descOf (ss : List Sect) (k : Nat) : Option Sect :=
  match ss.filter fun s => s.kind == 1 && s.kernel == k with
  | [s] => if s.size == 64 then some s else none
  | _ => none

/-- One version record in form (R16): `r` is the record, `tags` those of the kernel's other records. -/
def recordOk (ss : List Sect) (r : Nat) (tags : List Nat) : Bool :=
  let gen := bitsOf r 39 32
  let entry := bitsOf r 223 192
  let code := sectOfKind ss (bitsOf r 143 128) 3
  entry % 4 == 0 && ((code.map fun c => decide (entry < c.size)).getD false) && (sectOfKind ss (bitsOf r 159 144) 4).isSome &&
    (Config.generation < gen ||
      (gen != 0 && bitsOf r 511 256 == 0 && bitsOf r 255 227 == 0 && bitsOf r 47 40 == (if gen == 1 then 16 else 32) &&
        1 ≤ bitsOf r 63 48 && bitsOf r 63 48 ≤ 128 && bitsOf r 31 0 != 0xFFFFFFFF && !tags.contains (bitsOf r 31 0) &&
        optSect ss (bitsOf r 191 176) 6 && optSect ss (bitsOf r 175 160) 5))

/-- The version records of a kernel, as numbers. -/
def recordsOf (img : List Byte) (d : Nat) : List Nat :=
  (List.range (bitsOf d 63 48)).map fun i => rdImg img (bitsOf d 319 256 + 64 * i) 64

/-- A kernel descriptor and its version records in form (R16). -/
def kernelOk (img : List Byte) (ss : List Sect) (d : Nat) : Bool :=
  let rs := recordsOf img d
  let strsize := rdImg img 40 4
  bitsOf d 511 320 == 0 && bitsOf d 255 224 == 0 && bitsOf d 223 211 == 0 && 1 ≤ bitsOf d 207 192 && bitsOf d 207 192 ≤ 128 &&
    bitsOf d 159 128 ≤ 524288 && optSect ss (bitsOf d 95 80) 4 && optSect ss (bitsOf d 79 64) 2 && bitsOf d 63 48 ≤ 15 &&
    bitsOf d 319 256 + 64 * bitsOf d 63 48 ≤ img.length && bitsOf d 31 0 + bitsOf d 47 32 ≤ strsize &&
    (List.range rs.length).all fun i => recordOk ss (rs[i]?.getD 0) ((rs.eraseIdx i).map fun r => bitsOf r 31 0)

/-! ## Safe-point maps -/

/-- A code word's number, 0 beyond the code. -/
def codeNat (ws : List Word) (k : Nat) : Nat := (ws[k]?.map BitVec.toNat).getD 0

/-- Modifier words that begin a unit, legal or not: at most two (R110). -/
def unitMods (ws : List Word) : Nat :=
  if modKind (codeNat ws 0) == .none then 0 else if modKind (codeNat ws 1) == .none then 1 else 2

/-- Opcode of the unit that words begin with. -/
def unitOp (ws : List Word) : Nat := bitsOf (codeNat ws (unitMods ws)) 31 24

/-- Words of the unit that words begin with, legal or not (R110, R114). -/
def unitWords (ws : List Word) : Nat :=
  unitMods ws + 1 + (if unitOp ws == 0x05 then bitsOf (codeNat ws (unitMods ws)) 18 17 + 1 else 0)

/-- Offsets of the units of code, `off` that of its first word, of which `skip` belong to the unit before. -/
def unitOffsets : List Word → Nat → Nat → List Nat
  | [], _, _ => []
  | w :: ws, off, skip =>
    match skip with
    | k + 1 => unitOffsets ws (off + 4) k
    | 0 => off :: unitOffsets ws (off + 4) (unitWords (w :: ws) - 1)

/-- Offsets of the stop sites of code (R98). -/
def stopOffsets (code : List Word) : List Nat := (unitOffsets code 0 0).filter fun o => bitOf (codeNat code (o / 4)) 0

/-- A live-value record (Table 02-9). -/
def liveOf (x : Nat) : Live := { value := bitsOf x 63 48, kind := bitsOf x 47 44, width := bitsOf x 43 40, loc := bitsOf x 31 0 }

/-- A recipe (Table 02-10). -/
def recipeOf (x : Nat) : Recipe :=
  { value := bitsOf x 15 0, how := bitsOf x 23 16, width := bitsOf x 31 24, base := bitsOf x 47 32, lsize := bitsOf x 55 48,
    opnd := bitsOf x 127 64 }

/-- An async record (Table 02-11). -/
def asyncOf (x : Nat) : AsyncRec :=
  { aid := bitsOf x 15 0, akind := bitsOf x 23 16, cls := bitsOf x 31 24, maxout := bitsOf x 39 32, aflags := bitsOf x 47 40,
    txb := bitsOf x 95 64, dest := bitsOf x 127 96, dsize := bitsOf x 159 128 }

/-- The records of a list in the pool. -/
def poolList (img : List Byte) (at_ size n : Nat) : List Nat := (List.range n).map fun i => rdImg img (at_ + size * i) size

/-- A map entry with its lists; `sec` is the section's offset and `e` its 32 bytes. -/
def mapEntryOf (img : List Byte) (pool e : Nat) : MapEntry :=
  { coff := bitsOf e 31 0, ord := bitsOf e 63 32, portable := bitOf e 112, anchor := bitOf e 113,
    live := (poolList img (pool + bitsOf e 159 128) 8 (bitsOf e 79 64)).map liveOf,
    recipes := (poolList img (pool + bitsOf e 191 160) 16 (bitsOf e 95 80)).map recipeOf,
    frags := (poolList img (pool + bitsOf e 223 192) 8 (bitsOf e 103 96)).map fun x => (bitsOf x 31 0, bitsOf x 47 32),
    asyncs := (poolList img (pool + bitsOf e 255 224) 24 (bitsOf e 111 104)).map asyncOf }

/-- Reserved fields and codes of an entry's records (Tables 02-8 to 02-11). -/
def entryForm (img : List Byte) (pool poolsz e : Nat) : Bool :=
  let fits (o size n : Nat) : Bool := o + size * n ≤ poolsz
  let anchor := bitOf e 113
  bitsOf e 127 114 == 0 && bitsOf e 103 96 ≤ 8 && (!anchor || (bitsOf e 79 64 == 0 && bitsOf e 95 80 == 0 && bitsOf e 103 96 == 0 &&
      bitsOf e 111 104 == 0)) &&
    fits (bitsOf e 159 128) 8 (bitsOf e 79 64) && fits (bitsOf e 191 160) 16 (bitsOf e 95 80) &&
    fits (bitsOf e 223 192) 8 (bitsOf e 103 96) && fits (bitsOf e 255 224) 24 (bitsOf e 111 104) &&
    ((poolList img (pool + bitsOf e 159 128) 8 (bitsOf e 79 64)).all fun x =>
      bitsOf x 47 44 ≤ 4 && bitsOf x 43 40 ≤ 2 && (bitsOf x 43 40 != 2 || bitsOf x 47 44 == 3) && bitsOf x 39 32 == 0) &&
    ((poolList img (pool + bitsOf e 191 160) 16 (bitsOf e 95 80)).all fun x =>
      let how := bitsOf x 23 16
      how ≤ 2 && bitsOf x 31 24 ≤ 1 && bitsOf x 63 56 == 0 &&
        (if how == 2 then bitsOf x 55 48 == 4 || bitsOf x 55 48 == 8 else bitsOf x 55 48 == 0)) &&
    ((poolList img (pool + bitsOf e 223 192) 8 (bitsOf e 103 96)).all fun x => bitsOf x 63 48 == 0) &&
    ((poolList img (pool + bitsOf e 255 224) 24 (bitsOf e 111 104)).all fun x =>
      bitsOf x 191 160 == 0 && bitsOf x 63 48 == 0 && bitsOf x 47 42 == 0 && 1 ≤ bitsOf x 39 32 && bitsOf x 39 32 ≤ 128 &&
        bitsOf x 31 24 ≤ 3 && 1 ≤ bitsOf x 23 16 && bitsOf x 23 16 ≤ 6)

/-- Whether recipes name only values made before them (R25). -/
def basesMade : List Nat → List Recipe → Bool
  | _, [] => true
  | made, r :: rs => (r.how == 0 || made.contains r.base) && basesMade (r.value :: made) rs

/-- Whether a list holds no value twice. -/
def noRepeat : List Nat → Bool
  | [] => true
  | x :: xs => !xs.contains x && noRepeat xs

/-- A parsed map: HORIZON and entries. -/
structure MapOf where
  horizon : Nat
  entries : List MapEntry
  deriving DecidableEq, Repr

/-- The entries' 32 bytes. -/
def mapRaw (img : List Byte) (s : Sect) : List Nat :=
  (List.range (rdImg img (s.off + 4) 4)).map fun i => rdImg img (s.off + rdImg img (s.off + 12) 4 + 32 * i) 32

/-- The pool's place in the image. -/
def mapPool (img : List Byte) (s : Sect) : Nat := s.off + rdImg img (s.off + 16) 4

/-- The map of a section. -/
def mapOf (img : List Byte) (s : Sect) : MapOf :=
  { horizon := rdImg img (s.off + 8) 2, entries := (mapRaw img s).map (mapEntryOf img (mapPool img s)) }

/-- Whether offsets never fall. -/
def rising : List Nat → Bool
  | x :: y :: r => x ≤ y && rising (y :: r)
  | _ => true

/-- The checks of a map against the code it describes (R23 to R27): a reason, or none. -/
def mapReason (img : List Byte) (s : Sect) (code : List Word) (ords : Nat) : Option Nat :=
  let h := rdImg img s.off 32
  let raw := mapRaw img s
  let m := mapOf img s
  let poolsz := bitsOf h 191 160
  let stops := m.entries.filter fun e => !e.anchor
  let form : Bool := 32 ≤ s.size && bitsOf h 31 0 == 0x4D53584B && bitsOf h 95 80 == 0 && bitsOf h 255 192 == 0 && m.horizon != 0 &&
    bitsOf h 127 96 + 32 * bitsOf h 63 32 ≤ s.size && bitsOf h 159 128 + poolsz ≤ s.size && rising (m.entries.map MapEntry.coff) &&
    raw.all (entryForm img (mapPool img s) poolsz) &&
    (m.entries.all fun e => e.coff % 4 == 0 && e.coff < 4 * code.length && e.ord < ords &&
      (e.anchor || ((code[e.coff / 4]?).map fun w => w.getLsbD 0).getD false) &&
      noRepeat (e.live.map Live.value ++ e.recipes.map Recipe.value) && basesMade (e.live.map Live.value) e.recipes)
  if !form then some 0x08
  else if !(noRepeat (stops.map MapEntry.coff) && noRepeat (stops.map MapEntry.ord)) then some 0x07
  else if (stopOffsets code).all fun o => stops.any fun e => e.coff == o then none
  else some 0x06

/-! ## Pinamet -/

/-- Whether code has a unit that Pinamet forbids (Table 02-6): a per-lane `brc`, `brm`, `jset`, `join`, `jmpi`, and the
forms of `call` and `ret` with a vector link (log 11). -/
def pinametBad (code : List Word) : Bool :=
  (unitOffsets code 0 0).any fun o => [0x03, 0x05, 0x06, 0x07, 0x08, 0x0A, 0x0C].contains (unitOp (code.drop (o / 4)))

/-! ## Relocations -/

/-- A relocation or patch-site record (Table 02-12). -/
structure Reloc where
  addend : Nat
  base : Nat
  shift : Nat
  rkind : Nat
  sec : Nat
  off : Nat
  deriving DecidableEq, Repr

/-- The records of every relocation and patch-site section, as numbers. -/
def relocsRaw (img : List Byte) (ss : List Sect) : List Nat :=
  (ss.filter fun s => s.kind == 5 || s.kind == 6).flatMap fun s => (List.range (s.size / 16)).map fun i => rdImg img (s.off + 16 * i) 16

/-- The records of every patch-site section, as numbers (R31). -/
def patchesRaw (img : List Byte) (ss : List Sect) : List Nat := relocsRaw img (ss.filter fun s => s.kind == 6)

/-- A record from its bits. -/
def relocOf (x : Nat) : Reloc :=
  { addend := bitsOf x 127 96, base := bitsOf x 79 64, shift := bitsOf x 63 56, rkind := bitsOf x 55 48, sec := bitsOf x 47 32,
    off := bitsOf x 31 0 }

/-- A record's site lies in its section and has the form its kind needs (R30); an I-format word is one by its opcode. -/
def relocOk (img : List Byte) (ss : List Sect) (x : Nat) : Bool :=
  let r := relocOf x
  match ss[r.sec]?, ss[r.base]? with
  | some s, some _ =>
    let w := rdImg img (s.off + r.off) 4
    bitsOf x 95 80 == 0 && r.shift ≤ 63 && 1 ≤ r.rkind && r.rkind ≤ 4 && r.off % 4 == 0 && r.off + (if r.rkind == 1 then 8 else 4) ≤ s.size &&
      (match r.rkind with
      | 2 => (match readUnit [BitVec.ofNat 32 w] with
        | .ok (i, _) => (match i.parts.map Parts.f with
          | some (.i _) => true
          | _ => false)
        | .error _ => false)
      | 3 => w / 2 ^ 25 == 0x79
      | _ => true)
  | _, _ => false

/-- The value a record places (R30), for an image loaded at an address. -/
def relocVal (ss : List Sect) (load : Nat) (r : Reloc) : Nat :=
  ((((load + ((ss[r.base]?).map Sect.off).getD 0 : Nat) : Int) + toSigned 32 r.addend) % (2 ^ 64 : Nat)).toNat

/-- The bytes that a record places over the word or words at its site. -/
def Reloc.bytes (r : Reloc) (val w : Nat) : List Byte :=
  match r.rkind with
  | 1 => bytesOf 8 val
  | 2 => bytesOf 4 (w / 2 ^ 17 * 2 ^ 17 + val / 2 ^ r.shift % 2 ^ 16 * 2 + w % 2)
  | 3 => bytesOf 4 (w / 2 ^ 25 * 2 ^ 25 + val / 2 ^ r.shift % 2 ^ 24 * 2 + w % 2)
  | _ => bytesOf 4 val

/-- Where in an image a record's site lies. -/
def Reloc.site (ss : List Sect) (r : Reloc) : Nat := ((ss[r.sec]?).map Sect.off).getD 0 + r.off

/-- An image with records applied to it, whatever section their sites lie in (R30). -/
def relocate (ss : List Sect) (load : Nat) (rs : List Reloc) (img : List Byte) : List Byte :=
  rs.foldl (fun (b : List Byte) r =>
    let o := r.site ss
    let new := r.bytes (relocVal ss load r) (rdImg b o 4)
    b.take o ++ new ++ b.drop (o + new.length)) img

/-- An image as LOAD relocates it for an address: records in form are applied. -/
def relocImage (img : List Byte) (ss : List Sect) (load : Nat) : List Byte :=
  relocate ss load (((relocsRaw img ss).filter (relocOk img ss)).map relocOf) img

/-! ## Kernels -/

/-- Stage-table records of a kernel's version (R119, Table 07-12): (ENTRY, COFF). -/
def stagesOf (img : List Byte) (ss : List Sect) (k vtag : Nat) : List (Nat × Nat) :=
  (ss.filter fun s => s.kind == 9 && (s.kernel == k || s.kernel == 0xFFFF)).flatMap fun s =>
    (List.range (s.size / 16)).filterMap fun i =>
      let b := s.off + 16 * i
      if rdImg img b 4 == vtag then some (rdImg img (b + 4) 2, rdImg img (b + 8) 4) else none

/-- A version from its record, in a relocated image. -/
def versionOf (img : List Byte) (ss : List Sect) (k r : Nat) : Version :=
  let csec := bitsOf r 143 128
  let s := (ss[csec]?).getD { kind := 3, kernel := k, off := 0, size := 0 }
  let newer := Config.generation < bitsOf r 39 32
  let none_ : MapOf := { horizon := 1, entries := [] }
  let m : MapOf := if newer then none_ else ((sectOfKind ss (bitsOf r 159 144) 4).map (mapOf img)).getD none_
  { vtag := bitsOf r 31 0, gen := bitsOf r 39 32, width := bitsOf r 47 40, vregs := bitsOf r 63 48, featreq := bitsOf r 127 64,
    vflags := bitsOf r 255 224, entry := bitsOf r 223 192, secOff := s.off, code := imgWords img s.off (s.size / 4),
    horizon := m.horizon, map := m.entries, stages := stagesOf img ss k (bitsOf r 31 0) }

/-- The translated Pinamet form of a kernel, if it has one (R21, R22, log 11). -/
def pinametOf (img : List Byte) (ss : List Sect) (k d : Nat) : Option Version :=
  match sectOfKind ss (bitsOf d 79 64) 2 with
  | none => none
  | some s =>
    let m : MapOf := ((sectOfKind ss (bitsOf d 95 80) 4).map (mapOf img)).getD { horizon := 1, entries := [] }
    some { vtag := 0xFFFFFFFF, gen := 2, width := 32, vregs := bitsOf d 207 192, featreq := 0, vflags := 0, entry := 0, secOff := s.off,
           code := imgWords img s.off (s.size / 4), horizon := m.horizon,
           map := m.entries, stages := stagesOf img ss k 0xFFFFFFFF }

/-- A kernel from its descriptor. -/
def kernelOf (img : List Byte) (ss : List Sect) (k d : Nat) : Kernel :=
  { kflags := bitsOf d 223 208, pregs := bitsOf d 207 192, priv := bitsOf d 191 160, spad := bitsOf d 159 128, ords := bitsOf d 127 96,
    versions := (recordsOf img d).map (fun r => versionOf img ss k r) ++ (pinametOf img ss k d).toList }

/-- The maps and Pinamet of a kernel: a reason, or none. -/
def kernelReason (img : List Byte) (ss : List Sect) (d : Nat) : Option Nat :=
  let words (s : Sect) : List Word := imgWords img s.off (s.size / 4)
  let ords := bitsOf d 127 96
  let native := (recordsOf img d).findSome? fun r =>
    if Config.generation < bitsOf r 39 32 then none
    else
      match sectOfKind ss (bitsOf r 143 128) 3, sectOfKind ss (bitsOf r 159 144) 4 with
      | some c, some m => mapReason img m (words c) ords
      | _, _ => some 0x01
  match native with
  | some x => some x
  | none =>
    match sectOfKind ss (bitsOf d 79 64) 2 with
    | none => none
    | some p =>
      if pinametBad (words p) then some 0x05
      else
        match sectOfKind ss (bitsOf d 95 80) 4 with
        | some m => mapReason img m (words p) ords
        | none => if (stopOffsets (words p)).isEmpty then none else some 0x06

/-- Whether R21 finds a version for a launch that is not a debug launch, or there is a Pinamet form (R32). -/
def Kernel.runnable (k : Kernel) : Bool :=
  k.versions.any fun v => v.isPinamet || (v.fitsDevice && !bitOf v.vflags 1 && !bitOf v.vflags 0)

/-- Whether some Pinamet section, named by a kernel or not, has a unit that Pinamet forbids (R22). -/
def anyPinametBad (img : List Byte) (ss : List Sect) : Bool :=
  ss.any fun s => s.kind == 2 && pinametBad (imgWords img s.off (s.size / 4))

/-- Parses an image of `n` bytes loaded at an address: its kernels, or a reason of Table 02-13. Tables and code are read from the
relocated image (R30). -/
def parseImage (img : List Byte) (n load : Nat) : Except Nat (List Kernel) :=
  if !headerOk img n then .error 0x01
  else
    let ss := sectsOf img
    let b := relocImage img ss load
    let ks := (List.range (rdImg img 16 4)).map fun k => (descOf ss k).map fun s => rdImg b s.off 64
    if ks.any fun d => match d with | some x => !kernelOk b ss x | none => true then .error 0x01
    else
      let ds := ks.filterMap id
      match ds.findSome? (kernelReason b ss) with
      | some r => .error r
      | none =>
        if anyPinametBad b ss then .error 0x05
        else if !(relocsRaw img ss).all (relocOk img ss) then .error 0x09
        else
          let kernels := (ds.zip (List.range ds.length)).map fun p => kernelOf b ss p.2 p.1
          if kernels.all Kernel.runnable then .ok kernels else .error 0x04

/-! ## Residency -/

/-- Bytes that the loader writes where a context can read them; a byte that does not translate is not written. -/
def State.patchVirt (s : State) (c va : Nat) : List Byte → State
  | [] => s
  | b :: bs =>
    let s1 := match s.xlate c va 0 with
      | .ok t => s.putTgt 384 t [b]
      | .error _ => s
    s1.patchVirt c (va + 1) bs

/-- Sites of records in data sections are written into the image where the context holds it (R30, R31, log 10). -/
def State.relocData (s : State) (c : Nat) (img : List Byte) (load : Nat) (raw : List Nat) : State :=
  let ss := sectsOf img
  let rs := raw.map relocOf
  let b := relocate ss load rs img
  rs.foldl (fun (s : State) r =>
    match ss[r.sec]? with
    | some t =>
      if t.kind == 7 || t.kind == 8 then
        s.patchVirt c (load + r.site ss) ((b.drop (r.site ss)).take (if r.rkind == 1 then 8 else 4))
      else s
    | none => s) s

/-- Whether some group executes a version of an object, or will once its fragments have moved (R31). -/
def State.executes (s : State) (o k v : Nat) : Bool :=
  s.groups.any fun g => g.obj == o && g.kidx == k && g.phase != .gone && (g.ver == v || g.pending == some v)

/-- Kernels of a resident object whose patch sites are applied again for an address: its relocations stay as they were, and a version
that a group executes is left alone (R31). -/
def State.repatch (s : State) (o : Obj) (load : Nat) : List Kernel :=
  let ss := sectsOf o.image
  let records (kind : Nat) : List Reloc :=
    ((relocsRaw o.image (ss.filter fun t => t.kind == kind)).filter (relocOk o.image ss)).map relocOf
  let img := relocate ss load (records 6) (relocate ss o.load (records 5) o.image)
  let patch (k : Nat) (v : Version × Nat) : Version :=
    if s.executes o.id k v.2 then v.1 else { v.1 with code := imgWords img v.1.secOff v.1.code.length }
  o.kernels.zipIdx.map fun k => { k.1 with versions := k.1.versions.zipIdx.map (patch k.2) }

/-- A parsed image becomes resident in a context, shared by content hash where it may be (R17, R18): its tag, or a reason.
`load` is where the context holds the image; `moved`, that a migration brings it (R291): then its code needs no translation (log 27),
and patch sites are applied again even where the object is resident already (R31). A second context that loads it elsewhere shares the
code as first relocated, and its own image keeps its sites as they are (log 64). Groups that still run it keep where they fetch (R18). -/
def State.residentIn (s : State) (c : Nat) (img : List Byte) (ks : List Kernel) (load : Nat) (moved : Bool) : Except Nat (Nat × State) :=
  let hash := sha512 img
  let tag := ofBytes (hash.take 8)
  let conf := (s.ctx c).conf
  let mayShare (o : Obj) : Bool := if conf then o.owner == some c else o.owner.isNone
  let base := if moved then [] else [(c, load)]
  match s.objs.find? fun o => o.hash == hash && mayShare o with
  | some o =>
    let held := o.refs.contains c || s.groups.any fun g => g.ctx == c && g.obj == o.id && g.phase != .gone
    let o1 : Obj := { o with refs := if o.draining then [c] else c :: o.refs, draining := false,
                             bases := if held then o.bases else base ++ o.bases.filter fun b => b.1 != c,
                             kernels := if moved then s.repatch o load else o.kernels }
    let s1 := if moved then s.relocData c img load (patchesRaw img (sectsOf img)) else s
    .ok (tag, { s1 with objs := s1.objs.map fun p => if p.id == o.id then o1 else p })
  | none =>
    if (s.objByTag c tag).isSome then .error 0x02
    else
      let o : Obj := { id := s.nextId, tag := BitVec.ofNat 64 tag, hash := hash, image := img, refs := [c], bases := base, load := load,
                       owner := if conf then some c else none, draining := false, kernels := ks }
      let s1 := s.relocData c img load (relocsRaw img (sectsOf img))
      .ok (tag, { s1 with objs := s1.objs ++ [o], nextId := s1.nextId + 1 })

/-- An image that LOAD read at an address becomes resident (R32). -/
def State.makeResident (s : State) (c : Nat) (img : List Byte) (load : Nat) : Except Nat (Nat × State) :=
  match parseImage img img.length load with
  | .error r => .error r
  | .ok ks => s.residentIn c img ks load false

/-- An image that a migration brings becomes resident as LOAD would make it (R31, R291). -/
def State.adopt (s : State) (c : Nat) (img : List Byte) : Except Nat (Nat × State) :=
  let load := Config.movedBase (ofBytes ((sha512 img).take 8))
  match parseImage img img.length load with
  | .error r => .error r
  | .ok ks => s.residentIn c img ks load true

end Sys2Proof.Machine
end

