-- ==== Sys2Proof/Machine/Float.lean ====
section
/-! DEFINITION. Floating-point formats and exact arithmetic with one rounding (R145 to R147, R153, R154, R161 to R170):
a finite value is mant * 2^exp, computed exactly and rounded once. -/
namespace Sys2Proof.Machine

/-- A binary format: exponent and fraction bits (Table 09-1). -/
structure FFmt where
  eb : Nat
  fb : Nat
  deriving DecidableEq, Repr

/-- FP32, FP16 and BF16. -/
def fp32 : FFmt := ⟨8, 23⟩
def fp16 : FFmt := ⟨5, 10⟩
def bf16 : FFmt := ⟨8, 7⟩

/-- Width in bits. -/
def FFmt.width (f : FFmt) : Nat := 1 + f.eb + f.fb

/-- Exponent bias. -/
def FFmt.bias (f : FFmt) : Int := (2 ^ (f.eb - 1) : Nat) - 1

/-- Exponent of the last place of a subnormal. -/
def FFmt.emin (f : FFmt) : Int := 1 - f.bias - f.fb

/-- Pattern of +infinity. -/
def FFmt.inf (f : FFmt) : Nat := (2 ^ f.eb - 1) * 2 ^ f.fb

/-- The canonical NaN (R147). -/
def FFmt.nan (f : FFmt) : Nat := f.inf + 2 ^ (f.fb - 1)

/-- A sign bit in place. -/
def FFmt.sgn (f : FFmt) (neg : Bool) : Nat := if neg then 2 ^ (f.eb + f.fb) else 0

/-- A value: NaN, an infinity, or (-1)^neg * m * 2^e exactly. -/
inductive Num where
  | nan
  | inf (neg : Bool)
  | fin (neg : Bool) (m : Nat) (e : Int)
  deriving DecidableEq, Repr

/-- The value of a pattern (R145). -/
def FFmt.unpack (f : FFmt) (x : Nat) : Num :=
  let neg := bitOf x (f.eb + f.fb)
  let e := bitsOf x (f.eb + f.fb - 1) f.fb
  let m := x % 2 ^ f.fb
  if e == 2 ^ f.eb - 1 then (if m == 0 then .inf neg else .nan)
  else if e == 0 then .fin neg m f.emin
  else .fin neg (2 ^ f.fb + m) (f.emin + e - 1)

/-- Whether rounding goes away from zero: mode, sign, whether the kept part is odd, and the discarded part against half:
0 exact, 1 below, 2 half, 3 above (R146). -/
def roundAway (rnd : Nat) (neg odd : Bool) (part : Nat) : Bool :=
  match rnd with
  | 1 => false
  | 2 => neg && part != 0
  | 3 => !neg && part != 0
  | _ => part == 3 || (part == 2 && odd)

/-- The discarded part of `m` below 2^n against half. -/
def partOf (m n : Nat) : Nat :=
  let r := m % 2 ^ n
  if r == 0 then 0 else if 2 * r < 2 ^ n then 1 else if 2 * r == 2 ^ n then 2 else 3

/-- The result of an overflow (R146). -/
def FFmt.overflow (f : FFmt) (rnd : Nat) (neg : Bool) : Nat :=
  let up := match rnd with
    | 1 => false
    | 2 => neg
    | 3 => !neg
    | _ => true
  f.sgn neg + (if up then f.inf else f.inf - 1)

/-- The pattern of (-1)^neg * m * 2^e, rounded once (R146). -/
def FFmt.round (f : FFmt) (rnd : Nat) (neg : Bool) (m : Nat) (e : Int) : Nat :=
  if m == 0 then f.sgn neg
  else
    let q := max (e + (m.log2 : Int) - f.fb) f.emin
    let sig :=
      if q ≤ e then m * 2 ^ (e - q).toNat
      else
        let n := (q - e).toNat
        m / 2 ^ n + (if roundAway rnd neg ((m / 2 ^ n) % 2 == 1) (partOf m n) then 1 else 0)
    let bits := (q - f.emin).toNat * 2 ^ f.fb + sig
    if f.inf ≤ bits then f.overflow rnd neg else f.sgn neg + bits

/-- The pattern of a value, rounded once; NaN is canonical (R146, R147). -/
def FFmt.pack (f : FFmt) (rnd : Nat) : Num → Nat
  | .nan => f.nan
  | .inf neg => f.sgn neg + f.inf
  | .fin neg m e => f.round rnd neg m e

/-- The opposite value. -/
def Num.neg : Num → Num
  | .nan => .nan
  | .inf s => .inf (!s)
  | .fin s m e => .fin (!s) m e

/-- The exact product (R161). -/
def Num.mul : Num → Num → Num
  | .nan, _ => .nan
  | _, .nan => .nan
  | .inf s, .inf t => .inf (s != t)
  | .inf s, .fin t m _ => if m == 0 then .nan else .inf (s != t)
  | .fin s m _, .inf t => if m == 0 then .nan else .inf (s != t)
  | .fin s m e, .fin t n k => .fin (s != t) (m * n) (e + k)

/-- A finite value as an integer multiple of 2^k, for k at or below its exponent. -/
def scaled (s : Bool) (m : Nat) (e k : Int) : Int :=
  let v : Int := (m * 2 ^ (e - k).toNat : Nat)
  if s then -v else v

/-- The exact sum, with the sign of a zero by R161 in mode `rnd`. -/
def Num.add (rnd : Nat) : Num → Num → Num
  | .nan, _ => .nan
  | _, .nan => .nan
  | .inf s, .inf t => if s == t then .inf s else .nan
  | .inf s, .fin _ _ _ => .inf s
  | .fin _ _ _, .inf t => .inf t
  | .fin s m e, .fin t n k =>
    let q := min e k
    let x := scaled s m e q + scaled t n k q
    if x == 0 then .fin (if m == 0 && n == 0 && s == t then s else rnd == 2) 0 q
    else .fin (decide (x < 0)) x.natAbs q

/-- b + c, b - c, b * c and b * c + e of patterns, rounded once (R161). -/
def FFmt.fadd (f : FFmt) (rnd b c : Nat) : Nat := f.pack rnd ((f.unpack b).add rnd (f.unpack c))
def FFmt.fsub (f : FFmt) (rnd b c : Nat) : Nat := f.pack rnd ((f.unpack b).add rnd (f.unpack c).neg)
def FFmt.fmul (f : FFmt) (rnd b c : Nat) : Nat := f.pack rnd ((f.unpack b).mul (f.unpack c))
def FFmt.ffma (f : FFmt) (rnd b c e : Nat) : Nat := f.pack rnd (((f.unpack b).mul (f.unpack c)).add rnd (f.unpack e))

/-- Whether a pattern is a NaN. -/
def FFmt.isNan (f : FFmt) (x : Nat) : Bool := f.inf < x % 2 ^ (f.eb + f.fb)

/-- The position of a pattern that is no NaN in the order of values; both zeros give 0. -/
def FFmt.key (f : FFmt) (x : Nat) : Int :=
  let m : Int := (x % 2 ^ (f.eb + f.fb) : Nat)
  if bitOf x (f.eb + f.fb) then -m else m

/-- `fmin` and `fmax` (R163). -/
def FFmt.minmax (f : FFmt) (big : Bool) (b c : Nat) : Nat :=
  if f.isNan b && f.isNan c then f.nan
  else if f.isNan b then c
  else if f.isNan c then b
  else if f.key b == 0 && f.key c == 0 && b != c then (if big then 0 else f.sgn true)
  else if (f.key b < f.key c) != big then b else c

/-- A condition of Table 10-3. -/
def FFmt.cond (f : FFmt) (c x y : Nat) : Bool :=
  let un := f.isNan x || f.isNan y
  let a := f.key x
  let b := f.key y
  match c with
  | 0 => !un && a == b
  | 1 => un || a != b
  | 2 => !un && decide (a < b)
  | 3 => !un && decide (a ≤ b)
  | 4 => !un && decide (b < a)
  | 5 => !un && decide (b ≤ a)
  | 6 => !un
  | _ => un

/-- The class word of a pattern (Table 10-4). -/
def FFmt.cls (f : FFmt) (x : Nat) : Nat :=
  let neg := bitOf x (f.eb + f.fb)
  let e := bitsOf x (f.eb + f.fb - 1) f.fb
  let m := x % 2 ^ f.fb
  2 ^ (if e == 2 ^ f.eb - 1 then (if m == 0 then (if neg then 0 else 7) else if bitOf m (f.fb - 1) then 9 else 8)
    else if e == 0 then (if m == 0 then (if neg then 3 else 4) else if neg then 2 else 5)
    else if neg then 1 else 6)

/-- A value rounded to an integer in a mode; an infinity or NaN gives none. -/
def Num.toInt (rnd : Nat) : Num → Option Int
  | .fin s m e =>
    let v : Nat :=
      if 0 ≤ e then m * 2 ^ e.toNat
      else
        let n := (-e).toNat
        m / 2 ^ n + (if roundAway rnd s ((m / 2 ^ n) % 2 == 1) (partOf m n) then 1 else 0)
    some (if s then -(v : Int) else v)
  | _ => none

/-- Clamps to a range. -/
def clampInt (x lo hi : Int) : Int := max lo (min hi x)

/-- Least and greatest value of an integer type. -/
def intMin (signed : Bool) (w : Nat) : Int := if signed then -((2 ^ (w - 1) : Nat) : Int) else 0
def intMax (signed : Bool) (w : Nat) : Int := if signed then (2 ^ (w - 1) : Nat) - 1 else (2 ^ w : Nat) - 1

/-- Float to integer: saturates, NaN gives 0 (R153, R170). -/
def Num.toSat (rnd : Nat) (signed : Bool) (w : Nat) (v : Num) : Int :=
  match v with
  | .nan => 0
  | .inf neg => if neg then intMin signed w else intMax signed w
  | .fin .. => clampInt ((v.toInt rnd).getD 0) (intMin signed w) (intMax signed w)

/-- An integer as an exact value. -/
def Num.ofInt (x : Int) : Num := .fin (decide (x < 0)) x.natAbs 0

/-! ## Square root -/

/-- floor (sqrt n), by bits from `k` down; `r` is the root so far. -/
def isqrtFrom (n r : Nat) : Nat → Nat
  | 0 => r
  | k + 1 => if (r + 2 ^ k) * (r + 2 ^ k) ≤ n then isqrtFrom n (r + 2 ^ k) k else isqrtFrom n r k

/-- floor (sqrt n). -/
def isqrt (n : Nat) : Nat := isqrtFrom n 0 (n.log2 / 2 + 1)

/-- `fsqrt` (R166): the root of m * 2^e to 64 further bits, with a sticky bit, rounded once. -/
def fsqrt (rnd x : Nat) : Nat :=
  match fp32.unpack x with
  | .nan => fp32.nan
  | .inf neg => if neg then fp32.nan else fp32.inf
  | .fin neg m e =>
    if m == 0 then x
    else if neg then fp32.nan
    else
      let n := if e % 2 == 0 then m * 2 ^ 128 else m * 2 ^ 129
      let k := if e % 2 == 0 then e - 128 else e - 129
      let r := isqrt n
      fp32.round rnd false (2 * r + (if r * r == n then 0 else 1)) (k / 2 - 1)

/-! ## Special functions (R167, log 12) -/

/-- Binary places of the approximations of the special functions. -/
def spBits : Nat := 400

/-- pi * 2^520. -/
def piBits : Nat :=
  0x3243F6A8885A308D313198A2E03707344A4093822299F31D0082EFA98EC4E6C89452821E638D01377BE5466CF34E90C6CC0AC29B7C97C50DD3F84D5B5B547091792

/-- ln 2 * 2^256. -/
def ln2Bits : Nat := 0xB17217F7D1CF79ABC9E3B39803F2F6AF40F343267298B62D8A0D175B8BAAFA2B

/-- Terms of a power series: sum of t * z^j * (sign) / ... with fixed point `p`; `k` is the next divisor, `d` its step. -/
def series (p z : Nat) (alt : Bool) (step : Nat) : Nat → Nat → Nat → Int → Int
  | 0, _, _, acc => acc
  | n + 1, k, t, acc =>
    let t' := if step == 1 then t * z / 2 ^ p / k else t * z / 2 ^ p * z / 2 ^ p / (k * (k + 1))
    let neg := alt && n % 2 == 1
    series p z alt step n (k + step) t' (if neg then acc - t' else acc + t')

/-- 2^f for 0 <= f < 2^p / 2^p, as a multiple of 2^-256. -/
def exp2Frac (f : Nat) : Nat := (series 256 (f * ln2Bits / 2 ^ 256) false 1 80 1 (2 ^ 256) (2 ^ 256)).toNat

/-- Binary digits of log2 y for y = v / 2^256 in [1, 2). -/
def log2Digits : Nat → Nat → Nat → Nat
  | 0, _, acc => acc
  | n + 1, v, acc =>
    let w := v * v / 2 ^ 256
    if 2 ^ 257 ≤ w then log2Digits n (w / 2) (2 * acc + 1) else log2Digits n w (2 * acc)

/-- sin of r for 0 <= r < 2, as a multiple of 2^-400; an even number of terms alternates down to a final plus. -/
def sinSmall (r : Nat) : Int := series 400 r true 2 60 2 r r

/-- cos of r likewise. -/
def cosSmall (r : Nat) : Int := series 400 r true 2 60 1 (2 ^ 400) (2 ^ 400)

/-- sin (cos when `c`) of the absolute value a / 2^400: reduced by pi / 2. -/
def trigOf (c : Bool) (a : Nat) : Int :=
  let half := piBits / 2
  let x := a * 2 ^ 120
  let q := x / half + (if c then 1 else 0)
  let r := (x % half) / 2 ^ 120
  let v := if q % 2 == 0 then sinSmall r else cosSmall r
  if q % 4 < 2 then v else -v

/-- A finite value as a multiple of 2^-400, truncated. -/
def fixed400 (m : Nat) (e : Int) : Nat :=
  if -400 ≤ e then m * 2 ^ (e + 400).toNat else m / 2 ^ (-400 - e).toNat

/-- The exact value of a special function at (-1)^s * m * 2^e, as a multiple of 2^-400 with an error far below 2 ulp:
operation 0 frcp, 1 frsq, 2 fexp2, 3 flog2, 4 fsin, 5 fcos. -/
def specialApprox (op : Nat) (s : Bool) (m : Nat) (e : Int) : Int :=
  match op with
  | 0 =>
    let v : Nat := 2 ^ (400 - e).toNat / m
    if s then -(v : Int) else v
  | 1 => (isqrt (2 ^ (800 - e).toNat / m) : Nat)
  | 2 =>
    let x : Int := if s then -(fixed400 m e : Int) else fixed400 m e
    let n := x / (2 ^ 400 : Nat)
    let f := (x % (2 ^ 400 : Nat)).toNat / 2 ^ 144
    if n < -390 then 0
    else if 200 < n then (2 ^ 600 : Nat)
    else (exp2Frac f * 2 ^ (n + 144 + 400).toNat / 2 ^ 400 : Nat)
  | 3 =>
    let n : Int := e + m.log2
    let v := m * 2 ^ 256 / 2 ^ m.log2
    n * (2 ^ 400 : Nat) + (log2Digits 120 v 0 * 2 ^ 280 : Nat)
  | 4 =>
    let v := trigOf false (fixed400 m e)
    if s then -v else v
  | _ => trigOf true (fixed400 m e)

/-- Whether a pattern lies within 2 ulp of a multiple `a` of 2^-400, for certain (R167); an overflow counts as 2^128. -/
def within2ulp (x : Nat) (a : Int) (unit : Bool) : Bool :=
  let near (s : Bool) (m : Nat) (e : Int) : Bool :=
    let ulp := max ((a.natAbs.log2 : Int) - 400 - 23) (-149)
    let d := scaled s m e (-400) - a
    decide (d.natAbs + 2 ^ (ulp + 370).toNat ≤ 2 ^ (ulp + 401).toNat) && (!unit || decide (m * 2 ^ (e + 149).toNat ≤ 2 ^ 149))
  match fp32.unpack x with
  | .fin s m e => near s m e
  | .inf s => near s (2 ^ 24) 104
  | .nan => false

/-- A value before its final rounding step, a multiple of 2^-400, rounded in a mode; a zero has the sign of the exact value `a`. -/
def finalRound (rnd : Nat) (v a : Int) : Nat := fp32.round rnd (decide (if v == 0 then a < 0 else v < 0)) v.natAbs (-400)

/-- A power of two's exponent. -/
def pow2? (m : Nat) (e : Int) : Option Int := if m != 0 && 2 ^ m.log2 == m then some (e + m.log2) else none

/-- The results of Table 10-5 that are exact; none where the bound of 2 ulp applies. -/
def specialExact (op rnd x : Nat) : Option Nat :=
  match op, fp32.unpack x with
  | _, .nan => some fp32.nan
  | 0, .inf s => some (fp32.sgn s)
  | 1, .inf s => some (if s then fp32.nan else 0)
  | 2, .inf s => some (if s then 0 else fp32.inf)
  | 3, .inf s => some (if s then fp32.nan else fp32.inf)
  | _, .inf _ => some fp32.nan
  | 0, .fin s m e =>
    if m == 0 then some (fp32.sgn s + fp32.inf)
    else match pow2? m e with
      | some n => some (fp32.round rnd s 1 (-n))
      | none => none
  | 1, .fin s m e =>
    if m == 0 then some (fp32.sgn s + fp32.inf)
    else if s then some fp32.nan
    else match pow2? m e with
      | some n => if n % 2 == 0 then some (fp32.round rnd false 1 (-(n / 2))) else none
      | none => none
  | 2, .fin s m e =>
    if m == 0 then some (fp32.round rnd false 1 0)
    else if !s && decide ((7 : Int) ≤ e + m.log2) then some (fp32.overflow rnd false)
    else if s && decide (150 * 2 ^ 149 < m * 2 ^ (e + 149).toNat) then (if rnd == 3 then none else some 0)
    else if 0 ≤ e || m % 2 ^ (-e).toNat == 0 then
      (let n : Nat := if 0 ≤ e then m * 2 ^ e.toNat else m / 2 ^ (-e).toNat
       if s && 149 < n then none else some (fp32.round rnd false 1 (if s then -(n : Int) else n)))
    else none
  | 3, .fin s m e =>
    if m == 0 then some (fp32.sgn true + fp32.inf)
    else if s then some fp32.nan
    else match pow2? m e with
      | some n => some (fp32.pack rnd (Num.ofInt n))
      | none => none
  | 4, .fin _ m _ => if m == 0 then some x else none
  | _, .fin _ m _ => if m == 0 then some (fp32.round rnd false 1 0) else none

/-- The result of a special function (R167): Table 10-5 where it is exact, else the device's own value, of which RND chooses the final
rounding alone, where that keeps the bound of 2 ulp in every rounding mode, else the exact value, rounded. -/
def specialFn (op rnd : Nat) (x : Word) : Word :=
  match specialExact op rnd x.toNat with
  | some y => BitVec.ofNat 32 y
  | none =>
    match fp32.unpack x.toNat with
    | .fin s m e =>
      let a := specialApprox op s m e
      let v := Config.special op x
      if [0, 1, 2, 3].all fun r => within2ulp (finalRound r v a) a (4 ≤ op) then BitVec.ofNat 32 (finalRound rnd v a)
      else BitVec.ofNat 32 (fp32.round rnd (decide (a < 0)) (2 * a.natAbs + 1) (-401))
    | _ => BitVec.ofNat 32 fp32.nan

/-! ## Pairs of FP16 -/

/-- An operation on both elements of an `.f16x2` word (R162). -/
def both16 (f : Nat → Nat → Nat) (b c : Word) : Word :=
  BitVec.ofNat 32 (f (b.toNat % 65536) (c.toNat % 65536) % 65536 + f (b.toNat / 65536) (c.toNat / 65536) * 65536)

/-- An operation with three operands on both elements. -/
def both16x3 (f : Nat → Nat → Nat → Nat) (b c e : Word) : Word :=
  BitVec.ofNat 32 (f (b.toNat % 65536) (c.toNat % 65536) (e.toNat % 65536) % 65536 +
    f (b.toNat / 65536) (c.toNat / 65536) (e.toNat / 65536) * 65536)

/-- `exact()` of R159: an integer as FP32, or as FP16 in both elements. -/
def fimm (half : Bool) (x : Int) : Word :=
  if half then
    let h := fp16.pack 0 (Num.ofInt x)
    BitVec.ofNat 32 (h + h * 65536)
  else BitVec.ofNat 32 (fp32.pack 0 (Num.ofInt x))

end Sys2Proof.Machine
end

