-- ==== Sys2Proof/Machine/Kb.lean ====
section
/-! DEFINITION. The KB formats (R149 to R152), and how a matrix operation forms its sums (R155 to R158). -/
namespace Sys2Proof.Machine

/-- m of KB2, KB4 and KB7 (R149), by the code of `kbpack`. -/
def kbM (code : Nat) : Nat := match code with | 0 => 2 | 1 => 4 | _ => 7

/-- Words of a block's image (R171). -/
def kbWords (code : Nat) : Nat := match code with | 0 => 2 | 1 => 3 | _ => 5

/-- `q` of R151: |x| / 2^k to nearest even; none for an infinity. -/
def kbQuot (v : Num) (k : Int) : Option Nat :=
  match v with
  | .fin _ m e =>
    if k ≤ e then some (m * 2 ^ (e - k).toNat)
    else
      let n := (k - e).toNat
      some (m / 2 ^ n + (if roundAway 0 false ((m / 2 ^ n) % 2 == 1) (partOf m n) then 1 else 0))
  | _ => none

/-- Exponent of the unit of a block with exponent `e` and micro-exponent `u`. -/
def kbUnit (m e u : Nat) : Int := (e : Int) - 127 - u - (m - 1 : Nat)

/-- Whether q(x, e, u) <= M for every value. -/
def kbFits (m e u : Nat) (xs : List Num) : Bool :=
  xs.all fun x => match kbQuot x (kbUnit m e u) with
    | some q => q ≤ 2 ^ m - 1
    | none => false

/-- Micro-exponent of a quad (R151). -/
def kbMu (m e : Nat) (quad : List Num) : Nat :=
  if quad.all fun x => kbQuot x (kbUnit m e 3) == some 0 then 0
  else if kbFits m e 3 quad then 3
  else if kbFits m e 2 quad then 2
  else if kbFits m e 1 quad then 1
  else 0

/-- The sign of a value. -/
def Num.isNeg : Num → Bool
  | .nan => false
  | .inf s => s
  | .fin s _ _ => s

/-- The image of the block of 16 values (R150, R151), as a number. -/
def kbConvert (m : Nat) (xs : List Num) : Nat :=
  if xs.any fun x => x == .nan then 255
  else
    let e := ((List.range 255).find? fun e => kbFits m e 0 xs).getD 254
    let mus := (List.range 4).map fun g => kbMu m e ((xs.drop (4 * g)).take 4)
    let mag (i : Nat) : Nat :=
      match kbQuot (xs[i]?.getD .nan) (kbUnit m e (mus[i / 4]?.getD 0)) with
      | some q => min q (2 ^ m - 1)
      | none => 2 ^ m - 1
    let mu := (List.range 4).foldl (fun (a : Nat) g => a + (mus[g]?.getD 0) * 4 ^ g) 0
    let sign := (List.range 16).foldl (fun (a : Nat) i => a + (if mag i != 0 && (xs[i]?.getD .nan).isNeg then 2 ^ i else 0)) 0
    let mags := (List.range 16).foldl (fun (a : Nat) i => a + mag i * 2 ^ (m * i)) 0
    e + mu * 2 ^ 8 + sign * 2 ^ 16 + mags * 2 ^ 32

/-- Element `i` of an image, as FP32 (R149, R152). -/
def kbElem (m img i : Nat) : Nat :=
  let e := img % 256
  if e == 255 then fp32.nan
  else
    let u := bitsOf img (9 + 2 * (i / 4)) (8 + 2 * (i / 4))
    fp32.round 0 (bitOf img (16 + i)) (bitsOf img (32 + m * i + m - 1) (32 + m * i)) (kbUnit m e u)

/-- `kbpack` of one block's values: the words of the image (R172). -/
def kbPackWords (code : Nat) (xs : List Word) : List Word :=
  let img := kbConvert (kbM code) (xs.map fun x => fp32.unpack x.toNat)
  (List.range (kbWords code)).map fun w => BitVec.ofNat 32 (img / 2 ^ (32 * w))

/-- `kbunpack` of one block's words: the sixteen values (R173). -/
def kbUnpackWords (code : Nat) (ws : List Word) : List Word :=
  let img := (List.range (kbWords code)).foldl (fun (a : Nat) w => a + (ws[w]?.getD 0).toNat * 2 ^ (32 * w)) 0
  (List.range 16).map fun i => BitVec.ofNat 32 (kbElem (kbM code) img i)

/-! ## Sums -/

/-- The part of a KB block that a matrix row or column reads: E, MU, signs and magnitudes. -/
structure KbPart where
  e : Nat
  mu : Nat
  neg : List Bool
  mag : List Nat
  deriving DecidableEq, Repr

/-- Micro-exponent of an element's quad. -/
def KbPart.muOf (p : KbPart) (i : Nat) : Nat := bitsOf p.mu (2 * (i / 4) + 1) (2 * (i / 4))

/-- A block sum of KB operands of widths mA and mB, as FP32 (R155). -/
def sumKb (mA mB : Nat) (a b : KbPart) : Nat :=
  if a.e == 255 || b.e == 255 then fp32.nan
  else
    let s := (List.range 16).foldl (fun (s : Int) i =>
      let p : Nat := (a.mag[i]?.getD 0) * (b.mag[i]?.getD 0) * 2 ^ (6 - a.muOf i - b.muOf i)
      if (a.neg[i]?.getD false) != (b.neg[i]?.getD false) then s - p else s + p) 0
    fp32.round 0 (decide (s < 0)) s.natAbs ((a.e : Int) + b.e - 258 - mA - mB)

/-- A block sum of FP16 or BF16 operands, as FP32 (R156). -/
def sumFloat (a b : List Num) : Nat :=
  let ps := (a.zip b).map fun p => p.1.mul p.2
  if ps.any (fun p => p == .nan) || (ps.contains (.inf true) && ps.contains (.inf false)) then fp32.nan
  else if ps.contains (.inf true) then fp32.pack 0 (.inf true)
  else if ps.contains (.inf false) then fp32.pack 0 (.inf false)
  else
    let tops := ps.filterMap fun p => match p with
      | .fin _ m e => if m == 0 then none else some (e + m.log2)
      | _ => none
    match tops with
    | [] => 0
    | t :: ts =>
      let emax := ts.foldl max t
      let k := emax - 49
      let q (p : Num) : Int := match p with
        | .fin s m e =>
          let v : Nat := if k ≤ e then m * 2 ^ (e - k).toNat else m / 2 ^ (k - e).toNat
          if s then -(v : Int) else v
        | _ => 0
      let s := ps.foldl (fun (s : Int) p => s + q p) 0
      fp32.round 0 (decide (s < 0)) s.natAbs k

/-- The exact block sum of integer operands (R158). -/
def sumInt (a b : List Int) : Int := (a.zip b).foldl (fun (s : Int) p => s + p.1 * p.2) 0

/-- R157: block sums added to an FP32 accumulator in ascending K order. -/
def accFloat (acc : Word) (blks : List Nat) : Word :=
  blks.foldl (fun (a : Word) b => BitVec.ofNat 32 (fp32.fadd 0 a.toNat b)) acc

/-- R158: block sums added to an integer accumulator in ascending K order. -/
def accInt (rnd : Nat) (acc : Word) (blks : List Int) : Word :=
  blks.foldl (fun (a : Word) b =>
    match rnd with
    | 0 => BitVec.ofInt 32 (a.toInt + b)
    | 1 => BitVec.ofInt 32 (clampInt (a.toInt + b) (intMin true 32) (intMax true 32))
    | _ => BitVec.ofInt 32 (clampInt ((a.toNat : Int) + b) 0 (intMax false 32))) acc

end Sys2Proof.Machine
end

