-- ==== Sys2Proof/Machine/Operands.lean ====
section
/-! DEFINITION. Operands: which registers a unit reads and writes (R202, R231), and the values of its operands (R101, R120,
R131, R134, R159). -/
namespace Sys2Proof.Machine

/-! ## Registers named by a unit -/

/-- Consecutive vector registers, S registers under U. -/
def vNames (u : Bool) (r n : Nat) : List RegName := (List.range n).map fun i => if u then .s (r + i) else .v (r + i)

/-- Consecutive S registers. -/
def sNames (r n : Nat) : List RegName := (List.range n).map fun i => .s (r + i)

/-- One register, or a pair. -/
def pairN (wide : Bool) : Nat := if wide then 2 else 1

/-- Registers of the second source (R101). -/
def cNames (u wide : Bool) (f : RF) : List RegName :=
  if f.k == 0 then vNames u f.c.toNat (pairN wide) else if f.k == 1 then sNames f.c.toNat (pairN wide) else []

/-- The fourth operand of `imad` and `ffma`: D4, or the destination without `modx` (R110). -/
def d4Of (m : Mods) (f : RF) : Nat := match m.x with | some x => x.d4.toNat | none => f.a.toNat

/-- Registers that data of an `atom` or `red` names (Table 12-3): inputs. -/
def atomNames (u wide : Bool) (aop d : Nat) : List RegName :=
  vNames u d (if aop == 10 then 2 * pairN wide else pairN wide)

/-- Registers read and registers written by a unit. -/
def regsOf (p : Parts) : List RegName × List RegName :=
  let u := p.mods.modx.u
  match clsOf p.op, p.f with
  | some .ctlS, .i f => if p.op == 0x04 then (sNames f.a.toNat 1, []) else ([], sNames f.a.toNat 1)
  | some .callV, .i f => ([], vNames false f.a.toNat 1)
  | some .srcV, .r f => (vNames false f.b.toNat 1, [])
  | some .srcS, .r f => (sNames f.b.toNat 1, [])
  | some (.uni w _), .r f =>
    (sNames f.b.toNat (pairN w) ++ cNames true w f ++ (if p.op == 0x2C then sNames f.a.toNat 1 else []), sNames f.a.toNat (pairN w))
  | some .smovi, .i f => ([], sNames f.a.toNat 1)
  | some (.sld w), .m f => (sNames f.addr.toNat 2, sNames f.data.toNat (pairN w))
  | some (.vec w cw _ _), .r f =>
    (vNames u f.b.toNat (pairN w) ++ cNames u cw f ++ (if p.op == 0x36 then vNames u (d4Of p.mods f) 1 else []) ++
      (if p.op == 0x4E then vNames u f.a.toNat 1 else []), vNames u f.a.toNat (pairN w))
  | some (.vec1 w _), .r f => (vNames u f.b.toNat (pairN w), vNames u f.a.toNat 1)
  | some (.icmp w), .r f => (vNames false f.b.toNat (pairN w) ++ cNames false w f, [.m (f.a.toNat % 16)])
  | some (.isel w), .r f => (cNames false w f, vNames false f.a.toNat (pairN w))
  | some .mask3, .r f => ([], [.m f.a.toNat])
  | some .mask2, .r f => ([], [.m f.a.toNat])
  | some .maskS, .r f => ([], sNames f.a.toNat 1)
  | some .vote, .r f => ([], sNames f.a.toNat 1)
  | some .shfl, .r f => (vNames false f.b.toNat 1 ++ cNames false false f, vNames false f.a.toNat 1)
  | some .bcast, .r f => (vNames false f.b.toNat 1 ++ cNames false false f, vNames false f.a.toNat 1)
  | some .rdlane, .r f => (vNames false f.b.toNat 1 ++ cNames false false f, sNames f.a.toNat 1)
  | some .wrlane, .r f => (sNames f.b.toNat 1 ++ cNames false false f, vNames false f.a.toNat 1)
  | some .redux, .r f => (vNames false f.b.toNat 1, sNames f.a.toNat 1)
  | some (.flt _ d4), .r f =>
    (vNames u f.b.toNat 1 ++ cNames u false f ++ (if d4 then vNames u (d4Of p.mods f) 1 else []), vNames u f.a.toNat 1)
  | some .fcmp, .r f => (vNames false f.b.toNat 1 ++ cNames false false f, [.m (f.a.toNat % 16)])
  | some .fclass, .r f => (vNames u f.b.toNat 1, vNames u f.a.toNat 1)
  | some .flt1, .r f => (vNames u f.b.toNat 1, vNames u f.a.toNat 1)
  | some (.cvt d), .r f =>
    (vNames u f.b.toNat (pairN (f.c.toNat % 16 == 6 || f.c.toNat % 16 == 7)) ++
      (if d == .f16 || d == .bf16 then vNames u f.a.toNat 1 else []), vNames u f.a.toNat (pairN (d == .int64)))
  | some (.kb _), .r f => (vNames false f.b.toNat 1, vNames false f.a.toNat 1)
  | some (.ldst w isLoad), .m f =>
    (vNames u f.addr.toNat 2 ++ (if isLoad then [] else vNames u f.data.toNat (pairN w)),
      if isLoad then vNames u f.data.toNat (pairN w) else [])
  | some (.atom w res), .m f =>
    (vNames u f.addr.toNat 2 ++ atomNames u w (f.off.toNat / 32) f.data.toNat, if res then vNames u f.data.toNat (pairN w) else [])
  | some .pref, .m f => (vNames u f.addr.toNat 2, [])
  | some .cpyT, .r f => ([.t f.a.toNat, .t f.b.toNat] ++ (if f.k == 0 then [] else sNames f.c.toNat 2), [])
  | some .cpyL, .r f =>
    (vNames false f.a.toNat 2 ++ vNames false f.b.toNat 2 ++ (if f.k == 0 then [] else sNames f.c.toNat 2), [])
  | some .txbInit, .m f => (sNames f.addr.toNat 2, [])
  | some .txbArrive, .m f => (sNames f.addr.toNat 2, [])
  | some .txbReg, .m f => (sNames f.addr.toNat 2 ++ sNames f.data.toNat 1, [])
  | some .sbq, .r f => (sNames f.b.toNat 2 ++ (if f.k == 1 then sNames f.c.toNat 1 else []), sNames f.a.toNat 1)
  | some (.pois q), .r f =>
    ((if f.k == 0 then [.t f.b.toNat] else sNames f.b.toNat 2 ++ sNames f.c.toNat 1), if q then sNames f.a.toNat 1 else [])
  | some .mma, .r f => ([.t f.b.toNat, .t f.c.toNat], [])
  | some .mzero, .r f => ([], vNames false f.a.toNat 32)
  | some .tset, .m f => (sNames f.addr.toNat 2, [.t (f.data.toNat % 16)])
  | some .tfield, .r f => ([.t f.a.toNat] ++ sNames f.b.toNat (pairN (f.c.toNat ≤ 1)), [.t f.a.toNat])
  | some .tget, .r f => ([.t f.b.toNat], sNames f.a.toNat (pairN (f.c.toNat ≤ 1)))
  | some .benchq, .r f => ([], sNames f.a.toNat 1)
  | some .qpush, .r f => (sNames f.b.toNat 2 ++ (if f.k == 1 then sNames f.c.toNat 1 else []), [])
  | some .qpop, .r f => (sNames f.b.toNat 2, sNames f.a.toNat 1)
  | some .fetchw, .m f => (sNames f.addr.toNat 2, [])
  | some .getsr, .i f =>
    let n := pairN (((srInfo (f.imm.toNat % 32768)).map SrInfo.wide).getD false)
    ([], if 32768 ≤ f.imm.toNat then vNames false f.a.toNat n else sNames f.a.toNat n)
  | some .setsr, .i f =>
    let n := pairN (((srInfo (f.imm.toNat % 32768)).map SrInfo.wide).getD false)
    (if 32768 ≤ f.imm.toNat then vNames false f.a.toNat n else sNames f.a.toNat n, [])
  | some .dstPair, .r f => ([], sNames f.a.toNat 2)
  | some .setperf, .r f => (cNames false false f, sNames f.a.toNat 1)
  | some .xfer, .r f => (if f.k == 1 then sNames f.c.toNat 1 else [], sNames f.a.toNat 1)
  | some .trace, .i f => (sNames f.a.toNat 1, [])
  | some .sigq, .r f => ([], sNames f.a.toNat 1)
  | _, _ => ([], [])

/-- Registers that an outstanding operation will write (R202, R235). -/
def Op.dests (o : Op) : List RegName :=
  match o.kind with
  | .load r uni _ => vNames uni r (pairN (o.size == 8))
  | .atom _ r uni true => vNames uni r (pairN (o.size == 8))
  | .tset t => [.t t]
  | _ => []

/-- The accumulators that an `mma` adds to. -/
def accOf (p : Parts) : List RegName :=
  match clsOf p.op, p.f with
  | some .mma, .r f => vNames false f.a.toNat 32
  | _, _ => []

/-- The M registers that a unit reads: MSEL's, and those of its own fields. -/
def masksOf (p : Parts) : List Nat :=
  (if p.mods.modx.msel == 0 then [] else [p.mods.modx.msel.toNat]) ++
  match clsOf p.op, p.f with
  | some .mask3, .r f => [f.b.toNat, f.c.toNat]
  | some .mask2, .r f | some .maskS, .r f | some .vote, .r f | some .kill, .r f => [f.b.toNat]
  | some (.isel _), .r f => [f.b.toNat % 16]
  | some .brcM, .i f => [f.a.toNat]
  | some .brm, .brm _ ts => ts.map fun t => t.msel.toNat
  | _, _ => []

/-- Uncorrectable errors of a group in registers that a unit reads (R364). -/
def Group.softReads (g : Group) (p : Parts) : List SoftPlace :=
  g.softErr.filter fun w => match w with
    | .reg (.m n) => (masksOf p).contains n
    | .reg r => (regsOf p).1.contains r || (accOf p).contains r
    | .entry _ => false

/-- Whether a unit waits for a register of an outstanding operation of its group (R202, R235), or for the fault of one that
failed (R200). The accumulators that an `mma` will add to count as read. -/
def State.regBusy (s : State) (gid : Nat) (p : Parts) : Bool :=
  let names := (regsOf p).1 ++ (regsOf p).2 ++ accOf p
  (s.ops.any fun o => o.g == gid && o.dests.any fun r => names.contains r) ||
    ((s.group? gid).map fun g => g.late.any fun f => f.dests.any fun r => names.contains r).getD false

/-- The operations of a group that hold a register of a unit (R202). -/
def State.holders (s : State) (gid : Nat) (p : Parts) : List Op :=
  let acc : List RegName := match clsOf p.op, p.f with
    | some .mma, .r f => vNames false f.a.toNat 32
    | _, _ => []
  let names := (regsOf p).1 ++ (regsOf p).2 ++ acc
  s.ops.filter fun o => o.g == gid && o.dests.any fun r => names.contains r

/-! ## Values -/

/-- The value of a w-bit pattern under RND: unsigned for 010 (R131). -/
def intVal (uns : Bool) (w x : Nat) : Int := if uns then ((x % 2 ^ w : Nat) : Int) else toSigned w x

/-- Narrows an exact integer by RND: wrap, signed or unsigned saturation (R131, R134). -/
def narrow (rnd w : Nat) (x : Int) : Nat :=
  match rnd with
  | 1 => (clampInt x (intMin true w) (intMax true w) % (2 ^ w : Nat)).toNat
  | 2 => (clampInt x 0 (intMax false w)).toNat
  | _ => (x % (2 ^ w : Nat)).toNat

/-- An immediate second source, as a w-bit pattern (R101). -/
def immOf (m : Mods) (f : RF) (w : Nat) : Nat :=
  if f.k == 2 then (sext 7 w f.c.toNat).toNat
  else (sext 31 w ((m.i.map BitVec.toNat).getD 0 * 128 + f.c.toNat)).toNat

/-- An S register or pair, as a number. -/
def Group.sVal (g : Group) (wide : Bool) (r : Nat) : Nat :=
  (g.getS r).toNat + (if wide then (g.getS (r + 1)).toNat * 2 ^ 32 else 0)

/-- A V register or pair of a lane, as a number. -/
def Group.vVal (g : Group) (wide : Bool) (r l : Nat) : Nat :=
  (g.getV r l).toNat + (if wide then (g.getV (r + 1) l).toNat * 2 ^ 32 else 0)

/-- A source register: V, or S under U. -/
def Group.src (g : Group) (u wide : Bool) (r l : Nat) : Nat := if u then g.sVal wide r else g.vVal wide r l

/-- The second source (R101), as a pattern of 32 or 64 bits. -/
def Group.opnd (g : Group) (m : Mods) (u wide : Bool) (f : RF) (l : Nat) : Nat :=
  if f.k == 0 then g.src u wide f.c.toNat l
  else if f.k == 1 then g.sVal wide f.c.toNat
  else immOf m f (if wide then 64 else 32)

/-- The second source of a floating-point instruction (R159). -/
def Group.fopnd (g : Group) (m : Mods) (u half : Bool) (f : RF) (l : Nat) : Word :=
  if f.k == 0 then BitVec.ofNat 32 (g.src u false f.c.toNat l)
  else if f.k == 1 then g.getS f.c.toNat
  else if f.k == 2 then fimm half (toSigned 7 f.c.toNat)
  else BitVec.ofNat 32 (((m.i.map BitVec.toNat).getD 0 * 128 + f.c.toNat) * 2)

/-- An S pair as a tagged pointer. -/
def Group.ptr (g : Group) (r : Nat) : Nat := g.sVal true r

/-- A lane mask register as a fragment reads it; M0 is the fragment's mask (R100, R120), legacy bits 16-31 read zero (R84). -/
def Group.mreg (g : Group) (own : Word) (r : Nat) : Word :=
  if r == 0 then own else (g.mr[r]?.getD 0) &&& (if g.legacy then 0xFFFF else 0xFFFFFFFF)

/-- The scaled offset of an M-format word, in bytes modulo 2^64 (R103, R197). -/
def offBytes (f : MF) (unit : Nat) : Nat := ((toSigned 9 f.off.toNat * (unit : Int)) % (2 ^ 64 : Nat)).toNat

/-- An address plus an offset, modulo 2^64 (R197). -/
def addrPlus (p off : Nat) : Nat := (p + off) % 2 ^ 64

end Sys2Proof.Machine
end

