-- ==== Sys2Proof/Machine/Ops.lean ====
section
/-! DEFINITION. The operations every unit shares: taking a trap and returning from one (R277 to R283, R324 to R326, R336),
what keeps a unit from issuing (R200 to R202, R230, R231), stop sites, and `issue`, which wraps every meaning. -/
namespace Sys2Proof.Machine

/-- A trap: code, PC of its record, TRAPPC, and the contents of its record (Tables 19-1 to 19-3). -/
structure Trap where
  code : Nat
  pc : Word
  resume : Word
  fmask : Word
  cmask : Word
  notes : List LaneNote
  aux : Nat
  addr : Nat
  arg : Nat
  deferred : Bool
  deriving DecidableEq, Repr

/-- A trap that names the unit at `pc` and resumes there, with nothing else in its record. -/
def Trap.at_ (code : Nat) (pc : Word) : Trap :=
  { code := code, pc := pc, resume := pc, fmask := 0, cmask := 0, notes := [], aux := 0, addr := 0, arg := 0, deferred := false }

/-- Forgets a slot's reuse latch of a group (R74, R278). -/
def State.dropLatch (s : State) (g : Nat) : State :=
  { s with slots := s.slots.map fun x => if (x.last.map Prod.fst) == some g then { x with latch := none } else x }

/-- An unhandled trap (R283): a FAULT event, and the group's region fails. -/
def State.unhandled (s : State) (g : Group) (code arg : Nat) : State := (s.event 0x84 g.ctx code arg).failRegion g.region code

/-- The record of a trap. -/
def Trap.record (t : Trap) (e : Nat) (code : Nat) : Fault0 :=
  { code := code, pc := t.pc, flags := if t.deferred then 1 else 0, entry := e, fmask := t.fmask, cmask := t.cmask, notes := t.notes,
    aux := t.aux, addr := t.addr }

/-- A DOUBLE_TRAP (R282): always unhandled, its record in slot 1. It names the trapping unit, or, deferred, the instruction that
failed (Table 19-2). -/
def State.doubleTrap (s : State) (g : Group) (e : Nat) (t : Trap) : State :=
  let bare := { Trap.at_ trapDouble t.pc with deferred := t.deferred }
  let r := s.leaveRecord g 1024 (s.faultBytes g (bare.record e trapDouble))
  r.1.unhandled g trapDouble r.2

/-- Entry of a fragment into a handler at a code offset (R280 step 4, R308, R325). -/
def Group.enterHandler (g : Group) (e : Nat) (coff : Nat) (resume : Word) (code arg : Nat) (redo : Option (Word × Word)) : Group :=
  let x := g.entry e
  { g with trappc := resume, trapcode := BitVec.ofNat 8 code, traparg := BitVec.ofNat 32 arg, hLanes := x.mask, hEntry := e,
           hRedo := redo }.modEntry e fun y =>
    { y with pc := BitVec.ofNat 32 coff, inH := true, heldT := false, redo := none, named := 0, seenB := false, seenT := false, seenO := false }

/-- TAKING A TRAP (R280): by entry `e` of group `gid` with its PC at the unit. `held` is the state in which the fragment
stays at its unit when another fragment of the group is in the handler (step 1, R336). A record that cannot be written makes it a
DOUBLE_TRAP (steps 2 and 3). -/
def State.raise (s held : State) (gid e : Nat) (t : Trap) : State :=
  match s.group? gid with
  | none => s
  | some g =>
    let x := g.entry e
    if !x.isFragment then s
    else if x.inH then (s.doubleTrap g e t).dropLatch gid
    else if g.inHandler then (held.modEntry gid e fun y => { y with heldT := true }).dropLatch gid
    else if !s.frecpOk g then (s.unhandled g t.code 0).dropLatch gid
    else
      let r := s.writeRecord g 0 (s.faultBytes g (t.record e t.code))
      if !r.2 then (r.1.doubleTrap g e t).dropLatch gid
      else
        match s.stageEntry g 0xFFFF with
        | some coff =>
          let redo := if t.code == trapAccess && !t.deferred then some (x.pc, t.fmask) else none
          (r.1.modGroup gid fun h => h.enterHandler e coff t.resume t.code t.arg redo).dropLatch gid
        | none => (r.1.unhandled g t.code g.frecp.toNat).dropLatch gid

/-- RETURN FROM A HANDLER (R281, R325): the mark clears, held fragments issue again, PC = TRAPPC, and a unit that faulted
executes once for the record's lanes that are left. -/
def Group.leaveHandler (g : Group) (e : Nat) : Group :=
  let redo := match g.hRedo with
    | some (pc, m) => if pc == g.trappc then some (pc, m) else none
    | none => none
  g.endHandler.modEntry e fun y => { y with pc := g.trappc, redo := redo, seenB := false, seenT := false, seenO := false }

/-! ## A unit of a fragment -/

/-- A fragment at the issue of a unit: its group and entry as they stand, its modifier words, and the offset after the unit. -/
structure Frag where
  g : Group
  e : Nat
  x : Entry
  m : Mods
  next : Word
  deriving DecidableEq, Repr

/-- What a meaning answers: the state after the unit; one in which records or ends are to settle; a trap, with the state
that still commits and the one in which the fragment is held; or that the unit cannot issue yet, with whether the group
stops at this barrier boundary (R266). -/
inductive Res where
  | ok (s : State)
  | post (s : State)
  | trap (t : Trap) (s held : State)
  | hold (stop : Bool)
  deriving DecidableEq, Repr

/-- A trap of the unit itself, without any effect. -/
def Frag.raise (f : Frag) (s : State) (code : Nat) : Res := .trap (Trap.at_ code f.x.pc) s s

/-- A trap of a uniform access, against the fragment's lowest lane (R199). -/
def Frag.fault (f : Frag) (s : State) (cause addr : Nat) : Res :=
  let l := lowLane f.x.mask
  .trap { Trap.at_ trapAccess f.x.pc with fmask := maskOf (· == l), addr := addr,
                                          notes := [{ lane := l, addr := addr, cause := cause, src := false }] } s s

/-- The mask that MSEL chooses (R120). -/
def Frag.sel (f : Frag) : Word := f.g.mreg f.x.mask f.m.modx.msel.toNat

/-- The lanes that a vector unit executes (R71, R197). -/
def Frag.lanes (f : Frag) : Word := f.x.mask &&& f.sel

/-- The lanes that Z writes zero (R71). -/
def Frag.zeroed (f : Frag) : Word := if f.m.modx.z then f.x.mask &&& ~~~f.sel else 0

/-- Changes the fragment's group. -/
def Frag.upd (f : Frag) (s : State) (h : Group → Group) : State := s.modGroup f.g.id h

/-- Writes a vector result, a pair when wide: executed lanes, and zero under Z; under U one S result (R71, R72, R134). -/
def Group.putV (g : Group) (u wide : Bool) (r : Nat) (lanes zeroed : Word) (val : Nat → Nat) : Group :=
  if u then
    let g1 := g.setS r (BitVec.ofNat 32 (val 0))
    if wide then g1.setS (r + 1) (BitVec.ofNat 32 (val 0 / 2 ^ 32)) else g1
  else
    let m := lanes ||| zeroed
    let g1 := g.setV r m fun l => if laneIn lanes l then BitVec.ofNat 32 (val l) else 0
    if wide then g1.setV (r + 1) m fun l => if laneIn lanes l then BitVec.ofNat 32 (val l / 2 ^ 32) else 0 else g1

/-- Writes an S result, a pair when wide. -/
def Group.putS (g : Group) (wide : Bool) (r val : Nat) : Group :=
  let g1 := g.setS r (BitVec.ofNat 32 val)
  if wide then g1.setS (r + 1) (BitVec.ofNat 32 (val / 2 ^ 32)) else g1

/-- A vector unit's result. -/
def Frag.vec (f : Frag) (s : State) (wide : Bool) (r : Nat) (val : Nat → Nat) : Res :=
  .ok (f.upd s fun g => g.putV f.m.modx.u wide r f.lanes f.zeroed val)

/-- A uniform unit's result. -/
def Frag.uni (f : Frag) (s : State) (wide : Bool) (r val : Nat) : Res := .ok (f.upd s fun g => g.putS wide r val)

/-- A lane-mask result: executed lanes by a test, and zero under Z (R136, R137). -/
def Frag.maskRes (f : Frag) (s : State) (d : Nat) (p : Nat → Bool) : Res :=
  .ok (f.upd s fun g => g.setM d (f.lanes ||| f.zeroed) (maskOf fun l => laneIn f.lanes l && p l))

/-- Parks the fragment before its unit; `next` is where it continues when its wait ends (R75). -/
def Frag.parked (f : Frag) (s : State) (p : Park) : State :=
  f.upd s fun g => g.chg f.e .parked fun y =>
    { y with pc := f.x.pc, next := f.next, park := p, seenB := f.x.seenB, seenT := f.x.seenT, seenO := f.x.seenO }

/-- Loads, stores and atomics of a fragment with lanes `m` that have not completed (R244, R332): those that it or a fragment it was
split from or fused of has issued. -/
def State.accessesOf (s : State) (gid : Nat) (m : Word) : List Op :=
  s.ops.filter fun o => o.g == gid && (o.mask &&& m) != 0 && (match o.kind with
    | .load .. | .store | .atom .. | .tset _ => true
    | _ => false)

/-- Whether an earlier access of the fragment has not completed, as Table 12-1 lowers the counters (R332). -/
def Frag.busy (f : Frag) (s : State) : Bool := (s.accessesOf f.g.id f.x.mask).any fun o => !o.lowered

/-- Units that access memory. -/
def accessesMemory (p : Parts) : Bool :=
  match clsOf p.op with
  | some (.sld _) | some (.ldst _ _) | some (.atom _ _) | some .cpyT | some .cpyL | some .txbInit | some .txbArrive | some .txbReg
  | some (.pois _) | some .mma | some .tset | some .qpush | some .qpop | some .fetchw => true
  | _ => false

/-- Whether a unit waits before it begins: for a register (R202, R235) or the fault of one (R200), or, where it accesses memory,
for an acquire of its fragment that has not crossed (R245). -/
def State.unitHeld (s : State) (g : Group) (e : Nat) (p : Parts) : Bool :=
  s.regBusy g.id p || (accessesMemory p && (s.accessesOf g.id (g.entry e).mask).any fun o => o.acq)

/-! ## The lanes of collectives (R140, R141) -/

/-- N as a fragment reads it on arrival (R140), or as it was read before the wait that has just ended. -/
def Frag.named (u : Frag) : Word :=
  if u.m.modx.msel = 0 then u.x.mask else if u.x.named != 0 then u.x.named else u.g.mreg u.x.mask u.m.modx.msel.toNat

/-- The fragments that wait at a collective, except `e`. -/
def Group.waiting (g : Group) (e : Nat) : List Nat := entryIds.filter fun i => i != e && (g.entry i).st == .collective

/-- The fragments that take part in a collective when fragment `u` arrives at it (R140). -/
def Frag.gathers (u : Frag) : List Nat :=
  let n := u.named &&& u.g.live
  entryIds.filter fun i =>
    (i == u.e && (n == 0 || (u.x.mask &&& n) != 0)) ||
      ((u.g.waiting u.e).contains i && (u.g.entry i).pc == u.x.pc && ((u.g.entry i).mask &&& n) != 0)

/-- The lanes of those fragments. -/
def Frag.gathered (u : Frag) : Word := u.gathers.foldl (fun (m : Word) i => m ||| (u.g.entry i).mask) 0

/-- The lanes that a collective executes as fragment `u` issues it (R71, R140): none while named lanes are awaited. -/
def Frag.issueLanes (u : Frag) : Word :=
  let n := u.named &&& u.g.live
  if (n &&& ~~~u.gathered) != 0 then 0 else if u.m.modx.z then u.gathered else n

/-- Whether a lane is executed, so that a read from it gives its value (R141). -/
def laneThere (ex : Word) (gw l : Nat) : Bool := l < gw && laneIn ex l

/-- Whether a unit is a collective with a named lane set. -/
def namesLanes (p : Parts) : Bool := 0x66 ≤ p.op && p.op ≤ 0x6E && p.mods.modx.msel != 0

/-- A unit's fragment without its next offset, which its lanes do not depend on. -/
def Group.fragOf (g : Group) (e : Nat) (p : Parts) : Frag := { g := g, e := e, x := g.entry e, m := p.mods, next := 0 }

/-- The lanes that a unit executes, for R231: those that MSEL chooses, and under Z, which writes the others, or for `kbpack` and
`kbunpack`, which read them, all of its fragment's (R71, R171); of a collective those of the fragments that execute it as one issue, and
none where it only arrives (R140). -/
def execLanes (g : Group) (e : Nat) (p : Parts) : Word :=
  let own := (g.entry e).mask
  let all := p.mods.modx.z || (match clsOf p.op with | some (.kb _) => true | _ => false)
  if namesLanes p then (g.fragOf e p).issueLanes
  else if all then own else own &&& g.mreg own p.mods.modx.msel.toNat

/-- The lanes in which a unit writes what it computes: those that it executes, without those that Z zeroes. -/
def wroteLanes (g : Group) (e : Nat) (p : Parts) : Word :=
  let own := (g.entry e).mask
  if namesLanes p then (if (g.fragOf e p).issueLanes == 0 then 0 else (g.fragOf e p).named &&& g.live)
  else own &&& g.mreg own p.mods.modx.msel.toNat

/-- The registers that a unit writes from its operands, where it executes some lane: `rdlane` none when its lane is not there (R144). -/
def wroteRegs (g : Group) (e : Nat) (p : Parts) : List RegName :=
  match clsOf p.op, p.f with
  | some .rdlane, .r f =>
    if laneThere (wroteLanes g e p) g.gw (g.opnd p.mods false false f 0 % g.gw) then (regsOf p).2 else []
  | _, _ => (regsOf p).2

/-! ## Hazards of accumulators -/

/-- The unmatched `mma`s whose accumulators a unit touches (R231): not by a later `mma`, not without an executed lane. -/
def Group.touched (g : Group) (p : Parts) (lanes : Word) : List MmaRec :=
  if g.mmas.isEmpty || lanes == 0 then []
  else
    let names := (regsOf p).1 ++ (regsOf p).2
    g.mmas.filter fun m => !m.matched && names.any fun r => match r with
      | .v n => m.base ≤ n && n ≤ m.base + 31
      | _ => false

/-- Free words in every lane of a register. -/
def State.spoilV (s : State) (gid r : Nat) (m : Word) : State :=
  let s1 := s.modGroup gid fun g => g.setV r m fun l => Config.freeWord (s.free + l)
  { s1 with free := s.free + 32 }

/-- The accumulators of touched `mma`s hold undefined values, and so does what their passes will add to (R231). -/
def State.spoilAcc (s : State) (gid : Nat) (ms : List MmaRec) : State :=
  ms.foldl (fun (s : State) m =>
    let s1 := (List.range 32).foldl (fun (s : State) i => s.spoilV gid (m.base + i) 0xFFFFFFFF) s
    s1.modOp m.op fun o => { o with touched := true }) s

/-- Whether a unit reads accumulators of some `mma`s. -/
def readsAcc (p : Parts) (ms : List MmaRec) : Bool :=
  ms.any fun m => (regsOf p).1.any fun r => match r with
    | .v n => m.base ≤ n && n ≤ m.base + 31
    | _ => false

/-- What a touching unit writes from accumulators is undefined: the registers `rs` in the lanes that it writes, and what its operations
will write (R175, R231). -/
def State.spoilDests (s : State) (gid : Nat) (rs : List RegName) (lanes : Word) (firstOp : Nat) : State :=
  let s1 := rs.foldl (fun (s : State) r => match r with
    | .v n => s.spoilV gid n lanes
    | .s n => { s.modGroup gid (fun g => g.setS n (Config.freeWord s.free)) with free := s.free + 1 }
    | .m n => { s.modGroup gid (fun g => g.setM n lanes (Config.freeWord s.free)) with free := s.free + 1 }
    | .t _ => s) s
  s1.mapOps fun o => if firstOp ≤ o.id && o.g == gid then { o with touched := true } else o

/-! ## Locations that a move of a transfer has given away (R341) -/

/-- The registers of a MoveWrite: those of KIND 1 and 3, which every fragment sees. -/
def MoveWrite.regs (w : MoveWrite) : List RegName :=
  match w.kind with
  | 1 => if w.wide then [.s w.loc, .s (w.loc + 1)] else [.s w.loc]
  | 3 => [.t w.loc]
  | _ => []

/-- Registers that a move has given to the target and that a unit of a fragment still in the source names (R341). -/
def Group.movedRegs (g : Group) (p : Parts) : List RegName :=
  if g.moves.isEmpty then []
  else
    let names := (regsOf p).1 ++ (regsOf p).2
    (g.moves.flatMap MoveWrite.regs).filter names.contains

/-- A register of the group holds an undefined value. -/
def State.spoilReg (s : State) (gid : Nat) : RegName → State
  | .s n => { s.modGroup gid (fun g => g.setS n (Config.freeWord s.free)) with free := s.free + 1 }
  | .t n =>
    let x := (List.range 16).foldl (fun (x : Nat) i => x + (Config.freeWord (s.free + i)).toNat * 2 ^ (32 * i)) 0
    { s.modGroup gid (fun g => g.setT n (BitVec.ofNat 512 x)) with free := s.free + 16 }
  | _ => s

/-- What a refusal would give back to the locations that satisfy a test is undefined too. -/
def State.spoilMoves (s : State) (gid : Nat) (p : MoveWrite → Bool) : State :=
  let x := (List.range 16).foldl (fun (x : Nat) i => x + (Config.freeWord (s.free + i)).toNat * 2 ^ (32 * i)) 0
  { s.modGroup gid (fun g => { g with moves := g.moves.map fun w => if p w then { w with vals := [x] } else w }) with free := s.free + 16 }

/-- Registers of the group hold undefined values (R341). -/
def State.spoilRegs (s : State) (gid : Nat) (rs : List RegName) : State :=
  if rs.isEmpty then s else (rs.foldl (fun (s : State) r => s.spoilReg gid r) s).spoilMoves gid fun w => w.regs.any rs.contains

/-- Whether a MoveWrite lies in context-private memory and meets an interval of it. -/
def MoveWrite.meets (w : MoveWrite) (lo hi : Nat) : Bool := 4 ≤ w.kind && w.loc < hi && lo < w.loc + (if w.wide then 8 else 4)

/-- Context-private locations that a move has given to the target, and that an access of a fragment still in the source meets, hold
undefined values (R341). -/
def State.spoilPriv (s : State) (gid e lo hi : Nat) : State :=
  match s.group? gid with
  | none => s
  | some g =>
    let ws := if (g.entry e).moved.isSome then [] else g.moves.filter fun w => w.meets lo hi
    if ws.isEmpty then s
    else (ws.foldl (fun (s : State) w =>
      { s.putN (privKey gid w.loc) ((List.range (if w.wide then 8 else 4)).map fun i => Config.freeByte (s.free + i)) with free := s.free + 8 })
      s).spoilMoves gid fun w => w.meets lo hi

/-- What a unit meets that is undefined once it does: accumulators of unmatched `mma`s (R231), registers given away (R341). -/
structure Touch where
  mmas : List MmaRec
  regs : List RegName
  deriving DecidableEq, Repr

/-- Whether a unit meets nothing of the kind. -/
def Touch.none (t : Touch) : Bool := t.mmas.isEmpty && t.regs.isEmpty

/-- What a unit meets holds undefined values. -/
def State.spoil (s : State) (gid : Nat) (t : Touch) : State := (s.spoilAcc gid t.mmas).spoilRegs gid t.regs

/-! ## Issue -/

/-- Trap code of a rejected unit (R115). -/
def rejectCode : Reject → Nat
  | .illegalModifier => trapModifier
  | .illegalOpcode => trapOpcode
  | .illegalField => trapField
  | .illegalOperand => trapOperand
  | .truncated => trapFetch

/-- Records posted and ends settled: the unit has issued. -/
def State.finish (s : State) : State := { s.settle with issued := true }

/-- The state after a unit's trap (R278, R280): the fragment stands at its unit, `x` as it was there. -/
def State.trapped (gid e : Nat) (x : Entry) (t : Trap) (s held : State) : State :=
  let back (y : Entry) : Entry := { y with pc := x.pc, redo := x.redo, seenB := x.seenB, seenT := x.seenT, seenO := x.seenO, exempt := x.exempt,
                                            clash := x.clash }
  ((s.modEntry gid e fun y => { y with pc := x.pc }).raise (held.modEntry gid e back) gid e t).finish

/-- Marks a group stopped at a barrier boundary (R266). -/
def State.stopGroup (s : State) (gid : Nat) (stop : Bool) : State :=
  if stop then s.modGroup gid fun g => { g with stopped := true } else s

/-- The state from which a unit runs: PC after it, marks of the stop site, a re-execution and a mismatch cleared, and one
unit less of service-class exemption (R142, R199, R308). -/
def State.begun (s : State) (gid e : Nat) (next : Word) : State :=
  s.modEntry gid e fun y => { y with pc := next, redo := none, seenB := false, seenT := false, seenO := false, exempt := y.exempt - 1,
                                         clash := if y.inH then y.clash else none }

/-- A fragment at its unit, and the state from which its meaning runs. -/
def State.atBegin (s : State) (p : Parts) (g : Group) (e : Nat) (next : Word) : Frag × State :=
  ({ g := (s.group? g.id).getD g, e := e, x := g.entry e, m := p.mods, next := next }, s.begun g.id e next)

/-- A meaning run on a fragment: from the state in which what it meets is undefined (R231, R341). A unit that waits or traps
touches nothing, but for the lanes of it that commit (R278, R336). -/
def State.runUnit (s : State) (p : Parts) (g : Group) (e : Nat) (next : Word) (ts : Touch)
    (body : Frag → State → Res) : Res :=
  let q := s.atBegin p g e next
  if ts.none then body q.1 q.2
  else
    let r := (s.spoil g.id ts).atBegin p g e next
    match body r.1 r.2 with
    | .trap t s1 _ =>
      .trap t (if t.cmask != 0 then s1 else match body q.1 q.2 with | .trap _ s2 _ => s2 | _ => q.2) q.2
    | x => x

/-- What a meaning's answer makes of the state. -/
def State.afterUnit (s : State) (p : Parts) (g : Group) (e : Nat) (ts : Touch) : Res → State
  | .ok s1 =>
    let s2 := if ts.none then s1
      else
        let lanes := wroteLanes g e p
        let rs := if readsAcc p ts.mmas && lanes != 0 then wroteRegs g e p else []
        (if ts.mmas.isEmpty then s1 else s1.spoilDests g.id rs lanes s.nextId).spoil g.id ts
    { s2 with issued := true }
  | .post s1 => (if ts.none then s1 else s1.spoilRegs g.id ts.regs).finish
  | .trap t s1 held => State.trapped g.id e (g.entry e) t s1 held
  | .hold stop => s.stopGroup g.id stop

/-- Errors of a group that have been raised (R364). -/
def State.dropSoft (s : State) (gid : Nat) (ws : List SoftPlace) : State :=
  s.modGroup gid fun h => { h with softErr := h.softErr.filter fun w => !ws.contains w }

/-- A legal unit (R98, R201, R202, R230, R231, R280, R311, R364): held by a busy register, trapping, at a stop site, or run. -/
def State.legalUnit (s : State) (p : Parts) (g : Group) (e : Nat) (next : Word) (body : Frag → State → Res) : State :=
  let site := p.mods.stop && s.stopMatters g e
  if s.unitHeld g e p then
    (if site then (let r := s.atStop g e; if r.2 then r.1.finish else r.1) else s)
  else if !(g.softReads p).isEmpty then
    let s1 := s.dropSoft g.id (g.softReads p)
    State.trapped g.id e (g.entry e) (Trap.at_ trapPoison (g.entry e).pc) s1 s1
  else
    let ts : Touch := { mmas := g.touched p (execLanes g e p), regs := g.movedRegs p }
    if !ts.mmas.isEmpty && s.debugOf g && bitOf Config.featureWord.toNat 23 then
      State.trapped g.id e (g.entry e) (Trap.at_ trapHazard (g.entry e).pc) s s
    else
      match s.runUnit p g e next ts body with
      | .trap t s1 held => State.trapped g.id e (g.entry e) t s1 held
      | r =>
        if site then
          let q := s.atStop g e
          if q.2 then q.1.finish
          else
            let g1 := (q.1.group? g.id).getD g
            q.1.afterUnit p g1 e ts (q.1.runUnit p g1 e next ts body)
        else s.afterUnit p g e ts r

/-- What a unit boundary holds before anything else: a data fault found after issue (R200), or an error of the fragment's split-table
entry, which its units read (R364, log 53). -/
def State.boundary (s : State) (g : Group) (e : Nat) : Option State :=
  match g.late.find? fun f => (f.lanes g.live &&& (g.entry e).mask) != 0 with
  | some f =>
    let t : Trap := { Trap.at_ trapAccess f.pc with resume := (g.entry e).pc, fmask := f.fmask, cmask := f.cmask, notes := f.notes,
                                                    addr := f.addr, deferred := true }
    let s1 := s.modGroup g.id fun h => { h with late := h.late.filter fun x => x != f }
    some (s1.raise s g.id e t).finish
  | none =>
    if g.softErr.contains (.entry e) then
      let s1 := s.dropSoft g.id [.entry e]
      some (s1.raise s1 g.id e (Trap.at_ trapPoison (g.entry e).pc)).finish
    else none

/-- The fragment in issue, if there is one. -/
def State.issuing (s : State) : Option (Group × Nat) :=
  match s.cur with
  | none => none
  | some (gid, e) =>
    match s.group? gid with
    | none => none
    | some g => if (g.entry e).isFragment then some (g, e) else none

/-- The format of A in an `mma` whose RND only that format can make illegal (R233 step 1). -/
def Group.rndBad (g : Group) (p : Parts) : Bool :=
  match p.f with
  | .r f =>
    let fmt := bitsOf (g.getT f.b.toNat).toNat 131 128
    p.op == 0xB0 && f.b.toNat < 16 && p.mods.modx.rnd != 0 && fmt != 3 && fmt != 4
  | _ => false

/-- Whether a `setsr` writes TRAPPC outside a handler (R321). -/
def Group.trappcBad (g : Group) (e : Nat) (p : Parts) : Bool :=
  match p.f with
  | .i f => clsOf p.op == some .setsr && f.imm.toNat % 32768 == 0x42 && !(g.entry e).inH
  | _ => false

/-- The checks of a unit's words (R115). A field that only the group's state makes illegal comes before the register numbers
(R233 steps 1 and 2, R321). -/
def Group.unitCheck (g : Group) (e : Nat) (p : Parts) : Option Reject :=
  match p.check with
  | some .illegalOperand => if g.rndBad p || g.trappcBad e p then some .illegalField else some .illegalOperand
  | r => r

/-- Whether the checks themselves wait: for the `tset` of the shape whose format they read (R233, R235). -/
def State.checkWaits (s : State) (g : Group) (p : Parts) : Bool :=
  match p.f with
  | .r f => p.op == 0xB0 && p.mods.modx.rnd != 0 && p.check == some .illegalOperand &&
      s.ops.any fun o => o.g == g.id && o.dests.contains (.t f.b.toNat)
  | _ => false

/-- A unit at a fragment's boundary: what the boundary holds, or else the unit; a step that would post more than the on-die
queue holds does not happen (R44). -/
def State.atUnit (s : State) (g : Group) (e : Nat) (unit : State → State) : State :=
  s.unlessHeld (match s.boundary g e with
    | some s1 => s1
    | none => unit s)

/-- The checks of R115, then the unit. -/
def State.checked (s : State) (i : Instr) (g : Group) (e : Nat) (body : Frag → State → Res) : State :=
  match i.parts with
  | none => s
  | some p =>
    if s.checkWaits g p then s
    else
      match g.unitCheck e p with
      | some r => State.trapped g.id e (g.entry e) (Trap.at_ (rejectCode r) (g.entry e).pc) s s
      | none => s.legalUnit p g e ((g.entry e).pc + BitVec.ofNat 32 (4 * p.words)) body

/-- ISSUE of an instruction by the fragment that the slot chose, with its meaning. -/
def issue (i : Instr) (s : State) (body : Frag → State → Res) : Host.Outcome State Fault Refusal :=
  match s.issuing with
  | none => .fault .noIssuingFragment
  | some (g, e) => .next ({ s with issued := false }.atUnit g e fun s0 => s0.checked i g e body)

/-- A step of the device: it happens, and what it ends settles; a step that would post more than the on-die queue holds
does not happen (R44). -/
def deviceStep (s : State) (f : State → State) : Host.Outcome State Fault Refusal :=
  .next (s.unlessHeld (f s).settle)

end Sys2Proof.Machine
end

