-- ==== Sys2Proof/Machine/Commands.lean ====
section
/-! DEFINITION. Commands: acceptance (R35 to R40, R367), their order and records (R42), contexts (R33, R34, R37), LOAD, UNLOAD,
START, TRANSFER, JSIGN, FW_UPDATE, and the resets (R41, R45). -/
namespace Sys2Proof.Machine

/-! ## Arguments -/

/-- A field of a command, `n` bytes at a byte offset. -/
def argOf (b : List Byte) (off n : Nat) : Nat := ofBytes ((b.drop off).take n)

/-- Whether bytes `off` to 63 of a command are zero. -/
def zeroFrom (b : List Byte) (off : Nat) : Bool := argOf b off (64 - off) == 0

/-- Reserved and unused bits of a command (Table 03-3, Table 03-4, Table 19-7, R360, R361). -/
def cmdForm (b : List Byte) : Bool :=
  argOf b 0 1 == 1 && argOf b 2 3 == 0 &&
    (match argOf b 1 1 with
    | 1 => argOf b 24 1 < 2 && argOf b 25 7 == 0 && argOf b 44 1 < 8 && argOf b 45 1 == 0 && zeroFrom b 48
    | 2 | 9 => zeroFrom b 8
    | 3 => zeroFrom b 24
    | 4 | 5 => zeroFrom b 16
    | 6 => argOf b 18 2 == 0 && zeroFrom b 24
    | 7 => argOf b 24 1 < 2 && zeroFrom b 25
    | 8 => zeroFrom b 40
    | 10 => argOf b 24 1 < 2 && argOf b 25 7 == 0
    | 11 => zeroFrom b 24
    | _ => false)

/-- Whether a page-table root may be given (R367). -/
def rootOk (r : Nat) : Bool := r % 8192 == 0 && r + 8192 ≤ Config.memTop

/-- Ranges of CTX_CREATE and MIGRATE_IN (R367). -/
def cmdRange (b : List Byte) : Bool :=
  match argOf b 1 1 with
  | 1 => rootOk (argOf b 8 8) && 1 ≤ argOf b 32 2 && argOf b 32 2 ≤ 384 && 1 ≤ argOf b 34 2 && argOf b 34 2 ≤ 128 && argOf b 46 2 != 0
  | 8 => rootOk (argOf b 8 8)
  | _ => true

/-- Whether no command of a context is under way. -/
def Context.idle (x : Context) : Bool := x.accepted.isEmpty && x.started.isEmpty

/-- The context states of Table 03-1 that a command may name. -/
def State.ctxAllows (s : State) (c opc : Nat) : Bool :=
  let x := s.ctx c
  let free := x.st == .free && x.idle
  match opc with
  | 1 | 8 => free
  | 9 | 10 => !free
  | 5 => x.st == .open_ && (!x.conf || x.key.isSome)
  | _ => x.st == .open_

/-- Bytes at a global address of a context (R367); none when they cannot be read. -/
def State.readGlobal (s : State) (c va n : Nat) : Option (List Byte) :=
  match s.readVirt c va n with
  | .ok bs => some bs
  | .error _ => none

/-- Validation of a command (R40, R367; order: log 31): what acceptance captures with it, or a reason of Table 03-6. -/
def State.validate (s : State) (b : List Byte) : Except Nat (List Byte) :=
  let opc := argOf b 1 1
  let c := argOf b 5 1
  if !cmdForm b || (opc != 11 && 64 ≤ c) then .error reasonBadCommand
  else if opc != 11 && !s.ctxAllows c opc then .error reasonCtxState
  else if !cmdRange b then .error reasonBadCommand
  else
    match opc with
    | 5 =>
      (match (if argOf b 8 8 % 64 == 0 then s.readGlobal c (argOf b 8 8) 256 else none) with
      | none => .error reasonBadRcb
      | some rcb =>
        match s.checkRcb c (s.ctx c).deflt (ofBytes rcb) with
        | .error r => .error r
        | .ok _ => .ok rcb)
    | 6 =>
      (match s.objByTag c (argOf b 8 8) with
      | none => .error reasonUnknown
      | some o =>
        match (s.requestXfer c o.id (argOf b 16 2) (argOf b 20 4) none none).1 with
        | 0 => .ok []
        | r => .error r)
    | _ => .ok []

/-! ## Acceptance -/

/-- ACCEPT n as it reads (Table 03-5). -/
def Accept.word (a : Accept) : Nat := a.seq % 2 ^ 40 * 2 ^ 24 + a.ticket * 256 + a.outcome

/-- The groups of a context issue nothing more (R34). -/
def State.stopCtx (s : State) (c : Nat) : State := s.mapGroups fun g => if g.ctx == c then { g with stopped := true } else g

/-- What acceptance of a command does besides its record (R33, R34, R288). -/
def State.onAccept (s : State) (k : Cmd) : State :=
  if k.opc == 11 then { s with fwq := s.fwq ++ [k] }
  else
    let s1 := s.modCtx k.ctx fun x => { x with accepted := x.accepted ++ [k] }
    match k.opc with
    | 2 => (s1.modCtx k.ctx fun x => { x with st := .closing }).stopCtx k.ctx
    | 7 => s1.modCtx k.ctx fun x => { x with st := .closing }
    | 6 =>
      (match s1.objByTag k.ctx (argOf k.bytes 8 8) with
      | some o => (s1.requestXfer k.ctx o.id (argOf k.bytes 16 2) (argOf k.bytes 20 4) none (some k.seq)).2
      | none => s1)
    | _ => s1

/-- A command is taken from slot `n` (R38, R40): its record, and what its acceptance does. -/
def State.takeCmd (s : State) (n : Nat) (b : List Byte) : State :=
  let opc := argOf b 1 1
  let c := argOf b 5 1
  let ticket := argOf b 6 2
  let seq := s.journal.length
  let arg := n * 65536 + ticket
  let put (s : State) (outcome : Nat) : State :=
    { s with accept := s.accept.set n { seq := seq, ticket := ticket, outcome := outcome } }
  match s.validate b with
  | .error r => put (s.post none opc c 2 r arg) 2
  | .ok more => (put (s.post none opc c 1 0 arg) 1).onAccept { seq := seq, ctx := c, opc := opc, bytes := b ++ more }

/-- A read of ACCEPT n (R38, R39); a warm reset that is under way takes no command (R45). -/
def State.readAccept (s : State) (n : Nat) : State :=
  let b := s.intake[n]?.getD []
  let a := (s.accept[n]?).getD { seq := 0, ticket := 0, outcome := 0 }
  let answer (s : State) (a : Accept) : State := { s with reply := some (.value a.word) }
  if 256 ≤ n then { s with reply := some (.value 0) }
  else if s.resetting || argOf b 0 1 == 0 || (a.outcome != 0 && argOf b 6 2 == a.ticket) then answer s a
  else if s.jfull then answer s { a with outcome := 3 }
  else
    let s1 := s.takeCmd n b
    answer s1 ((s1.accept[n]?).getD a)

/-- ACCEPT_READ (R38). -/
def execAcceptRead (n : Nat) (s : State) : Host.Outcome State Fault Refusal := deviceStep s fun s => s.readAccept n

/-- JACK_WRITE (R35, R44). -/
def execJackWrite (v : Nat) (s : State) : Host.Outcome State Fault Refusal :=
  deviceStep s fun s =>
    if v < s.jack then s
    else
      let s1 : State := { s with jack := min v s.jhead }
      s1.drainQueue s1.jqueue

/-- MSIX_HOLDOFF_EXPIRY (R353). -/
def execMsixHoldoffExpiry (s : State) : Host.Outcome State Fault Refusal :=
  deviceStep s fun s =>
    { s with msix := s.msix.map fun p => if p.2.2 && p.2.1 + 2000 ≤ s.time then (p.1, s.time, false) else p }

/-! ## Starting and ending commands -/

/-- The next command of a context, if it is one of code `opc` (R40: they start in SEQ order); none during a warm reset (R45). -/
def State.nextCmd (s : State) (c opc : Nat) : Option Cmd :=
  match (s.ctx c).accepted with
  | k :: _ => if k.opc == opc && !s.resetting then some k else none
  | [] => none

/-- A command starts: its STARTED record (R42). -/
def State.beginCmd (s : State) (k : Cmd) : State :=
  (s.post (some k.seq) k.opc k.ctx 3 0 0).modCtx k.ctx fun x =>
    { x with accepted := x.accepted.filter (fun d => d.seq != k.seq), started := x.started ++ [k] }

/-- A started command completes with a result. -/
def State.completeCmd (s : State) (k : Cmd) (arg : Nat) : State := s.endCmd k.ctx k.seq k.opc 4 0 arg

/-- A started command fails with a reason. -/
def State.failCmd (s : State) (k : Cmd) (reason : Nat) : State := s.endCmd k.ctx k.seq k.opc 5 reason 0

/-- Runs the next command of a context, if it has code `opc`, from the state after its STARTED record. -/
def State.runCmd (s : State) (c opc : Nat) (f : Cmd → State → State) : State :=
  match s.nextCmd c opc with
  | some k => f k (s.beginCmd k)
  | none => s

/-! ## Contexts -/

/-- Effective values that CTX_CREATE gives (Table 03-4); `b` starts at the budget. -/
def defaultsOf (b : List Byte) : Eff :=
  { cores := argOf b 0 2, vregs := argOf b 2 2, spad := argOf b 4 4, priv := argOf b 8 4, prio := argOf b 12 1 % 8, weight := argOf b 14 2,
    fdom := false, fpin := false }

/-- A context opens (R37, R361). -/
def State.openCtx (s : State) (c root reserve : Nat) (conf : Bool) (d : Eff) : State :=
  let s1 := s.modCtx c fun x => { x with st := .open_, root := root, reserve := reserve, conf := conf, deflt := d, xkey := s.nextId }
  { s1 with nextId := s1.nextId + 1 }

/-- CTX_CREATE (R37). -/
def execCtxCreate (c : Nat) (s : State) : Host.Outcome State Fault Refusal :=
  deviceStep s fun s => s.runCmd c 1 fun k s =>
    (s.openCtx c (argOf k.bytes 8 8) (argOf k.bytes 16 8) (bitOf (argOf k.bytes 24 1) 0) (defaultsOf (k.bytes.drop 32))).completeCmd k 0

/-- Every reference of a context to resident objects is released (R18, R33). -/
def State.releaseRefs (s : State) (c : Nat) : State :=
  let drop (o : Obj) : Obj :=
    let refs := o.refs.filter fun d => d != c
    { o with refs := refs, draining := o.draining || refs.isEmpty }
  ({ s with objs := s.objs.map drop } : State).freeObjs

/-- Every group of a context is killed and its regions are gone (R34, R265). -/
def State.killCtx (s : State) (c : Nat) : State :=
  let s1 := (s.groups.filter fun g => g.ctx == c).foldl (fun (s : State) g => s.killGroup g.id) s
  let rs := s1.regions.filter fun r => r.ctx == c
  let s2 := rs.foldl (fun (s : State) r => s.regionRelease r) s1
  ({ s2 with regions := s2.regions.filter (fun r => r.ctx != c), xfers := s2.xfers.filter fun x => x.ctx != c } : State).releaseRefs c

/-- Commands by SEQ. -/
def insertCmd (k : Cmd) : List Cmd → List Cmd
  | [] => [k]
  | d :: ds => if k.seq < d.seq then k :: d :: ds else d :: insertCmd k ds

/-- Unfinished commands of a context up to a SEQ fail with a reason, in SEQ order (R34). -/
def State.failAll (s : State) (c before reason : Nat) : State :=
  let x := s.ctx c
  let ks := ((x.started ++ x.accepted).filter fun k => k.seq < before).foldl (fun acc k => insertCmd k acc) []
  ks.foldl (fun (s : State) k =>
    (if (s.ctx c).accepted.any fun d => d.seq == k.seq then s.beginCmd k else s).failCmd k reason) s

/-- A context ends as by CTX_DESTROY (R34): groups killed, commands before `before` failed. -/
def State.destroyCtx (s : State) (c before reason : Nat) : State :=
  ((s.killCtx c).failAll c before reason).modCtx c fun x => { x with st := .closing, migrating := none, halt := false, saveReq := false }

/-- CTX_DESTROY (R34). -/
def execCtxDestroy (c : Nat) (s : State) : Host.Outcome State Fault Refusal :=
  deviceStep s fun s =>
    match (s.ctx c).accepted.find? fun k => k.opc == 2 && !s.resetting with
    | none => s
    | some k => ((s.destroyCtx c k.seq 0x2E).beginCmd k).modCtx c fun x => { x with closing := some k }

/-- Scratchpad bytes and poison bits outside every placed range are cleared (R34). -/
def State.clearSpads (s : State) : State :=
  let held (core off : Nat) : Bool := (s.spadRanges core).any fun r => r.1 ≤ off && off < r.1 + r.2
  let keep (k : Nat) : Bool := !isSpadKey k || held (spadCore k) (spadOff k)
  { s with mem := s.mem.filter (fun c => keep c.1), wlog := s.wlog.filter (fun w => keep w.key),
           spoison := s.spoison.filter fun l => held (l / 8192) (l % 8192 * 64) }

/-- Whether a CLOSING context may become FREE (R33). -/
def State.closable (s : State) (c : Nat) : Bool :=
  let x := s.ctx c
  x.st == .closing && !(s.groups.any fun g => g.ctx == c) && !(s.ops.any fun o => o.ctx == c) && !(s.objs.any fun o => o.refs.contains c) &&
    x.accepted.isEmpty && x.started.all fun k => (x.closing.map Cmd.seq) == some k.seq

/-- A CLOSING context becomes FREE (R33, R34): key slot and memory cleared, cached translations dropped. -/
def State.closeCtx (s : State) (c : Nat) : State :=
  if !s.closable c then s
  else
    let s1 : State := { s.clearSpads with tlb := s.tlb.filter fun t => t.ctx != c }
    let s2 := match (s.ctx c).closing with
      | some k => s1.completeCmd k 0
      | none => s1
    s2.modCtx c fun _ => Context.free

/-- CONTEXT_CLOSE_COMPLETE (R33). -/
def execContextCloseComplete (c : Nat) (s : State) : Host.Outcome State Fault Refusal := deviceStep s fun s => s.closeCtx c

/-! ## Objects -/

/-- LOAD (R17, R32, R367). -/
def execLoad (c : Nat) (s : State) : Host.Outcome State Fault Refusal :=
  deviceStep s fun s => s.runCmd c 3 fun k s =>
    let va := argOf k.bytes 8 8
    match s.readGlobal c va (argOf k.bytes 16 8) with
    | none => s.failCmd k 0x01
    | some img =>
      match s.makeResident c img va with
      | .error r => s.failCmd k r
      | .ok (tag, s1) => s1.completeCmd k tag

/-- A reference of a context to an object is released; at zero the object drains (R18). -/
def State.unref (s : State) (c o : Nat) : State :=
  ({ s with objs := s.objs.map fun p =>
      if p.id == o then
        let refs := p.refs.erase c
        { p with refs := refs, draining := refs.isEmpty }
      else p } : State).freeObjs

/-- UNLOAD (R18). A tag that is unknown or draining fails with Table 03-6's reason for it (log 60). -/
def execUnload (c : Nat) (s : State) : Host.Outcome State Fault Refusal :=
  deviceStep s fun s => s.runCmd c 4 fun k s =>
    match s.objByTag c (argOf k.bytes 8 8) with
    | none => s.failCmd k reasonUnknown
    | some o => if o.draining then s.failCmd k reasonDraining else (s.unref c o.id).completeCmd k 0

/-! ## START and TRANSFER -/

/-- START (R40, R47): the region of the RCB that acceptance read (log 29). -/
def execStart (c : Nat) (s : State) : Host.Outcome State Fault Refusal :=
  deviceStep s fun s => s.runCmd c 5 fun k s =>
    let x := ofBytes (k.bytes.drop 64)
    match s.checkRcb c (s.ctx c).deflt x with
    | .error r => s.failCmd k r
    | .ok o => s.addRegion (regionOf 0 c (argOf k.bytes 8 8) k.seq none (s.ctx c).deflt o x) 0

/-- TRANSFER (R288): pending since acceptance; it completes when no group is pending. -/
def execTransfer (c : Nat) (s : State) : Host.Outcome State Fault Refusal :=
  deviceStep s fun s => s.runCmd c 6 fun k s =>
    match s.xfers.find? fun x => x.ctx == c && x.cmd == some k.seq with
    | some x =>
      if x.active then s
      else
        let rest := s.xfers.map fun y => if y == x then { y with cmd := none } else y
        ({ s with xfers := rest.filter fun y => y.target != 0xFFFF } : State).completeCmd k x.moved
    | none => s.completeCmd k 0

/-! ## JSIGN and FW_UPDATE -/

/-- JSIGN (R43). -/
def execJsign (c : Nat) (s : State) : Host.Outcome State Fault Refusal :=
  deviceStep s fun s => s.runCmd c 9 fun k s => s.signHead.completeCmd k s.jhead

/-- FW_UPDATE (R360). The CTX of its records is the byte that the command gave (log 60). -/
def execFwUpdate (s : State) : Host.Outcome State Fault Refusal :=
  deviceStep s fun s =>
    match s.fwq, s.resetting with
    | [], _ => s
    | _, true => s
    | k :: rest, false =>
      let n := argOf k.bytes 16 8
      let img := s.peekN (hostKey (argOf k.bytes 8 8)) n
      let s1 := ({ s with fwq := rest } : State).post (some k.seq) 11 k.ctx 3 0 0
      let fin (s : State) (state reason : Nat) : State := s.post (some k.seq) 11 k.ctx state reason 0
      if n < 70 || !Config.firmwareSigned img then fin s1 5 0x60
      else if argOf img 4 2 < s.fwMin then fin s1 5 0x61
      else fin { s1 with fwStaged := some img } 4 0

/-! ## Resets -/

/-- COLD_RESET (R41, R360): every register takes its reset value; staged firmware activates. -/
def execColdReset (s : State) : Host.Outcome State Fault Refusal :=
  let fw := s.fwStaged.getD s.fwRunning
  let svn := match s.fwStaged with
    | some f => max s.fwMin (argOf f 4 2)
    | none => s.fwMin
  .next { State.boot (s.boots + 1) fw svn with agenda := s.agenda, free := s.free, nextId := s.nextId }

/-- Registers of window A return to their reset values, DEVNUM excepted, which stays written (log 60); CYCLES and temperatures are
no registers of it (R45 step 5). -/
def State.resetRegisters (s : State) : State :=
  let isl := s.power.isl.map fun i => { Island.reset with mcyc := i.mcyc }
  { s with power := { Power.reset with isl := isl, temp := s.power.temp }, obs := Observe.reset, intmap := List.replicate 65 0,
           hostwin := List.replicate 128 (0, 0), errsCor := 0, errsUnc := 0, links := List.replicate 12 Link.reset, lto := 100,
           xinvq := [], xdone := 0, tlb := [], msix := [], reply := none, intake := List.replicate 256 (List.replicate 64 0),
           accept := List.replicate 256 { seq := 0, ticket := 0, outcome := 0 } }

/-- Contexts that are not FREE, or have a command under way. -/
def State.liveCtxs (s : State) : List Nat := (List.range 64).filter fun c => !((s.ctx c).st == .free && (s.ctx c).idle)

/-- Commands that fail in SEQ order with 0x2F, each after its STARTED record (R45). -/
def State.failReset (s : State) (ks : List Cmd) : State :=
  (ks.foldl (fun acc k => insertCmd k acc) []).foldl (fun (s : State) k =>
    let waits := k.opc == 11 || ((s.ctx k.ctx).accepted.any fun d => d.seq == k.seq)
    (if waits then s.beginCmd k else s).failCmd k 0x2F) s

/-- A warm reset begins (R45 step 1): no command is taken, the groups of every context are killed, and their operations go on. -/
def State.abandon (s : State) : State :=
  let live := s.liveCtxs
  let s1 := live.foldl (fun (s : State) c =>
    (s.killCtx c).modCtx c fun x => { x with st := .closing, migrating := none, halt := false, saveReq := false }) s
  { s1 with resetting := true }

/-- A warm reset ends once every operation has completed (R45): contexts, objects and regions are gone, commands under way get their
FAILED records, then the RESET record is written and the registers return to their reset values. -/
def State.endReset (s : State) : State :=
  let s1 := s.failReset ((s.liveCtxs.flatMap fun c => (s.ctx c).started ++ (s.ctx c).accepted) ++ s.fwq)
  let s2 := (s1.event 0x80 0xFF 0 (s.boots % 2 ^ 63 + 2 ^ 63)).resetRegisters
  { s2 with fwq := [], ctxs := List.replicate 64 Context.free, groups := [], regions := [], objs := [], wgs := [], mailboxes := [],
            xfers := [], sideboard := [], outq := [], inq := [], passes := [], slots := [], txbs := [], landed := [], resetting := false }.clearSpads

/-- WARM_RESET (R45): begins a warm reset, or goes on with one; it ends when no operation is outstanding (log 61). -/
def execWarmReset (s : State) : Host.Outcome State Fault Refusal :=
  deviceStep s fun s =>
    let s1 := s.abandon
    if s1.ops.isEmpty then s1.endReset else s1

end Sys2Proof.Machine
end

