-- ==== Sys2Proof/Machine/Flags.lean ====
section
/-! DEFINITION. Conditions: the relations that `scmp`, `icmp` and `brc` rest on (R131, R136, Table 07-8). The KX2 has no
condition-code register; its flags are the bits of M registers and words of 0 or 1. -/
namespace Sys2Proof.Machine

/-- A relation by its COND code (Table 07-8): 0 eq, 1 ne, 2 lt, 3 le, 4 gt, 5 ge. -/
def relation (code : Nat) (a b : Int) : Bool :=
  match code with
  | 0 => a == b
  | 1 => a != b
  | 2 => decide (a < b)
  | 3 => decide (a ≤ b)
  | 4 => decide (b < a)
  | _ => decide (b ≤ a)

/-- A relation of w-bit patterns, signed or unsigned as the opcode gives. -/
def compareBits (code : Nat) (signed : Bool) (w a b : Nat) : Bool :=
  if signed then relation code (toSigned w a) (toSigned w b)
  else relation code ((a % 2 ^ w : Nat) : Int) ((b % 2 ^ w : Nat) : Int)

/-- A word that is 1 when a relation holds, else 0. -/
def flagWord (b : Bool) : Nat := if b then 1 else 0

end Sys2Proof.Machine
end

