-- ==== Sys2Proof/Machine/Control.lean ====
section
/-! DEFINITION. Branches, joins, calls and exits (R121 to R129), with the trace packets that they write (Table 21-3). -/
namespace Sys2Proof.Machine

/-- Sets the fragment's PC for all its lanes. -/
def Frag.setPc (f : Frag) (s : State) (pc : Word) : State := f.upd s fun g => g.modEntry f.e fun y => { y with pc := pc }

/-- A branch target (R104): `off` counts words from the word after the unit. -/
def Frag.target {n : Nat} (f : Frag) (off : BitVec n) : Word := f.next + 4 * off.signExtend 32

/-- The entry that holds a path. -/
def Group.holder (g : Group) (m : Word) : Nat := (entryIds.find? fun e => (g.entry e).isFragment && ((g.entry e).mask == m || (g.entry e).fold.any fun f => f.lanes == m)).getD 0

/-- A path of a branch: its lanes, its PC, and TORD and TDW of its packet (Table 21-3). -/
structure BPath where
  lanes : Word
  pc : Word
  tord : Nat
  tdw : Nat
  deriving DecidableEq, Repr

/-- Paths in the order of their lowest lanes, without empty ones. -/
def orderPaths (ps : List BPath) : List BPath := lanes32.flatMap fun l => ps.filter fun p => lowLane p.lanes == l

/-- BRANCH packets of a branch, after it (Table 21-3). -/
def Frag.branchTrace (f : Frag) (s : State) (ps : List BPath) : State :=
  (orderPaths ps).foldl (fun (s : State) p =>
    s.branchPacket f.g.id f.e p.lanes p.tord (p.tdw % 65536) (((s.group? f.g.id).map fun g => g.holder p.lanes).getD 0)) s

/-- `split` over paths (R120), with R78, and the packets. -/
def Frag.branch (f : Frag) (s : State) (ps : List BPath) : Res :=
  match (s.group? f.g.id).bind fun g => g.split f.e (ps.map fun p => (p.lanes, p.pc)) with
  | none => f.raise s trapSplit
  | some g => .ok (f.branchTrace (f.upd s fun _ => g) ps)

/-- What follows a unit that runs to its end without a trap. -/
def Res.after (r : Res) (f : State → State) : Res :=
  match r with
  | .ok s => .ok (f s)
  | r => r

/-- One path of all the fragment's lanes: it sets the PC and never splits. -/
def Frag.goTo (f : Frag) (s : State) (pc : Word) (tord tdw : Nat) : Res :=
  .ok (f.branchTrace (f.setPc s pc) [{ lanes := f.x.mask, pc := pc, tord := tord, tdw := tdw }])

/-- Pushes a link on the return stack, whose oldest entry is dropped when it is full (R127). -/
def Group.pushLink (g : Group) (l : Word) : Group := { g with rstack := (l :: g.rstack).take 8 }

/-- Pops the return stack (R127). -/
def Group.popLink (g : Group) : Group := { g with rstack := g.rstack.drop 1 }

/-- The paths that equal values give (R126), with the bin of each target. -/
def valuePaths (v : Version) (m : Word) (t : Nat → Word) : List BPath :=
  (lanesOf m).filterMap fun l =>
    let p := maskOf fun k => laneIn m k && t k == t l
    let b := v.bin (t l).toNat
    if lowLane p == l then some { lanes := p, pc := t l, tord := b.1, tdw := b.2 } else none

/-- The paths of `brm` (R124): each lane goes to the first pair whose mask holds it. -/
def brmPaths (f : Frag) : List Target → Nat → Word → List BPath
  | [], _, rest => [{ lanes := rest, pc := f.next, tord := 0, tdw := 0 }]
  | t :: ts, n, rest =>
    let l := rest &&& f.g.mreg f.x.mask t.msel.toNat
    { lanes := l, pc := f.target t.off, tord := 0, tdw := n } :: brmPaths f ts (n + 1) (rest &&& ~~~l)

/-- MASK packets of join waits that resumed between two states (Table 21-3). -/
def State.resumedTrace (s : State) (g : Group) : State :=
  match s.group? g.id with
  | none => s
  | some h =>
    (entryIds.filter fun e => (g.entry e).st == .joinWait && (h.entry e).isFragment).foldl
      (fun (s : State) e => s.maskPacket g.id e (h.entry e).mask 4) s

/-- NOP (R122). -/
def execNop (m : Mods) (f : RF) (s : State) : Host.Outcome State Fault Refusal := issue (.nop m f) s fun _ s => .ok s

/-- BRA (R122). -/
def execBra (m : Mods) (f : BF) (s : State) : Host.Outcome State Fault Refusal :=
  issue (.bra m f) s fun u s => .ok (u.setPc s (u.target f.off))

/-- Whether a word may stand between a folded branch and where its paths meet (R82): no stop site, collective, `jset`, `join`, nor an
instruction that can park a fragment (R75). -/
def foldWord (w : Word) : Bool :=
  let op := bitsOf w.toNat 31 24
  !bitOf w.toNat 0 && !((0x66 ≤ op && op ≤ 0x6E) || [0x06, 0x07, 0xAA, 0xB7, 0xB9, 0xBA, 0xBC, 0xBF].contains op)

/-- Whether the KX2 may fold a `brc` at this unit to a target (R82): the target within 16 words, no yield hint, and nothing between
the branch and where its paths meet that forbids it. -/
def Frag.mayFold (f : Frag) (v : Version) (t : Word) : Bool :=
  let b := f.next.toNat / 4 - 1
  let to_ := t.toNat / 4
  let words := if b < to_ then (v.code.drop (b + 1)).take (to_ - b - 1) else (v.code.drop to_).take (b - to_)
  !((f.m.h.map ModH.yield).getD false) && b ≤ to_ + 16 && to_ ≤ b + 16 && words.all foldWord

/-- The path that a folded branch runs first and what it masks off until the paths meet (R82): at the target of a forward branch,
after a backward one. -/
def Frag.folded (f : Frag) (s : State) (t : Word) (tgt : Word) : State :=
  let fwd := f.next.toNat ≤ tgt.toNat
  let run := if fwd then f.x.mask &&& ~~~t else t
  f.upd s fun g => g.modEntry f.e fun y =>
    { y with mask := run, pc := if fwd then f.next else tgt,
             fold := { meet := if fwd then tgt else f.next, lanes := f.x.mask &&& ~~~run, inH := y.inH } :: y.fold }

/-- The paths of `brc` (R123). -/
def Frag.brcPaths (u : Frag) (f : IF) : List BPath :=
  let t := u.x.mask &&& u.g.mreg u.x.mask f.a.toNat
  [{ lanes := t, pc := u.target f.imm, tord := 0, tdw := 1 }, { lanes := u.x.mask &&& ~~~t, pc := u.next, tord := 0, tdw := 0 }]

/-- Whether a `brc` is divergent and may be folded (R82, R123). -/
def Frag.foldsBrc (u : Frag) (s : State) (f : IF) : Bool :=
  let t := u.x.mask &&& u.g.mreg u.x.mask f.a.toNat
  t != 0 && t != u.x.mask && u.mayFold (s.versionOf u.g) (u.target f.imm)

/-- BRC (R123): a branch that may be folded is folded by a free choice (R82, log 23). -/
def execBrc (m : Mods) (f : IF) (s : State) : Host.Outcome State Fault Refusal :=
  issue (.brc m f) s fun u s =>
    if u.foldsBrc s f then
      let s1 : State := { s with free := s.free + 1 }
      if Config.freeBit s.free then
        .ok (u.branchTrace (u.folded s1 (u.x.mask &&& u.g.mreg u.x.mask f.a.toNat) (u.target f.imm)) (u.brcPaths f))
      else u.branch s1 (u.brcPaths f)
    else u.branch s (u.brcPaths f)

/-- BRC_U (R123). -/
def execBrcU (m : Mods) (f : IF) (s : State) : Host.Outcome State Fault Refusal :=
  issue (.brcU m f) s fun u s => if u.g.getS f.a.toNat = 0 then u.goTo s u.next 0 0 else u.goTo s (u.target f.imm) 0 1

/-- BRM (R124). -/
def execBrm (m : Mods) (f : RF) (ts : List Target) (s : State) : Host.Outcome State Fault Refusal :=
  issue (.brm m f ts) s fun u s => u.branch s (brmPaths u ts 1 u.x.mask)

/-- JSET (R125). -/
def execJset (m : Mods) (f : BF) (s : State) : Host.Outcome State Fault Refusal :=
  issue (.jset m f) s fun u s =>
    match (s.group? u.g.id).bind fun g => g.jset u.e (u.target f.off) u.next with
    | none => u.raise s trapSplit
    | some p => .ok (u.upd s fun _ => p.1)

/-- JOIN (R125): a fragment that leaves so is no longer awaited by a transfer, which settles (R288). -/
def execJoin (m : Mods) (f : RF) (s : State) : Host.Outcome State Fault Refusal :=
  issue (.join m f) s fun u s =>
    if u.x.pc == u.x.join && u.x.parent < 72 then
      .post (((u.upd s fun g => g.joinAt u.e).maskPacket u.g.id u.e 0 2).resumedTrace u.g)
    else .ok s

/-- CALL (R126, R127). -/
def execCall (m : Mods) (f : IF) (s : State) : Host.Outcome State Fault Refusal :=
  issue (.call m f) s fun u s =>
    .ok (u.setPc (u.upd s fun g => (g.setV f.a.toNat u.x.mask fun _ => u.next).pushLink u.next) (u.target f.imm))

/-- CALL_U (R126, R127). -/
def execCallU (m : Mods) (f : IF) (s : State) : Host.Outcome State Fault Refusal :=
  issue (.callU m f) s fun u s =>
    .ok (u.setPc (u.upd s fun g => (g.setS f.a.toNat u.next).pushLink u.next) (u.target f.imm))

/-- RET (R126, R127). -/
def execRet (m : Mods) (f : RF) (s : State) : Host.Outcome State Fault Refusal :=
  issue (.ret m f) s fun u s =>
    (u.branch s (valuePaths (s.versionOf u.g) u.x.mask fun l => u.g.getV f.b.toNat l)).after fun s => u.upd s Group.popLink

/-- RET_U (R126, R127). -/
def execRetU (m : Mods) (f : RF) (s : State) : Host.Outcome State Fault Refusal :=
  issue (.retU m f) s fun u s =>
    let t := u.g.getS f.b.toNat
    let b := (s.versionOf u.g).bin t.toNat
    u.goTo (u.upd s Group.popLink) t b.1 b.2

/-- JMPI (R126). -/
def execJmpi (m : Mods) (f : RF) (s : State) : Host.Outcome State Fault Refusal :=
  issue (.jmpi m f) s fun u s => u.branch s (valuePaths (s.versionOf u.g) u.x.mask fun l => u.g.getV f.b.toNat l)

/-- EXIT (R129, R83). -/
def execExit (m : Mods) (f : RF) (s : State) : Host.Outcome State Fault Refusal :=
  issue (.exit m f) s fun u s =>
    .post (((s.maskPacket u.g.id u.e 0 0).loseLanes u.g.id u.x.mask true).resumedTrace u.g)

end Sys2Proof.Machine
end

