-- ==== Sys2Proof/Machine/Shapes.lean ====
section
/-! DEFINITION. Shape registers: fields, validity, footprints, and the elements read and written through them (R219 to
R225). -/
namespace Sys2Proof.Machine

/-! ## Fields -/

/-- Low bit, width and signedness of a field by its code (Tables 13-1 and 13-6). -/
def shapeField (code : Nat) : Nat × Nat × Bool :=
  if code == 0 then (0, 64, false)
  else if code == 1 then (64, 64, false)
  else if code == 2 then (128, 4, false)
  else if code == 3 then (132, 4, false)
  else if code == 4 then (136, 2, false)
  else if code == 5 then (138, 3, false)
  else if code == 6 then (144, 32, false)
  else if code ≤ 10 then (176 + 24 * (code - 7), 24, false)
  else if code ≤ 13 then (272 + 32 * (code - 11), 32, false)
  else if code ≤ 17 then (368 + 16 * (code - 14), 16, false)
  else (432 + 20 * (code - 18), 20, true)

/-- A field of a shape as `tget` reads it (R236): ORIG sign-extended to 32 bits. -/
def getField (t : BitVec 512) (code : Nat) : Nat :=
  let f := shapeField code
  let x := bitsOf t.toNat (f.1 + f.2.1 - 1) f.1
  if f.2.2 then (sext f.2.1 32 x).toNat else x

/-- A shape with one field replaced by the low bits of a value (R236). -/
def setField (t : BitVec 512) (code v : Nat) : BitVec 512 :=
  let f := shapeField code
  BitVec.ofNat 512 (t.toNat - bitsOf t.toNat (f.1 + f.2.1 - 1) f.1 * 2 ^ f.1 + v % 2 ^ f.2.1 * 2 ^ f.1)

/-- The fields of a shape. Dimensions are lists of four; STRIDE0 is not used. -/
structure Shape where
  base : Nat
  sbase : Nat
  fmt : Nat
  planes : Nat
  layout : Nat
  ndim : Nat
  pstride : Nat
  dim : List Nat
  stride : List Nat
  box : List Nat
  orig : List Int
  deriving DecidableEq, Repr

/-- The fields of a shape register (Table 13-1). -/
def shapeOf (t : BitVec 512) : Shape :=
  let g := getField t
  { base := g 0, sbase := g 1, fmt := g 2, planes := g 3, layout := g 4, ndim := g 5, pstride := g 6, dim := [g 7, g 8, g 9, g 10],
    stride := [0, g 11, g 12, g 13], box := [g 14, g 15, g 16, g 17], orig := [g 18, g 19, g 20, g 21].map (toSigned 32) }

/-- A list's item, 0 beyond its end. -/
def nth (xs : List Nat) (d : Nat) : Nat := xs[d]?.getD 0

/-- An origin. -/
def Shape.org (h : Shape) (d : Nat) : Int := h.orig[d]?.getD 0

/-- Whether a format is KB, or an integer format. -/
def isKb (fmt : Nat) : Bool := fmt ≤ 2
def isInt (fmt : Nat) : Bool := fmt == 3 || fmt == 4

/-- Full count of planes of a format (Table 13-2). -/
def fullPlanes (fmt : Nat) : Nat :=
  match fmt with
  | 0 => 2
  | 1 => 4
  | 2 => 7
  | 3 => 4
  | 4 => 8
  | 5 => 8
  | _ => 11

/-- Fraction bits and exponent bits of BF16 and FP16. -/
def fracBits (fmt : Nat) : Nat := fullPlanes fmt - 1
def expBits (fmt : Nat) : Nat := if fmt == 5 then 8 else 5

/-- Bytes of a KB block in row layout (R150). -/
def blockBytes (fmt : Nat) : Nat := match fmt with | 0 => 8 | 1 => 12 | _ => 18

/-- Planes stored (Table 13-2). -/
def Shape.stored (h : Shape) : Nat := if isInt h.fmt then h.planes else h.planes + 1

/-- Dimensions that count, above the first. -/
def Shape.upper (h : Shape) : List Nat := [1, 2, 3].filter fun d => d < h.ndim

/-- Validity of a shape (R221 to R223). -/
def Shape.valid (h : Shape) : Bool :=
  let first (n : Nat) : Bool := nth h.dim 0 % n == 0 && (h.org 0) % (n : Int) == 0 && nth h.box 0 % n == 0
  h.fmt ≤ 6 && 1 ≤ h.ndim && h.ndim ≤ 4 &&
    (if h.layout == 0 then
      h.base % 4 == 0 && h.sbase == 0 && (!isKb h.fmt || first 16) && ((h.fmt != 5 && h.fmt != 6) || h.upper.all fun d => nth h.stride d % 2 == 0) &&
        (h.fmt != 3 || ((h.org 0) % 2 == 0 && nth h.box 0 % 2 == 0))
    else
      h.layout == 1 && h.base % 32 == 0 && h.pstride % 32 == 0 && (h.upper.all fun d => nth h.stride d % 8 == 0) && first 64 &&
        1 ≤ h.planes && h.planes ≤ fullPlanes h.fmt && (if isInt h.fmt then h.sbase == 0 else h.sbase % 32 == 0))

/-! ## Coordinates and addresses -/

/-- An index or coordinate in the four dimensions. -/
abbrev Coord := List Int

/-- The coordinate of a box index (R220). -/
def Shape.coord (h : Shape) (i : Coord) : Coord :=
  (List.range 4).map fun d => if d < h.ndim then h.org d + i[d]?.getD 0 else 0

/-- Whether a coordinate is in bounds (R220). -/
def Shape.inside (h : Shape) (c : Coord) : Bool :=
  (List.range h.ndim).all fun d => 0 ≤ c.getD d 0 && c.getD d 0 < (nth h.dim d : Int)

/-- A coordinate that is in bounds, as numbers. -/
def at_ (c : Coord) (d : Nat) : Nat := (c.getD d 0).toNat

/-- `off(c)` of R221. -/
def Shape.off (h : Shape) (c : Coord) : Nat :=
  at_ c 1 * nth h.stride 1 + at_ c 2 * nth h.stride 2 + at_ c 3 * nth h.stride 3

/-- Address and bytes of an element in row layout (R221). -/
def Shape.rowAt (h : Shape) (c : Coord) : Nat × Nat :=
  if isKb h.fmt then (h.base + at_ c 0 / 16 * blockBytes h.fmt + h.off c, blockBytes h.fmt)
  else if h.fmt == 4 then (h.base + at_ c 0 + h.off c, 1)
  else if h.fmt == 3 then (h.base + at_ c 0 / 2 + h.off c, 1)
  else (h.base + 2 * at_ c 0 + h.off c, 2)

/-- The word of plane `p` (R222). -/
def Shape.wordAt (h : Shape) (p : Nat) (c : Coord) : Nat := h.base + p * h.pstride + at_ c 0 / 64 * 8 + h.off c

/-- Address of an entry of the scale tile (R223): 2 bytes for KB, 1 for FP16 and BF16. -/
def Shape.scaleAt (h : Shape) (c : Coord) : Nat :=
  let row := (at_ c 3 * nth h.dim 2 + at_ c 2) * nth h.dim 1 + at_ c 1
  if isKb h.fmt then h.sbase + 2 * (row * (nth h.dim 0 / 16) + at_ c 0 / 16) else h.sbase + row * nth h.dim 0 + at_ c 0

/-- First and last in-bounds coordinate of the box; none when the box lies out of bounds. -/
def Shape.corners (h : Shape) : Option (Coord × Coord) :=
  let lo := (List.range 4).map fun d => if d < h.ndim then max (h.org d) 0 else 0
  let hi := (List.range 4).map fun d => if d < h.ndim then min (h.org d + nth h.box d) (nth h.dim d) - 1 else 0
  if (lo.zip hi).all fun p => p.1 ≤ p.2 then some (lo, hi) else none

/-- The bounding interval of the data, as addresses [lo, hi) (R190). -/
def Shape.dataSpan (h : Shape) : Option (Nat × Nat) :=
  h.corners.map fun q =>
    if h.layout == 0 then ((h.rowAt q.1).1, (h.rowAt q.2).1 + (h.rowAt q.2).2)
    else (h.wordAt 0 q.1, h.wordAt (h.stored - 1) q.2 + 8)

/-- The bounding interval of the scale tile, where the format and layout have one. -/
def Shape.scaleSpan (h : Shape) : Option (Nat × Nat) :=
  if h.layout == 0 || isInt h.fmt then none
  else h.corners.map fun q => (h.scaleAt q.1, h.scaleAt q.2 + if isKb h.fmt then 2 else 1)

/-! ## Elements -/

/-- An element: sign, magnitude or significand (an integer's two's complement pattern), exponent, micro-exponent. -/
structure Elem where
  neg : Bool
  mag : Nat
  e : Nat
  mu : Nat
  deriving DecidableEq, Repr

/-- The zero that an element out of bounds reads as (R220). -/
def Elem.zero : Elem := { neg := false, mag := 0, e := 0, mu := 0 }

/-- The number that bytes at an address stand for. -/
def readLe (rd : Nat → Byte) (a n : Nat) : Nat := ofBytes ((List.range n).map fun i => rd (a + i))

/-- An element in row layout. -/
def Shape.rowElem (h : Shape) (rd : Nat → Byte) (c : Coord) : Elem :=
  let p := h.rowAt c
  let v := readLe rd p.1 p.2
  let m := fullPlanes h.fmt
  let i := at_ c 0 % 16
  if isKb h.fmt then
    { neg := bitOf v (16 + i), mag := bitsOf v (32 + m * i + m - 1) (32 + m * i), e := v % 256,
      mu := bitsOf v (9 + 2 * (i / 4)) (8 + 2 * (i / 4)) }
  else if h.fmt == 4 then { Elem.zero with mag := v }
  else if h.fmt == 3 then { Elem.zero with mag := if at_ c 0 % 2 == 0 then v % 16 else v / 16 }
  else
    let fb := fracBits h.fmt
    let e := bitsOf v 14 fb
    { neg := bitOf v 15, mag := (if e == 0 then 0 else 2 ^ fb) + v % 2 ^ fb, e := e, mu := 0 }

/-- The bit of plane `p` that belongs to an element. -/
def Shape.planeBit (h : Shape) (rd : Nat → Byte) (c : Coord) (p : Nat) : Bool :=
  let b := at_ c 0 % 64
  bitOf (rd (h.wordAt p c + b / 8)).toNat (b % 8)

/-- An element in bit-plane layout; unread planes are zero bits (R224). -/
def Shape.planeElem (h : Shape) (rd : Nat → Byte) (c : Coord) : Elem :=
  let full := fullPlanes h.fmt
  let bit (p : Nat) : Nat := if h.planeBit rd c p then 1 else 0
  if isInt h.fmt then { Elem.zero with mag := (List.range h.planes).foldl (fun (a : Nat) p => a + bit p * 2 ^ (full - 1 - p)) 0 }
  else
    let mag := (List.range h.planes).foldl (fun (a : Nat) p => a + bit (p + 1) * 2 ^ (full - 1 - p)) 0
    let s := h.scaleAt c
    if isKb h.fmt then
      { neg := bit 0 == 1, mag := mag, e := (rd s).toNat, mu := bitsOf (rd (s + 1)).toNat (1 + 2 * (at_ c 0 % 16 / 4)) (2 * (at_ c 0 % 16 / 4)) }
    else { neg := bit 0 == 1, mag := mag, e := (rd s).toNat, mu := 0 }

/-- The element at a box index, as it is read (R220). -/
def Shape.elemAt (h : Shape) (rd : Nat → Byte) (i : Coord) : Elem :=
  let c := h.coord i
  if !h.inside c then Elem.zero else if h.layout == 0 then h.rowElem rd c else h.planeElem rd c

/-- The byte addresses from which an element is read. -/
def Shape.elemBytes (h : Shape) (i : Coord) : List Nat :=
  let c := h.coord i
  if !h.inside c then []
  else if h.layout == 0 then (List.range (h.rowAt c).2).map fun k => (h.rowAt c).1 + k
  else
    ((List.range h.stored).map fun p => h.wordAt p c + at_ c 0 % 64 / 8) ++
      (if isInt h.fmt then [] else if isKb h.fmt then [h.scaleAt c, h.scaleAt c + 1] else [h.scaleAt c])

/-! ## What a copy writes -/

/-- A unit that a copy writes: `len` bytes at an address, in the scale tile or plane `plane`, from the elements at some box
indices. -/
structure Piece where
  addr : Nat
  len : Nat
  scale : Bool
  plane : Nat
  els : List Coord
  deriving DecidableEq, Repr

/-- Elements of dimension 0 that are written together. -/
def Shape.runLen (h : Shape) : Nat :=
  if h.layout == 1 then 64 else if isKb h.fmt then 16 else if h.fmt == 3 then 2 else 1

/-- The first index of every run of the box. -/
def Shape.runs (h : Shape) : List Coord :=
  let n (d : Nat) : Nat := if d < h.ndim then nth h.box d else 1
  (List.range (n 3)).flatMap fun (i3 : Nat) => (List.range (n 2)).flatMap fun (i2 : Nat) => (List.range (n 1)).flatMap fun (i1 : Nat) =>
    (List.range (n 0 / h.runLen)).map fun (k : Nat) => [((k * h.runLen : Nat) : Int), (i1 : Int), (i2 : Int), (i3 : Int)]

/-- An index `k` elements further in dimension 0. -/
def stepIndex (i : Coord) (k : Nat) : Coord := (i[0]?.getD 0 + k) :: i.drop 1

/-- The pieces of one run; elements out of bounds are not written (R220). -/
def Shape.runPieces (h : Shape) (i : Coord) : List Piece :=
  let els := (List.range h.runLen).map (stepIndex i)
  let c := h.coord i
  if !h.inside c then []
  else if h.layout == 0 then
    [{ addr := (h.rowAt c).1, len := (h.rowAt c).2, scale := false, plane := 0, els := els.filter fun j => h.inside (h.coord j) }]
  else
    ((List.range h.stored).map fun p => { addr := h.wordAt p c, len := 8, scale := false, plane := p, els := els }) ++
      (if isInt h.fmt then []
      else if isKb h.fmt then (List.range 4).map fun k =>
        { addr := h.scaleAt (h.coord (stepIndex i (16 * k))), len := 2, scale := true, plane := 0, els := (els.drop (16 * k)).take 16 }
      else els.map fun j => { addr := h.scaleAt (h.coord j), len := 1, scale := true, plane := 0, els := [j] })

/-- Every piece of a destination shape. -/
def Shape.pieces (h : Shape) : List Piece := h.runs.flatMap h.runPieces

/-- The bit of an element in plane `p` (Table 13-2). -/
def planeOf (fmt p : Nat) (x : Elem) : Bool :=
  let full := fullPlanes fmt
  if isInt fmt then bitOf x.mag (full - 1 - p) else if p == 0 then x.neg else bitOf x.mag (full - p)

/-- A canonical NaN in place of a NaN, for a conversion from rows to planes (R225, R147). -/
def canonElem (fmt : Nat) (x : Elem) : Elem :=
  if !isKb fmt && !isInt fmt && x.e == 2 ^ expBits fmt - 1 && x.mag % 2 ^ fracBits fmt != 0 then
    { x with neg := false, mag := 3 * 2 ^ (fracBits fmt - 1) }
  else x

/-- The bytes of a piece from its elements; `old` is what its bytes hold (for a half-written byte of I4). -/
def Piece.bytes (p : Piece) (h : Shape) (xs : List Elem) (old : Nat) : List Byte :=
  let x := xs.headD Elem.zero
  let m := fullPlanes h.fmt
  let ix := xs.zipIdx
  if p.scale then
    (if isKb h.fmt then
      bytesOf 2 (x.e + 256 * (List.range 4).foldl (fun (a : Nat) g => a + (xs[4 * g]?.getD Elem.zero).mu * 4 ^ g) 0)
    else bytesOf 1 x.e)
  else if h.layout == 1 then
    bytesOf 8 (ix.foldl (fun (a : Nat) q => if planeOf h.fmt p.plane q.1 then a + 2 ^ q.2 else a) 0)
  else if isKb h.fmt then
    let mu := (List.range 4).foldl (fun (a : Nat) g => a + (xs[4 * g]?.getD Elem.zero).mu * 4 ^ g) 0
    let sg := ix.foldl (fun (a : Nat) q => if q.1.neg then a + 2 ^ q.2 else a) 0
    let mg := ix.foldl (fun (a : Nat) q => a + q.1.mag * 2 ^ (m * q.2)) 0
    bytesOf (blockBytes h.fmt) (x.e + mu * 2 ^ 8 + sg * 2 ^ 16 + mg * 2 ^ 32)
  else if h.fmt == 4 then bytesOf 1 x.mag
  else if h.fmt == 3 then bytesOf 1 (x.mag + 16 * (match xs with | [_, y] => y.mag | _ => old / 16))
  else bytesOf 2 ((if x.neg then 2 ^ 15 else 0) + x.e * 2 ^ fracBits h.fmt + x.mag % 2 ^ fracBits h.fmt)

/-- Whether a copy between two shapes is permitted (R209, R225). -/
def copyAllowed (dst src : Shape) : Bool :=
  dst.valid && src.valid && dst.fmt == src.fmt && dst.ndim == src.ndim &&
    ((List.range dst.ndim).all fun d => nth dst.box d == nth src.box d) &&
    (if src.layout == 0 then true else dst.layout == 1 && dst.planes ≤ src.planes)

end Sys2Proof.Machine
end

