-- ==== Sys2Proof/Machine/Access.lean ====
section
/-! DEFINITION. Loads, stores and atomics as operations (R197 to R207): what issues one, what each lane does when it
performs, the Sideboard (R190, R191), and how an operation ends. -/
namespace Sys2Proof.Machine

/-! ## The Sideboard -/

/-- Whether two scratchpad intervals conflict once they are widened to sectors (R191). -/
def sbClash (lo1 hi1 : Nat) (w1 : Bool) (lo2 hi2 : Nat) (w2 : Bool) : Bool :=
  lo1 / 32 < (hi2 + 31) / 32 && lo2 / 32 < (hi1 + 31) / 32 && (w1 || w2)

/-- Whether an entry of a core's Sideboard that registered before operation `before` conflicts with an access. -/
def State.sbBlocks (s : State) (core lo hi : Nat) (write : Bool) (before : Nat) : Bool :=
  s.sideboard.any fun e => e.core == core && e.op < before && sbClash e.lo e.hi e.write lo hi write

/-- Occupied entries of a core's Sideboard. -/
def State.sbCount (s : State) (core : Nat) : Nat := (s.sideboard.filter fun e => e.core == core).length

/-- Retires entries of an operation: those of part `part`, or all. -/
def State.sbRetire (s : State) (o : Nat) (part : Option Nat) : State :=
  { s with sideboard := s.sideboard.filter fun e => !(e.op == o && (part.isNone || part == some e.part)) }

/-! ## Targets -/

/-- The lines of peers that a target's bytes lie in: (device, line). -/
def Tgt.peerLines : Tgt → List (Nat × Nat)
  | .bytes _ _ => []
  | .repl rs _ => rs.filterMap fun r => r.1.map fun d => (d, r.2 / 64)
  | .remote d pa => [(d, pa / 64)]

/-- Whether an access to a target that a peer has a part in fails (R196, R357): a free choice, and always while no port is up. -/
def State.peerFails (s : State) (t : Tgt) : Bool := !t.peerLines.isEmpty && (!s.linked || Config.freeBit s.free)

/-- That choice has been made. -/
def State.pastPeer (s : State) (t : Tgt) : State := if t.peerLines.isEmpty then s else { s with free := s.free + 1 }

/-- Whether two accesses touch a common byte, or one line of one peer, which takes those of a core in their order of issue (R355). -/
def Tgt.meets (a : Tgt) (n : Nat) (b : Tgt) (m : Nat) : Bool :=
  (a.localKeys.any fun x => b.localKeys.any fun y => x < y + m && y < x + n) || a.peerLines.any fun x => b.peerLines.contains x

/-! ## The clock-crossing FIFOs -/

/-- Whether an access of a core crosses to the fabric: it is not to its own scratchpad (R347, log 16). -/
def Tgt.crosses (t : Tgt) (core : Nat) : Bool :=
  match t with
  | .bytes k _ => !(isSpadKey k && spadCore k == core)
  | _ => true

/-- Distinct sectors of 32 bytes among addresses. -/
def sectorsOf (as : List Nat) : Nat := (as.map (· / 32)).eraseDups.length

/-- Requests that the lanes of an access send: one for each sector of 32 bytes that they carry data to, and of loads one for each
quarter (R347, log 16). -/
def requestsOf (writes : Bool) (accs : List LaneAcc) : Nat :=
  if writes then sectorsOf (accs.map LaneAcc.addr) else ((accs.map fun a => a.lane / 8).eraseDups).length

/-- Whether requests of a core wait behind the 16 entries of its outbound FIFO (R296, R347). -/
def State.outFull (s : State) (core : Nat) : Bool := 16 < (s.outq.filter fun x => x.core == core).length

/-- Whether a core's inbound FIFO is full (R347). -/
def State.inFull (s : State) (core : Nat) : Bool := 16 ≤ (s.inq.filter fun x => x.core == core).length

/-- Whether a request of an operation has still to pass its core's outbound FIFO. -/
def State.crossing (s : State) (o : Nat) : Bool := s.outq.any fun x => x.op == o

/-- Responses of an operation enter its core's inbound FIFO, or the fabric holds them behind it. -/
def State.respond (s : State) (core o n : Nat) : State := { s with inq := s.inq ++ List.replicate n { core := core, op := o } }

/-! ## Pending accesses -/

/-- The scratchpad core and offset of a target, if it lies in scratchpad. -/
def Tgt.spad : Tgt → Option (Nat × Nat)
  | .bytes k _ => if isSpadKey k then some (spadCore k, spadOff k) else none
  | _ => none

/-- Whether an operation is a group access. -/
def OpKind.isAccess : OpKind → Bool
  | .load .. | .store | .atom .. | .tset _ => true
  | _ => false

/-- A store or a `red`: an access that answers nothing. -/
def OpKind.silent (k : OpKind) : Bool :=
  match k with
  | .store | .atom _ _ _ false => true
  | _ => false

/-- Whether a group access writes memory. -/
def OpKind.writes : OpKind → Bool
  | .store | .atom .. => true
  | _ => false

/-- Whether an access of a core, named below `id`, that one of `n` bytes at a target comes after has not performed (R241, R242,
R355). -/
def State.pendingAt (s : State) (core id : Nat) (t : Tgt) (n : Nat) : Bool :=
  s.ops.any fun p => p.id < id && p.core == core && p.kind.isAccess && p.accs.any fun b => b.st == .pending && t.meets n b.tgt p.size

/-- Whether a group access of another core that issued before operation `before` conflicts with a scratchpad interval and has not
performed (R191, third rule). -/
def State.spadPending (s : State) (core me lo hi : Nat) (write : Bool) (before : Nat) : Bool :=
  s.ops.any fun p => p.id < before && p.core != me && p.kind.isAccess && p.accs.any fun a => a.st == .pending &&
    (match a.tgt.spad with
    | some (c, off) => c == core && sbClash lo hi write off (off + p.size) p.kind.writes
    | none => false)

/-- Whether a copy of a group that issued before operation `before` has still to read or write an interval of the group's
context-private memory (R238). -/
def State.privCopies (s : State) (gid lo hi : Nat) (write : Bool) (before : Nat) : Bool :=
  s.ops.any fun p => p.id < before && p.g == gid && p.privs.any fun x =>
    x.1 < hi && lo < x.2.1 && (write || x.2.2) && (x.2.2 || !p.srcDone)

/-- Whether a lane may perform now: every earlier access of its core to a common byte has performed (R241, R242), every
conflicting earlier entry has retired and every conflicting earlier access has performed (R191), and context-private memory takes
its group's accesses in program order (R238), and its request has reached the fabric (R347). -/
def State.laneReady (s : State) (o : Op) (a : LaneAcc) : Bool :=
  !s.pendingAt o.core o.id a.tgt o.size && !(a.tgt.crosses o.core && s.crossing o.id) &&
    (match a.tgt with
    | .bytes k _ =>
      if 2 ^ 66 ≤ k then !s.privCopies o.g (k % 2 ^ 52) (k % 2 ^ 52 + o.size) o.kind.writes o.id
      else if isSpadKey k then
        !s.sbBlocks (spadCore k) (spadOff k) (spadOff k + o.size) o.kind.writes o.id &&
          !s.spadPending (spadCore k) o.core (spadOff k) (spadOff k + o.size) o.kind.writes o.id
      else true
    | _ => true)

/-! ## Scopes -/

/-- Width of a scope code (Table 07-5): group, workgroup, cluster, device, system. -/
def scopeRank (scope : Nat) : Nat :=
  match scope with
  | 1 => 0
  | 2 => 1
  | 3 => 2
  | 0 => 3
  | _ => 4

/-- The scope that acts for an access (R205): at most cluster on space 0x1, group on space 0x2. -/
def scopeFor (scope : Nat) (t : Tgt) : Nat :=
  match t with
  | .bytes k _ => if 2 ^ 66 ≤ k then 1 else if isSpadKey k && 2 < scopeRank scope then 3 else scope
  | _ => scope

/-- The widest scope that acts for the lanes of an operation. -/
def Op.scopeUsed (o : Op) : Nat :=
  o.accs.foldl (fun (b : Nat) a => if scopeRank b < scopeRank (scopeFor o.scope a.tgt) then scopeFor o.scope a.tgt else b) 1

/-- Whether a scope used by core `a` covers core `b` (Table 14-1). -/
def scopeCovers (scope a b : Nat) : Bool :=
  match scopeRank scope with
  | 0 | 1 => a == b
  | 2 => a / 4 == b / 4
  | _ => true

/-! ## Loads and stores -/

/-- A lane of an operation after it performed. -/
def Op.setLane (o : Op) (lane : Nat) (f : LaneAcc → LaneAcc) : Op :=
  { o with accs := o.accs.map fun a => if a.lane == lane then f a else a }

/-- A load's lane performs: it holds the bytes it read, or fails on a poisoned line (R200, R364). -/
def State.loadLane (s : State) (o : Op) (a : LaneAcc) : State :=
  if s.tgtPoisoned o.core a.tgt o.size then s.modOp o.id fun p => p.setLane a.lane fun b => { b with st := .failed causePoison }
  else
    let r := s.readTgt o.core a.tgt o.size
    let s1 := match o.acq, a.tgt.readKey o.core with | true, some k => r.2.hear o.core (r.2.readShows o.core k o.size) | _, _ => r.2
    s1.modOp o.id fun p => p.setLane a.lane fun b => { b with st := .done, data := r.1 }

/-- A plain store into an initialised barrier leaves its 16 bytes undefined (R189). -/
def State.spoilBarriers (s : State) (t : Tgt) (n : Nat) : State :=
  match t with
  | .bytes k _ =>
    (s.txbs.filter fun b => b < k + n && k < b + 16).foldl (fun (s : State) b =>
      let s1 := s.putN b ((List.range 16).map fun i => Config.freeByte (s.free + i))
      { s1 with free := s1.free + 16 }) s
  | _ => s

/-- The store that a lane's write on a replicated page belongs to (R200). -/
def Op.origin (o : Op) (a : LaneAcc) : Origin :=
  { op := o.id, g := o.g, e := o.e, pc := o.pc, lane := a.lane, addr := a.addr, doomed := false, uni := o.uni,
    lanes := (o.accs.filter fun b => match b.st with | .failed _ => false | _ => true).map fun b => (b.lane, b.addr) }

/-- A store's lane performs; a releasing one is committed at its scope with its release (R244 step 3). -/
def State.storeLane (s : State) (o : Op) (a : LaneAcc) : State :=
  let s1 := s.writeTgt o.core a.tgt a.data (some (o.origin a))
  let s2 := match o.rel, reachOf (scopeFor o.scope a.tgt) o.core with
    | true, some r => s1.commitNew s o.core r
    | _, _ => s1
  (s2.spoilBarriers a.tgt o.size).modOp o.id fun p => p.setLane a.lane fun b => { b with st := .done }

/-! ## Atomics -/

/-- The new value of an atomic (R206, Table 12-3): `v` is the operand, `v2` the new value of a compare-and-swap. -/
def atomNew (aop size old v v2 : Nat) : Nat :=
  let w := 8 * size
  match aop with
  | 0 => (old + v) % 2 ^ w
  | 1 => fp32.fadd 0 old v
  | 2 => if toSigned w v < toSigned w old then v else old
  | 3 => min old v
  | 4 => if toSigned w old < toSigned w v then v else old
  | 5 => max old v
  | 6 => old.land v
  | 7 => old.lor v
  | 8 => old.xor v
  | 9 => v
  | _ => if old == v then v2 else old

/-- Whether a write is among those at the place where an atomic of a core performs (R248): at the core for a narrow scope on
space 0x0, else at the home, which has every write committed to it, and for space 0x3 at the host, whatever the scope; a
scratchpad holds every write to it. -/
def Write.atPlace (w : Write) (s : State) (core scope key : Nat) : Bool :=
  isSpadKey key || w.inSnap core (s.snap core) || ((2 ≤ scopeRank scope || 2 ^ 56 ≤ key) && (w.committedTo core || w.global))

/-- The write that an atomic reads at a key, if one is in the log: its own core's, where that owes one there (R196). -/
def State.placeWrite (s : State) (core scope key : Nat) : Option Write :=
  if s.wlog.any fun w => w.key == key && w.owed core then s.view core key
  else s.wlog.find? fun w => w.key == key && w.atPlace s core scope key

/-- The byte that an atomic reads. -/
def State.placeByte (s : State) (core scope key : Nat) : Byte :=
  match s.placeWrite core scope key with
  | some w => w.val
  | none => s.mem.get key

/-- Enters a write directly after the newest one at its place, in coherence order (R242, R248). -/
def enterWrite (s : State) (core scope : Nat) (w : Write) (ws : List Write) : List Write :=
  enterAfter (fun x => x.key == w.key && x.atPlace s core scope w.key) w ws

/-- The commits that an atomic's write has as it performs: at its scope, at the host for space 0x3; one to a scratchpad has them all,
where it is made (R248). -/
def atomCommits (core scope key t : Nat) : List Commit :=
  if isSpadKey key || 2 ^ 56 ≤ key then [{ reach := .system, at_ := t, by_ := core }]
  else match reachOf scope core with
    | some r => [{ reach := r, at_ := t, by_ := core }]
    | none => []

/-- Writes bytes as the write of an atomic, committed at its scope at a moment of its own. -/
def State.placeBytes (s : State) (core scope t key : Nat) : List Byte → State
  | [] => s
  | b :: bs =>
    let w : Write := { coreWrite core t (isSpadKey key) none with
                       key := key, val := b, atomic := some scope, commits := atomCommits core scope key t }
    ({ s with wlog := enterWrite s core scope w s.wlog } : State).placeBytes core scope t (key + 1) bs

/-- Whether an atomic meets one of another core that it is not indivisible with (R248, log 26). A scratchpad, and the home of a
replicated page, hold every write made there: those since the core's last acquire count. -/
def State.atomClash (s : State) (core scope key n : Nat) : Bool :=
  s.wlog.any fun w => key ≤ w.key && w.key < key + n && w.core != core &&
    (if w.mca then (s.snap core).at_ < w.at_ else !w.inSnap core (s.snap core)) &&
    (match w.atomic with
    | some q => !(scopeCovers q w.core core && scopeCovers scope core w.core)
    | none => false)

/-- Whether an atomic on global memory performs at its own core (R248). -/
def atCore (scope : Nat) : Bool := scopeRank scope < 2

/-- Bytes that an atomic writes to a replicated page (R196, R248): at its core, from which they leave as a store does; or at the
home, committed. -/
def State.replBytes (s : State) (core scope : Nat) (src : Option Origin) (t : Tgt) (bs : List Byte) : State :=
  let m := s.mclock + 1
  let w := if atCore scope then coreWrite core m true src else doneWrite core m .system true
  t.localKeys.foldl (fun (s : State) k => { s with wlog := { w with atomic := some scope }.spread k bs ++ s.wlog }) { s with mclock := m }

/-- A free value of `n` bytes, from two words of the counter on. -/
def freeVal (free n : Nat) : Nat := (Config.freeWord free).toNat + (if n == 8 then (Config.freeWord (free + 1)).toNat * 2 ^ 32 else 0)

/-- One indivisible read-modify-write of `n` bytes at a target (R206, R248): the old value and the state after it. Where it is not
indivisible with another core's, both values are free (log 26). On a replicated page every replica takes it at once, after the
stores that its core still owes there (R196). On a peer's page only one of group or workgroup scope performs here, at its core, which
holds no copy: its old value is free (log 15). -/
def State.atomAt (s : State) (core scope : Nat) (src : Option Origin) (t : Tgt) (n : Nat) (new : Nat → Nat) : Nat × State :=
  match t with
  | .bytes k _ =>
    if 2 ^ 66 ≤ k then
      let old := ofBytes (s.observeN core k n)
      (old, s.putN k (bytesOf n (new old)))
    else
      let s1 := s.holdTgt t n
      let m := s1.mclock + 1
      if s1.atomClash core scope k n then
        (freeVal s1.free n, ({ s1 with mclock := m, free := s1.free + 4 } : State).placeBytes core scope m k (bytesOf n (freeVal (s1.free + 2) n)))
      else
        let old := ofBytes ((List.range n).map fun i => s1.placeByte core scope (k + i))
        (old, ({ s1 with mclock := m } : State).placeBytes core scope m k (bytesOf n (new old)))
  | .repl _ _ =>
    let s1 := (if atCore scope then s else s.flushOwn core t.localKeys n).holdTgt t n
    match t.localKeys with
    | k :: _ =>
      if s1.atomClash core scope k n then
        (freeVal s1.free n, ({ s1 with free := s1.free + 4 } : State).replBytes core scope src t (bytesOf n (freeVal (s1.free + 2) n)))
      else
        let old := ofBytes ((List.range n).map fun i => s1.placeByte core scope (k + i))
        (old, s1.replBytes core scope src t (bytesOf n (new old)))
    | [] => (freeVal s1.free n, { s1 with free := s1.free + 2 })
  | .remote _ _ => (freeVal s.free n, { s with free := s.free + 2 })

/-- What an atomic's read shows its core (R246, R249). -/
def State.atomShows (s : State) (core scope : Nat) (t : Tgt) (n : Nat) : List (Nat × Nat) :=
  match t.localKeys with
  | k :: _ => if 2 ^ 66 ≤ k then [] else (List.range n).flatMap fun i => s.shows core (k + i) (s.placeWrite core scope (k + i))
  | [] => []

/-- An atomic's lane performs: one indivisible read-modify-write (R206). -/
def State.atomLane (s : State) (o : Op) (aop : Nat) (a : LaneAcc) : State :=
  if s.tgtPoisoned o.core a.tgt o.size then s.modOp o.id fun p => p.setLane a.lane fun b => { b with st := .failed causePoison }
  else
    let sc := scopeFor o.scope a.tgt
    let r := s.atomAt o.core sc (some (o.origin a)) a.tgt o.size fun old => atomNew aop o.size old (ofBytes a.data) (ofBytes a.data2)
    (r.2.hear o.core (s.atomShows o.core sc a.tgt o.size)).modOp o.id fun p =>
      p.setLane a.lane fun b => { b with st := .done, data := bytesOf o.size r.1 }

/-! ## Performing lanes and ending -/

/-- Whether a lane waits for a peer: no copy of its bytes is on this device, and it is no atomic that performs at its core (R248). -/
def LaneAcc.isRemote (a : LaneAcc) (o : Op) : Bool :=
  (a.tgt.readKey o.core).isNone && !(match o.kind with | .atom .. => atCore (scopeFor o.scope a.tgt) | _ => false)

/-- One lane's access is made. -/
def State.accessLane (s : State) (o : Op) (a : LaneAcc) : State :=
  match o.kind with
  | .store => s.storeLane o a
  | .atom aop _ _ _ => s.atomLane o aop a
  | _ => s.loadLane o a

/-- One lane performs: where a move of a transfer has given its context-private location away, the location is undefined before it
and after (R341). -/
def State.performLane (s : State) (o : Op) (a : LaneAcc) : State :=
  match a.tgt with
  | .bytes k _ =>
    if 2 ^ 66 ≤ k then
      let lo := k % 2 ^ 52
      ((s.spoilPriv o.g o.e lo (lo + o.size)).accessLane o a).spoilPriv o.g o.e lo (lo + o.size)
    else s.accessLane o a
  | _ => s.accessLane o a

/-- A releasing access crosses its boundary, once, before any of its lanes performs (R205, R244). -/
def State.cross (s : State) (oid : Nat) : State :=
  match s.op? oid with
  | none => s
  | some o =>
    if o.rel && o.crossed.isNone then
      let s1 := s.release o.core o.scopeUsed
      s1.modOp oid fun p => { p with crossed := some s1.mclock }
    else s

/-- A lane of an operation, if it could perform at its core now: pending, with no answer of a peer to come, ready, and no lower lane
that writes a common byte still pending (R204, R206). -/
def State.readyLane (s : State) (o : Op) (l : Nat) : Option LaneAcc :=
  match o.accs.find? fun a => a.lane == l && a.st == .pending && (!a.isRemote o || o.kind.silent) with
  | some a =>
    let lower := o.kind.writes && o.accs.any fun b => b.lane < l && b.st == .pending && a.tgt.meets o.size b.tgt o.size
    if s.laneReady o a && !lower then some a else none
  | none => none

/-- Changes a port. -/
def State.modLink (s : State) (p : Nat) (f : Link → Link) : State := { s with links := s.links.modify p f }

/-- A port after it has sent a flit (R358). -/
def Link.send (l : Link) : Link := if l.enc then { l with txNonce := l.txNonce + 1 } else l

/-- Accesses are sent over their ports, a flit each (log 15). -/
def State.sendOver (s : State) (ps : List (Option Nat)) : State := ps.foldl (fun (s : State) p => match p with
  | some n => s.modLink n Link.send
  | none => s) s

/-- A store or a `red` leaves for a peer: it has performed here (R241). -/
def State.sendLane (s : State) (oid : Nat) (a : LaneAcc) : State :=
  (s.sendOver [a.way.port]).modOp oid fun p => p.setLane a.lane fun b => { b with st := .performed, way := { b.way with at_ := s.time } }

/-- Lanes of an operation perform as far as they can, in the order given; a release crosses its boundary first (R205). What a store or
a `red` sends to a peer has performed here, and waits for its acknowledgement (R241, R356). -/
def State.performLanes (s : State) (oid : Nat) : List Nat → State
  | [] => s
  | l :: ls =>
    match s.op? oid with
    | none => s
    | some o =>
      match s.readyLane o l with
      | none => s.performLanes oid ls
      | some a =>
        let s1 := s.cross oid
        (if a.isRemote o then s1.sendLane oid a else s1.performLane o a).performLanes oid ls

/-- Lanes of an operation in a state, as a mask. -/
def Op.lanesWith (o : Op) (p : LaneSt → Bool) : Word :=
  o.accs.foldl (fun (m : Word) a => if p a.st then m ||| maskOf (· == a.lane) else m) 0

/-- A lane that failed. -/
def LaneSt.isFailed : LaneSt → Bool
  | .failed _ => true
  | _ => false

/-- The failure of an operation found after issue (R200): recorded for the fragment's next boundary. -/
def Op.late (o : Op) : Late :=
  { e := o.e, pc := o.pc, fmask := o.lanesWith LaneSt.isFailed, cmask := o.lanesWith (fun x => x == .done),
    notes := o.accs.map (fun a => { lane := a.lane, addr := a.addr, cause := (match a.st with | .failed c => c | _ => 0), src := false }),
    addr := if o.uni then ((o.accs.head?.map LaneAcc.addr).getD 0) else 0, dests := o.dests }

/-- A loaded value extended to its register (Table 12-2). -/
def extendLoad (signed : Bool) (size x : Nat) : Nat := if signed then (sext (8 * size) 32 x).toNat else x

/-- Writes an operation's results into its registers, its failed lanes excepted; touched ones are undefined (R231). -/
def Op.writeBack (o : Op) (g : Group) (free : Nat) : Group :=
  let m := o.lanesWith fun x => x == .done
  let val (signed : Bool) (l : Nat) : Nat :=
    if o.touched then (Config.freeWord (free + l)).toNat + (Config.freeWord (free + 32 + l)).toNat * 2 ^ 32
    else ((o.accs.find? fun a => a.lane == l).map fun a => extendLoad signed o.size (ofBytes a.data)).getD 0
  let wide := o.size == 8
  let first := lowLane m
  match o.kind with
  | .load r true sg => if m == 0 then g else g.putS wide r (val sg first)
  | .load r false sg => g.putV false wide r m 0 (val sg)
  | .atom _ r true true => if m == 0 then g else g.putS wide r (val false first)
  | .atom _ r false true => g.putV false wide r m 0 (val false)
  | .tset t => if m == 0 then g else g.setT (t % 16) (BitVec.ofNat 512 (ofBytes ((o.accs.head?.map LaneAcc.data).getD [])))
  | _ => g

/-- Lowers the counter of an operation's class (Table 12-1). -/
def Group.lower (g : Group) (k : OpKind) : Group :=
  match k with
  | .store => { g with st := g.st - 1 }
  | .atom _ _ _ false => { g with st := g.st - 1 }
  | .copyT _ _ | .copyL => { g with cp := g.cp - 1 }
  | .mma .. => { g with mx := g.mx - 1 }
  | _ => { g with ld := g.ld - 1 }

/-- An operation is gone, and so may be its group (R83). -/
def State.dropOp (s : State) (o : Op) : State :=
  ({ s with ops := s.ops.filter fun p => p.id != o.id }.sbRetire o.id none).retire o.g

/-- The acquire of an access (R245): what some cores have committed may not have reached one on main or host memory (R247); one on a
scratchpad, context-private memory or a peer's line takes all (log 7). -/
def State.acquireOf (s : State) (o : Op) : State :=
  if o.accs.all fun a => (a.tgt.readKey o.core).any fun k => !isSpadKey k && k < 2 ^ 66 then s.acquireFree o.core [] else s.acquire o.core

/-- Whether an access lowers its counter before a peer has acknowledged it: a store that has performed at its core, but for a release
of system scope (Table 12-1). -/
def Op.lowersEarly (o : Op) : Bool := o.kind == .store && !(o.rel && scopeRank o.scope == 4) && !o.lowered

/-- What an access of a fragment still in the source has written into registers that a move of a transfer has given away is undefined
(R341). -/
def State.spoilGiven (s : State) (o : Op) : State :=
  match s.group? o.g with
  | none => s
  | some g =>
    if g.moves.isEmpty || ((g.issuerOf o).map fun e => (g.entry e).moved.isSome).getD false then s
    else s.spoilRegs o.g ((g.moves.flatMap MoveWrite.regs).filter o.dests.contains)

/-- An access of which every lane has performed or failed ends, once peers have answered (Table 12-1, R200): its boundaries, registers,
counter, failure. -/
def State.endAccess (s : State) (oid : Nat) : State :=
  match s.op? oid with
  | none => s
  | some o =>
    if !o.kind.isAccess || o.accs.any (fun a => a.st == .pending) then s
    else if o.accs.any (fun a => a.st == .performed) then
      (if o.lowersEarly then (s.modGroup o.g fun g => g.lower o.kind).modOp oid fun p => { p with lowered := true } else s).retire o.g
    else
      let s0 := s.cross oid
      let s1 := s0.modGroup o.g fun g => if o.lowered then o.writeBack g s0.free else (o.writeBack g s0.free).lower o.kind
      let s2 := (if o.touched then { s1 with free := s1.free + 64 } else s1).spoilGiven o
      let s3 := if o.acq then s2.acquireOf o else s2
      let s4 := if o.accs.any (fun a => a.st.isFailed) then s3.modGroup o.g fun g => { g with late := g.late ++ [o.late] } else s3
      (s4.postOrphans o.g).dropOp o

/-! ## Issue -/

/-- The lanes that an access executes: all its lanes, or those left to a re-execution (R199); one lane under U. -/
def Frag.accLanes (u : Frag) (uni : Bool) : Word :=
  let all := if uni then maskOf (· == lowLane u.x.mask) else u.lanes
  match u.x.redo with
  | some (pc, m) => if pc == u.x.pc then all &&& m else all
  | none => all

/-- The lanes whose results Z zeroes: none in a re-execution. -/
def Frag.accZero (u : Frag) : Word :=
  match u.x.redo with
  | some (pc, _) => if pc == u.x.pc then 0 else u.zeroed
  | none => u.zeroed

/-- Whether ORD names an acquire or a release (Table 07-4: 0 relaxed, 1 acquire, 2 release, 3 both). -/
def Frag.isAcq (u : Frag) : Bool := u.m.modx.ord.toNat % 2 == 1
def Frag.isRel (u : Frag) : Bool := 2 ≤ u.m.modx.ord.toNat

/-- The checks of an access's lanes, in ascending order, with the state in which their translations are cached. -/
def State.checkAll (s : State) (g : Group) (chk : State → Nat → Except Nat Tgt) (addr : Nat → Nat) :
    List Nat → List (Nat × Except Nat Tgt) × State
  | [] => ([], s)
  | l :: ls =>
    let r := chk s l
    let q := (s.resolved g (addr l)).checkAll g chk addr ls
    ((l, r) :: q.1, q.2)

/-- Whether an earlier access of the fragment has not performed (R244 step 1). -/
def Frag.unperformed (u : Frag) (s : State) : Bool :=
  (s.accessesOf u.g.id u.x.mask).any fun o => o.accs.any fun a => a.st == .pending

/-- Whether a release of a scope must still wait: for the fragment's earlier accesses to perform (R244 step 1), and at system scope for
every write of the core that a peer has not acknowledged (R356). -/
def Frag.unreleased (u : Frag) (s : State) (scope : Nat) : Bool :=
  u.unperformed s || (scopeRank scope == 4 && s.ops.any fun o => o.core == u.g.core && o.accs.any fun a => a.st == .performed)

/-- The live port over which a line of a peer is reached: a fixed choice of the device and the line (R355). -/
def State.portFor (s : State) (d line : Nat) : Option Nat :=
  let live := (List.range s.links.length).filter fun p => (s.links[p]?.map Link.live).getD false
  live[Config.portPick d line % live.length]?

/-- The port of the first peer's line that an access to a target needs. -/
def State.tgtPort (s : State) (t : Tgt) : Option Nat := t.peerLines.head?.bind fun x => s.portFor x.1 x.2

/-- How an access to a target sets out (R355). -/
def State.wayOf (s : State) (t : Tgt) : Way := { Way.none with port := s.tgtPort t, at_ := s.time }

/-- What an access needs of its instruction. -/
structure Acc where
  kind : OpKind
  size : Nat
  lanes : Word
  addr : Nat → Nat
  data : Nat → Nat
  data2 : Nat → Nat
  acq : Bool
  rel : Bool
  /-- Raises the st counter, else the ld counter. -/
  store : Bool
  /-- One access for the fragment: under U, `sld` and `tset`. -/
  uni : Bool
  check : State → Nat → Except Nat Tgt

/-- A check for a space other than the scratchpad (R203). -/
def spadOnly (p : Nat) (r : Except Nat Tgt) : Except Nat Tgt := if ptrTag p == 1 then r else .error causeSpace

/-- The check of a read-modify-write (R198): permission to write, and the poison of a read (R195). -/
def State.resolveRmw (s : State) (g : Group) (p n align : Nat) : Except Nat Tgt :=
  match s.resolve g p n align true with
  | .error c => .error c
  | .ok t =>
    match t.spad with
    | some (c, off) => if s.spadPoisoned c off n then .error causePoison else .ok t
    | none => .ok t

/-- Scratchpad interval of lane `l`'s access, by its address, for the Sideboard. -/
def accSpan (core size p : Nat) : Option (Nat × Nat × Nat) :=
  if ptrTag p == 1 && !spaceBad p size then some (spadTarget core p, bitsOf p 18 0, bitsOf p 18 0 + size) else none

/-- Bounding intervals, one per core, of scratchpad spans (core, lo, hi). -/
def spanCover (xs : List (Nat × Nat × Nat)) : List (Nat × Nat × Nat) :=
  xs.foldl (fun (acc : List (Nat × Nat × Nat)) x =>
    match acc.find? fun y => y.1 == x.1 with
    | some y => (x.1, min x.2.1 y.2.1, max x.2.2 y.2.2) :: acc.filter fun z => z.1 != x.1
    | none => x :: acc) []

/-- What the checks of an access's lanes give, lane by lane, and the state in which their translations are cached. -/
def Frag.checks (u : Frag) (s : State) (a : Acc) : List (Nat × Except Nat Tgt) × State :=
  s.checkAll u.g a.check a.addr (lanesOf a.lanes)

/-- Lanes that pass, with their targets. -/
def Frag.passing (u : Frag) (s : State) (a : Acc) : List (Nat × Tgt) :=
  (u.checks s a).1.filterMap fun r => match r.2 with | .ok t => some (r.1, t) | .error _ => none

/-- Lanes that fail, with their causes (R198). -/
def Frag.failing (u : Frag) (s : State) (a : Acc) : List (Nat × Nat) :=
  (u.checks s a).1.filterMap fun r => match r.2 with | .error c => some (r.1, c) | .ok _ => none

/-- Intervals of other cores' scratchpads that an access registers in their Sideboards (R190). -/
def Frag.farSpans (u : Frag) (s : State) (a : Acc) : List (Nat × Nat × Nat) :=
  spanCover ((u.passing s a).filterMap fun r =>
    match r.2.spad with | some (c, off) => if c == u.g.core then none else some (c, off, off + a.size) | none => none)

/-- Lanes that pass and cross to the fabric (R347). -/
def Frag.crossers (u : Frag) (s : State) (a : Acc) : List (Nat × Tgt) := (u.passing s a).filter fun r => r.2.crosses u.g.core

/-- Whether an access must wait: its counter is at its limit (R201), a release waits for earlier accesses (R244), a Sideboard holds a
conflicting entry or has no room (R190, R191), or the outbound FIFO is full (R296). -/
def Frag.mustWait (u : Frag) (s : State) (a : Acc) : Bool :=
  let full := if a.store then 31 ≤ u.g.st else 63 ≤ u.g.ld
  let spans := (lanesOf a.lanes).filterMap fun l => accSpan u.g.core a.size (a.addr l)
  let reads := match a.kind with | .store => false | _ => true
  let blocked := reads && spans.any fun x => s.sbBlocks x.1 x.2.1 x.2.2 a.kind.writes s.nextId
  full || (s.outFull u.g.core && !(u.crossers s a).isEmpty) || (a.rel && u.unreleased s u.m.modx.scope.toNat) || blocked ||
    (u.farSpans s a).any fun x => 256 ≤ s.sbCount x.1

/-- The operation that an access leaves outstanding, its data captured (R202). -/
def Frag.accessOp (u : Frag) (s : State) (a : Acc) : Op :=
  { id := (u.checks s a).2.nextId, kind := a.kind, g := u.g.id, e := u.e, pc := u.x.pc, ver := u.g.ver, ctx := u.g.ctx,
    core := u.g.core, size := a.size, rel := a.rel, acq := a.acq, scope := u.m.modx.scope.toNat, bar := none, sectors := [],
    srcDone := false, firstBad := none, grant := .waiting, prio := s.prioOf u.g, issued := s.time, readyAt := none,
    poisoned := false, seen := s.snap u.g.core, begun := s.mclock, crossed := none, lowered := false, saved := false, touched := false,
    prev := none, wild := none, limit := none, privs := [], uni := a.uni, mask := u.x.mask,
    accs := (u.passing s a).map fun r => { lane := r.1, addr := a.addr r.1, tgt := r.2, data := bytesOf a.size (a.data r.1),
                                           data2 := bytesOf a.size (a.data2 r.1), st := .pending, way := s.wayOf r.2 } }

/-- The state after an access has issued: lanes that Z zeroes written, and, if a lane passed, its counter raised, the operation
outstanding, its intervals in other cores' Sideboards, and its requests on their way (R347). -/
def Frag.accessed (u : Frag) (s : State) (a : Acc) (pre : Group → Group) : State :=
  let s1 := u.upd (u.checks s a).2 pre
  if (u.passing s a).isEmpty then s1
  else
    let s2 : State := { s1 with ops := s1.ops ++ [u.accessOp s a], nextId := (u.checks s a).2.nextId + 1 }
    let s3 := u.upd s2 fun g => if a.store then { g with st := g.st + 1 } else { g with ld := g.ld + 1 }
    let s4 := if a.kind.silent then s3
      else s3.sendOver (((u.accessOp s a).accs.filter fun x => x.isRemote (u.accessOp s a)).map fun x => x.way.port)
    let far := (u.accessOp s a).accs.filter fun x => x.tgt.crosses u.g.core
    { s4 with
      outq := s4.outq ++ List.replicate (requestsOf a.kind.writes far) { core := u.g.core, op := (u.checks s a).2.nextId }
      sideboard := s4.sideboard ++ (u.farSpans s a).map fun x =>
        { core := x.1, lo := x.2.1, hi := x.2.2, write := a.kind.writes, op := (u.checks s a).2.nextId, part := 0 } }

/-- The ACCESS_FAULT of the failing lanes of an access, the lowest of them `l` (R198, R199, Table 19-3). -/
def Frag.accessTrap (u : Frag) (s : State) (a : Acc) (l : Nat) : Trap :=
  let bad := u.failing s a
  { Trap.at_ trapAccess u.x.pc with
    fmask := maskOf fun k => bad.any fun r => r.1 == k, cmask := maskOf fun k => (u.passing s a).any fun r => r.1 == k,
    addr := if a.uni then a.addr l else 0,
    notes := (lanesOf a.lanes).map fun k => { lane := k, addr := a.addr k, src := false,
                                              cause := ((bad.find? fun r => r.1 == k).map Prod.snd).getD 0 } }

/-- Issues an access (R198 to R202, R205, R244, R245): it waits, or the lanes that pass their checks go on, and the others
raise ACCESS_FAULT. `pre` writes the lanes that Z zeroes. -/
def Frag.access (u : Frag) (s : State) (a : Acc) (pre : Group → Group) : Res :=
  if u.mustWait s a then .hold false
  else
    match u.failing s a with
    | [] => .ok (u.accessed s a pre)
    | (l, _) :: _ => .trap (u.accessTrap s a l) (u.accessed s a pre) s

end Sys2Proof.Machine
end

