-- ==== Sys2Proof/Machine/Memory.lean ====
section
/-! DEFINITION. Loads, stores, atomics and prefetch (R203 to R208, R133), and the steps that complete them (R200, R201,
R241, R356, R357). -/
namespace Sys2Proof.Machine

/-- Whether register fields name S registers: under U. -/
def Frag.uniform (u : Frag) : Bool := u.m.modx.u

/-- The address of a lane (R197). -/
def Frag.addr (u : Frag) (f : MF) (unit l : Nat) : Nat := addrPlus (u.g.src u.uniform true f.addr.toNat l) (offBytes f unit)

/-- Zeroes the unselected lanes of a result under Z (R203, R206). -/
def Frag.zeroRes (u : Frag) (wide : Bool) (r : Nat) (g : Group) : Group := g.putV false wide r 0 u.accZero fun _ => 0

/-- A load (R203). -/
def Frag.load (u : Frag) (s : State) (f : MF) (size : Nat) (signed only : Bool) : Res :=
  let chk (s : State) (l : Nat) : Except Nat Tgt :=
    let p := u.addr f size l
    let r := s.resolve u.g p size size false
    if only then spadOnly p r else r
  u.access s { kind := .load f.data.toNat u.uniform signed, size := size, lanes := u.accLanes u.uniform, addr := u.addr f size,
               data := fun _ => 0, data2 := fun _ => 0, acq := u.isAcq, rel := false, store := false, uni := u.uniform, check := chk }
    (u.zeroRes (size == 8) f.data.toNat)

/-- A store (R203). -/
def Frag.store (u : Frag) (s : State) (f : MF) (size : Nat) (only : Bool) : Res :=
  let chk (s : State) (l : Nat) : Except Nat Tgt :=
    let p := u.addr f size l
    let r := s.resolve u.g p size size true
    if only then spadOnly p r else r
  u.access s { kind := .store, size := size, lanes := u.accLanes u.uniform, addr := u.addr f size,
               data := u.g.src u.uniform (size == 8) f.data.toNat, data2 := fun _ => 0, acq := false, rel := u.isRel, store := true, uni := u.uniform,
               check := chk } fun g => g

/-- An atomic, with or without a result (R206, R207): space 0x3 carries only FetchAdd, Swap and CAS. -/
def Frag.atomic (u : Frag) (s : State) (f : MF) (size : Nat) (result : Bool) : Res :=
  let aop := f.off.toNat / 32
  let wide := size == 8
  let addr (l : Nat) : Nat := u.g.src u.uniform true f.addr.toNat l
  let chk (s : State) (l : Nat) : Except Nat Tgt :=
    match s.resolveRmw u.g (addr l) size size with
    | .error c => .error c
    | .ok t => if ptrTag (addr l) == 3 && !(aop == 0 || aop == 9 || aop == 10) then .error causeHost else .ok t
  u.access s { kind := .atom aop f.data.toNat u.uniform result, size := size, lanes := u.accLanes u.uniform, addr := addr,
               data := u.g.src u.uniform wide f.data.toNat, data2 := u.g.src u.uniform wide (f.data.toNat + if wide then 2 else 1),
               acq := u.isAcq, rel := u.isRel, store := !result, uni := u.uniform, check := chk }
    (if result then u.zeroRes wide f.data.toNat else fun g => g)

/-- A uniform load into S registers (R133). -/
def Frag.sload (u : Frag) (s : State) (f : MF) (size : Nat) : Res :=
  let p := addrPlus (u.g.ptr f.addr.toNat) (offBytes f size)
  u.access s { kind := .load f.data.toNat true false, size := size, lanes := u.accLanes true, addr := fun _ => p, data := fun _ => 0,
               data2 := fun _ => 0, acq := u.isAcq, rel := false, store := false, uni := true,
               check := fun s _ => s.resolve u.g p size size false } fun g => g

/-- SLD_B32 (R133). -/
def execSldB32 (m : Mods) (f : MF) (s : State) : Host.Outcome State Fault Refusal :=
  issue (.sldB32 m f) s fun u s => u.sload s f 4

/-- SLD_B64 (R133). -/
def execSldB64 (m : Mods) (f : MF) (s : State) : Host.Outcome State Fault Refusal :=
  issue (.sldB64 m f) s fun u s => u.sload s f 8

/-- LD_N8 (R203). -/
def execLdN8 (m : Mods) (f : MF) (s : State) : Host.Outcome State Fault Refusal :=
  issue (.ldN8 m f) s fun u s => u.load s f 1 false false

/-- LD_I8 (R203). -/
def execLdI8 (m : Mods) (f : MF) (s : State) : Host.Outcome State Fault Refusal :=
  issue (.ldI8 m f) s fun u s => u.load s f 1 true false

/-- LD_N16 (R203). -/
def execLdN16 (m : Mods) (f : MF) (s : State) : Host.Outcome State Fault Refusal :=
  issue (.ldN16 m f) s fun u s => u.load s f 2 false false

/-- LD_I16 (R203). -/
def execLdI16 (m : Mods) (f : MF) (s : State) : Host.Outcome State Fault Refusal :=
  issue (.ldI16 m f) s fun u s => u.load s f 2 true false

/-- LD_B32 (R203). -/
def execLdB32 (m : Mods) (f : MF) (s : State) : Host.Outcome State Fault Refusal :=
  issue (.ldB32 m f) s fun u s => u.load s f 4 false false

/-- LD_B64 (R203). -/
def execLdB64 (m : Mods) (f : MF) (s : State) : Host.Outcome State Fault Refusal :=
  issue (.ldB64 m f) s fun u s => u.load s f 8 false false

/-- ST_8 (R203). -/
def execSt8 (m : Mods) (f : MF) (s : State) : Host.Outcome State Fault Refusal :=
  issue (.st8 m f) s fun u s => u.store s f 1 false

/-- ST_16 (R203). -/
def execSt16 (m : Mods) (f : MF) (s : State) : Host.Outcome State Fault Refusal :=
  issue (.st16 m f) s fun u s => u.store s f 2 false

/-- ST_B32 (R203). -/
def execStB32 (m : Mods) (f : MF) (s : State) : Host.Outcome State Fault Refusal :=
  issue (.stB32 m f) s fun u s => u.store s f 4 false

/-- ST_B64 (R203). -/
def execStB64 (m : Mods) (f : MF) (s : State) : Host.Outcome State Fault Refusal :=
  issue (.stB64 m f) s fun u s => u.store s f 8 false

/-- LDS_B32 (R203). -/
def execLdsB32 (m : Mods) (f : MF) (s : State) : Host.Outcome State Fault Refusal :=
  issue (.ldsB32 m f) s fun u s => u.load s f 4 false true

/-- LDS_B64 (R203). -/
def execLdsB64 (m : Mods) (f : MF) (s : State) : Host.Outcome State Fault Refusal :=
  issue (.ldsB64 m f) s fun u s => u.load s f 8 false true

/-- STS_B32 (R203). -/
def execStsB32 (m : Mods) (f : MF) (s : State) : Host.Outcome State Fault Refusal :=
  issue (.stsB32 m f) s fun u s => u.store s f 4 true

/-- STS_B64 (R203). -/
def execStsB64 (m : Mods) (f : MF) (s : State) : Host.Outcome State Fault Refusal :=
  issue (.stsB64 m f) s fun u s => u.store s f 8 true

/-- ATOM_32 (R206). -/
def execAtom32 (m : Mods) (f : MF) (s : State) : Host.Outcome State Fault Refusal :=
  issue (.atom32 m f) s fun u s => u.atomic s f 4 true

/-- ATOM_64 (R206). -/
def execAtom64 (m : Mods) (f : MF) (s : State) : Host.Outcome State Fault Refusal :=
  issue (.atom64 m f) s fun u s => u.atomic s f 8 true

/-- RED_32 (R206). -/
def execRed32 (m : Mods) (f : MF) (s : State) : Host.Outcome State Fault Refusal :=
  issue (.red32 m f) s fun u s => u.atomic s f 4 false

/-- RED_64 (R206). -/
def execRed64 (m : Mods) (f : MF) (s : State) : Host.Outcome State Fault Refusal :=
  issue (.red64 m f) s fun u s => u.atomic s f 8 false

/-- PREF (R208): it changes no value and never faults. -/
def execPref (m : Mods) (f : MF) (s : State) : Host.Outcome State Fault Refusal := issue (.pref m f) s fun _ s => .ok s

/-! ## Steps that complete accesses -/

/-- The lanes of an operation that cross to the fabric and are still pending, with their addresses. -/
def State.awaited (s : State) (oid : Nat) : List (Nat × Nat) :=
  match s.op? oid with
  | some o => (o.accs.filter fun a => a.st == .pending && a.tgt.crosses o.core).map fun a => (a.lane, a.addr)
  | none => []

/-- Lanes of a load perform, and the responses of those that did come back, one for each sector of 32 bytes (R347). -/
def State.loadLanes (s : State) (oid core : Nat) (ls : List Nat) : State :=
  let t := s.performLanes oid ls
  t.respond core oid (sectorsOf (((s.awaited oid).filter fun a => !(t.awaited oid).contains a).map Prod.snd))

/-- LOAD_COMPLETE (R201): those of `lanes` that can perform do, in any order that the steps make, since only accesses to common
bytes are ordered (R241), unless the core's inbound FIFO is full (R347); when all have, its registers are written and its acquire
crosses (R245). -/
def execLoadComplete (o : Nat) (lanes : Word) (s : State) : Host.Outcome State Fault Refusal :=
  deviceStep s fun s =>
    match s.op? o with
    | some p => if !p.kind.isAccess || p.kind.silent || s.inFull p.core then s else (s.loadLanes o p.core (lanesOf lanes)).endAccess o
    | none => s

/-- STORE_PERFORM (R241): those of `lanes` of a store or `red` that can perform do. -/
def execStorePerform (o : Nat) (lanes : Word) (s : State) : Host.Outcome State Fault Refusal :=
  deviceStep s fun s =>
    match (s.op? o).map Op.kind with
    | some .store | some (.atom _ _ _ false) => (s.performLanes o (lanesOf lanes)).endAccess o
    | _ => s

/-- Whether a lane can fail after issue with a cause (R200): REMOTE_FAIL for a peer's line or a replicated page, POISON else. -/
def LaneAcc.canFail (a : LaneAcc) (o : Op) (cause : Nat) : Bool :=
  (a.st == .pending || a.st == .performed) && ((cause == causePoison && !a.isRemote o) || (cause == causeRemote && (match a.tgt with
    | .remote _ _ | .repl _ _ => true
    | .bytes _ _ => false)))

/-- Lanes of an access fail: the record of a later failure of it does not name them as good (R200). -/
def State.failLanes (s : State) (oid : Nat) (p : LaneAcc → Bool) (cause : Nat) : State :=
  match s.op? oid with
  | none => s
  | some o =>
    let bad := (o.accs.filter fun a => p a && a.canFail o cause).map LaneAcc.lane
    let s1 : State := { s with wlog := s.wlog.map fun w =>
      { w with src := w.src.map fun x => if x.op == oid then { x with lanes := x.lanes.filter fun l => !bad.contains l.1 } else x } }
    (s1.modOp oid fun q => { q with accs := q.accs.map fun a => if bad.contains a.lane then { a with st := .failed cause } else a }).endAccess oid

/-- The commits that lanes of a performed store to a replicated page still owe will fail (R196, R200). -/
def State.doom (s : State) (oid : Nat) (lanes : Word) : State :=
  { s with wlog := s.wlog.map fun w =>
    if w.commits.isEmpty && w.src.any (fun o => o.op == oid && laneIn lanes o.lane) then { w with src := w.src.map fun o => { o with doomed := true } }
    else w }

/-- Whether a lane's access has been sent and not answered: a store and a `red` as they perform, others as they issue. -/
def LaneAcc.sent (a : LaneAcc) (o : Op) : Bool := a.isRemote o && a.st == (if o.kind.silent then .performed else .pending)

/-- Whether a peer can still answer a lane: its access has been sent, its port is up and has not lost it, and LTO has not passed
(R357, log 15). -/
def State.answerable (s : State) (o : Op) (a : LaneAcc) : Bool :=
  a.sent o && !a.way.lost && ((a.way.port.bind fun p => s.links[p]?).any Link.up) && s.time ≤ a.way.at_ + 1000 * s.lto

/-- A peer's answer for one lane: the bytes of a load or the old value of an atomic; a release crosses first (R205, R356). -/
def State.remoteLane (s : State) (oid lane : Nat) (data : List Byte) (poison : Bool) : State :=
  match s.op? oid with
  | none => s
  | some o =>
    match o.accs.find? fun a => a.lane == lane with
    | none => s
    | some a =>
      let needs : Bool := !o.kind.silent
      if !s.answerable o a || !s.laneReady o a || (needs && (data.length != o.size || s.inFull o.core)) then s
      else
        (((s.cross oid).respond o.core oid (if needs then 1 else 0)).modOp oid fun p => p.setLane lane fun b =>
          { b with st := (if poison && needs then .failed causePoison else .done), data := (if needs then data else b.data) }).endAccess oid

/-- REMOTE_ACCESS_COMPLETE (R356). -/
def execRemoteAccessComplete (o lane : Nat) (data : List Byte) (poison : Bool) (s : State) : Host.Outcome State Fault Refusal :=
  deviceStep s fun s => s.remoteLane o lane data poison

/-- REMOTE_TIMEOUT (R357): LTO counts microseconds. -/
def execRemoteTimeout (o lane : Nat) (s : State) : Host.Outcome State Fault Refusal :=
  deviceStep s fun s =>
    match s.op? o with
    | some p => s.failLanes o (fun a => a.lane == lane && a.sent p && a.way.at_ + 1000 * s.lto ≤ s.time) causeRemote
    | none => s

/-- The bytes that a peer's access touches at this device. -/
def peerSize : PeerAccess → Nat
  | .read n => n
  | .write bs _ => bs.length
  | .atomic _ n _ _ => n

/-- A peer's access performs at its home here (R356): a read, or an atomic, answers; of a poisoned line it answers the marker (R364). -/
def State.peerAccess (s : State) (pa : Nat) (q : PeerAccess) : State :=
  match q with
  | .write bs poison => (s.hostWrite pa bs).hostMarks pa bs.length poison
  | .read n => { s with reply := some (if s.memPoisoned pa n then .poisoned (poisonedTlp n) else .data (s.peekN pa n)) }
  | .atomic aop n v v2 =>
    if s.memPoisoned pa n then { s with reply := some (.poisoned (poisonedTlp n)) }
    else
      let r := s.homeRmw pa n fun old => atomNew aop n old v v2
      { r.2 with reply := some (.value r.1) }

/-- REMOTE_ACCESS_RECEIVE (R356): it comes over a live port, to installed memory, and its answer goes back over that port; an atomic is
one of R206 at its size. -/
def execRemoteAccessReceive (q : PeerAccess) (pa port : Nat) (s : State) : Host.Outcome State Fault Refusal :=
  deviceStep s fun s =>
    let ok := match q with
      | .atomic aop n _ _ => aop ≤ 10 && (n == 4 || n == 8 && aop != 1) && pa % n == 0
      | _ => peerSize q != 0
    if !((s.links[port]?).any Link.live) || !ok || Config.memTop < pa + peerSize q then s else (s.peerAccess pa q).sendOver [some port]

end Sys2Proof.Machine
end

