-- ==== Sys2Proof/Machine/Txb.lean ====
section
/-! DEFINITION. Transaction barriers: their events, waits and instructions (R187 to R189, R212 to R214). -/
namespace Sys2Proof.Machine

/-- The barrier at a key. -/
def State.barrier (s : State) (key : Nat) : Nat := ofBytes ((List.range 16).map fun i => s.newest (key + i))

/-- PHASE of a barrier (Table 11-7). -/
def txbPhase (w : Nat) : Nat := bitsOf w 35 32

/-- A barrier with ERR set, or treated so: INIT 0 or a reserved bit set (R212). -/
def txbBad (w : Nat) : Bool :=
  bitOf w 31 || bitsOf w 45 39 == 0 || bitsOf w 127 120 != 0 || bitsOf w 95 88 != 0 || bitsOf w 63 46 != 0 || bitsOf w 38 36 != 0 ||
    bitsOf w 23 0 != 0

/-- A barrier from its fields (Table 11-7). -/
def txbWord (init phase arr posted landed : Nat) : Nat :=
  landed * 2 ^ 96 + posted * 2 ^ 64 + init * 2 ^ 39 + phase * 2 ^ 32 + arr * 2 ^ 24

/-- The events of Table 11-8 besides `txb.init` and `txb.wait`. -/
inductive TxbEvent where
  | arrive (k : Nat)
  | expect (c : Nat)
  | land
  deriving DecidableEq, Repr

/-- The phase flip, in the same update (R188). -/
def txbFlip (init phase arr posted landed : Nat) : Nat × Bool :=
  if arr == 0 && landed == posted then (txbWord init ((phase + 1) % 16) init 0 0, true) else (txbWord init phase arr posted landed, false)

/-- One event on a barrier without ERR (Table 11-8): its new value and whether it flipped; none when it overflows. -/
def txbApply (e : TxbEvent) (w : Nat) : Option (Nat × Bool) :=
  let arr := bitsOf w 30 24
  let posted := bitsOf w 87 64
  let landed := bitsOf w 119 96
  let init := bitsOf w 45 39
  match e with
  | .arrive k => if k ≤ arr then some (txbFlip init (txbPhase w) (arr - k) posted landed) else none
  | .expect c => if posted + c < 2 ^ 24 then some (txbFlip init (txbPhase w) arr (posted + c) landed) else none
  | .land => if landed + 1 < 2 ^ 24 then some (txbFlip init (txbPhase w) arr posted (landed + 1)) else none

/-- Parked waits on a barrier, as group and entry: those of resident groups, since a restore executes the unit again (R213). -/
def State.txbWaits (s : State) (key : Nat) : List (Nat × Nat × Nat) :=
  (s.groups.filter fun g => g.phase == .resident).flatMap fun g => g.fragments.filterMap fun e =>
    match (g.entry e).st, (g.entry e).park with
    | .parked, .txb k p => if k == key then some (g.id, e, p) else none
    | _, _ => none

/-- A parked wait whose barrier's phase moved returns, as an acquire; one whose barrier has ERR raises TXB_OVERFLOW (R213). -/
def State.txbReturn (s : State) (w : Nat) (p : Nat × Nat × Nat) : State :=
  match s.group? p.1 with
  | none => s
  | some g =>
    if txbBad w then
      let s1 := s.modGroup g.id fun h => h.wake p.2.1 fun y => y
      s1.raise s1 g.id p.2.1 (Trap.at_ trapTxb (g.entry p.2.1).pc)
    else if txbPhase w != p.2.2 then
      (s.modGroup g.id fun h => h.wake p.2.1 fun y => { y with pc := y.next, seenB := false, seenT := false, seenO := false }).acquireFree g.core (clusterCores g.core)
    else s

/-- An event on a barrier (R188): the new state and whether it was in error. -/
def State.txbEvent (s : State) (key : Nat) (e : TxbEvent) : State × Bool :=
  let w := s.barrier key
  if txbBad w then (s, true)
  else
    match txbApply e w with
    | some (x, flip) =>
      let s0 := s.putN key (bytesOf 16 x)
      let s1 := if flip then s0.flipCommit key else s0
      (if flip then (s1.txbWaits key).foldl (fun (s : State) p => s.txbReturn x p) s1 else s1, false)
    | none =>
      let x := w + 2 ^ 31
      let s1 := s.putN key (bytesOf 16 x)
      ((s1.txbWaits key).foldl (fun (s : State) p => s.txbReturn x p) s1, true)

/-- The initialised barriers, with the one at `k` among them (R189). -/
def State.noteBarrier (s : State) (k : Nat) : State := { s with txbs := if s.txbs.contains k then s.txbs else k :: s.txbs }

/-- The address that a barrier instruction names (R197, Table 07-3: the unit is 32 bytes). -/
def Frag.txbAddr (u : Frag) (f : MF) : Nat := addrPlus (u.g.ptr f.addr.toNat) (offBytes f 32)

/-- The key of a barrier at a pointer, or the cause for which it faults: SPACE_FAULT, MISALIGNED, SPAD_RANGE. -/
def State.txbKey (s : State) (g : Group) (p : Nat) : Except Nat Nat :=
  match spadOnly p (s.resolve g p 16 16 true) with
  | .ok (.bytes k _) => .ok k
  | .ok _ => .error causeSpace
  | .error c => .error c

/-- A barrier instruction whose pointer gives `x`: its fault, or its barrier after the core's earlier accesses to its bytes
(R241). -/
def Frag.atKey (u : Frag) (s : State) (f : MF) (body : Nat → Res) (x : Except Nat Nat) : Res :=
  match x with
  | .error c => u.fault s c (u.txbAddr f)
  | .ok k => if s.pendingAt u.g.core s.nextId (.bytes k none) 16 then .hold false else body k

/-- A barrier instruction on the barrier it names. -/
def Frag.onBarrier (u : Frag) (s : State) (f : MF) (body : Nat → Res) : Res := u.atKey s f body (s.txbKey u.g (u.txbAddr f))

/-- An event that overflows, or meets ERR, raises TXB_OVERFLOW at the instruction; ERR is then set (Table 11-8). -/
def Frag.txbDo (u : Frag) (s : State) (k : Nat) (e : TxbEvent) : Res :=
  let r := s.txbEvent k e
  if r.2 then .trap (Trap.at_ trapTxb u.x.pc) r.1 s else .post r.1

/-- TXB_INIT (R212). -/
def execTxbInit (m : Mods) (f : MF) (s : State) : Host.Outcome State Fault Refusal :=
  issue (.txbInit m f) s fun u s =>
    u.onBarrier s f fun k =>
      .ok ((s.putN k (bytesOf 16 (txbWord f.data.toNat 0 f.data.toNat 0 0))).noteBarrier k)

/-- TXB_ARRIVE (R212): a release at cluster scope (R189). -/
def execTxbArrive (m : Mods) (f : MF) (s : State) : Host.Outcome State Fault Refusal :=
  issue (.txbArrive m f) s fun u s =>
    u.onBarrier s f fun k =>
      let e : TxbEvent := .arrive (max 1 f.data.toNat)
      if u.unreleased s 3 then .hold false
      else if (s.txbEvent k e).2 then u.txbDo s k e
      else u.txbDo (s.release u.g.core 3) k e

/-- TXB_EXPECT (R212). -/
def execTxbExpect (m : Mods) (f : MF) (s : State) : Host.Outcome State Fault Refusal :=
  issue (.txbExpect m f) s fun u s =>
    u.onBarrier s f fun k => u.txbDo s k (.expect (u.g.getS f.data.toNat).toNat)

/-- TXB_WAIT (R213): it returns at once, as an acquire, when PHASE differs; else the fragment parks. -/
def execTxbWait (m : Mods) (f : MF) (s : State) : Host.Outcome State Fault Refusal :=
  issue (.txbWait m f) s fun u s =>
    u.onBarrier s f fun k =>
      let w := s.barrier k
      let p := (u.g.getS f.data.toNat).toNat % 16
      if txbBad w then u.raise s trapTxb
      else if txbPhase w != p then .ok (s.acquireFree u.g.core (clusterCores u.g.core))
      else .ok (u.parked s (.txb k p))

end Sys2Proof.Machine
end

