-- ==== Sys2Proof/Machine/Copy.lean ====
section
/-! DEFINITION. Copies (R186, R194, R195, R209 to R211, R225, R250): issue, reading, landing, and their failures; the queries
of the Sideboard and of poison (R215, R216). -/
namespace Sys2Proof.Machine

/-! ## What a copy reads and writes -/

/-- The writes that a copy may read at a key of global or host memory (R250): the one that was in the core's snapshot when the copy
issued, or that the core has read since (R242), and every later one in coherence order; newest first, none for memory itself. What
another core still owes to a replicated page is not there yet (R196), and what this core owes comes after all else. -/
def State.copyChoices (s : State) (o : Op) (key : Nat) : List (Option Write) :=
  let ws := s.wlog.filter fun w => w.key == key && (w.core == o.core || !(w.mca && w.commits.isEmpty))
  let order := (ws.filter fun w => w.owed o.core) ++ ws.filter fun w => !w.owed o.core
  let later := order.takeWhile fun w => !w.wasInSnap o.core o.begun o.seen && !w.joined.any fun j => j.1 == o.core
  later.map some ++ [(order.drop later.length).head?]

/-- One of them, by a free choice that position `n` tells from others. -/
def State.copyPick (s : State) (o : Op) (n key : Nat) : Option Write :=
  let ws := s.copyChoices o key
  ws[(Config.freeWord (s.free + 64 + n)).toNat % ws.length]?.getD none

/-- The byte that it gives. -/
def State.copyChoice (s : State) (o : Op) (n key : Nat) : Byte :=
  match s.copyPick o n key with
  | some w => w.val
  | none => s.mem.get key

/-- A byte that a copy reads of a peer: free, or, by a free choice for its line, poisoned (R364, log 15); there is none while no port
is up (R355). -/
def State.copyPeer (s : State) (p : Nat) : Except Nat Byte :=
  if !s.linked then .error causeRemote
  else if Config.freeBit (s.free + 64 + 2 ^ 20 + p / 64 % 2 ^ 18) then .error causePoison
  else .ok (Config.freeByte (s.free + 64 + p % 2 ^ 20))

/-- A byte that a copy reads at a tagged address (R250): its value, or the cause for which it cannot be read. -/
def State.copyByte (s : State) (o : Op) (p : Nat) : Except Nat Byte :=
  match ptrTag p with
  | 0 =>
    match s.xlate o.ctx p 0 with
    | .error c => .error c
    | .ok t =>
      if s.tgtPoisoned o.core t 1 then .error causePoison
      else
        match t.readKey o.core with
        | none => s.copyPeer p
        | some k => .ok (s.viewed (s.tgtView t) (fun j => s.copyChoice o (p / 64 * 64 % 2 ^ 20 + j % 64) j) k)
  | 1 =>
    let core := spadTarget o.core p
    let off := bitsOf p 18 0
    if s.spadPoisoned core off 1 then .error causePoison else .ok (s.newest (spadKey core off))
  | 2 => .ok (s.newest (privKey o.g (bitsOf p 51 0)))
  | _ =>
    if !s.hostAllowed o.ctx (bitsOf p 51 0) 1 false then .error causeHost
    else if s.memPoisoned (hostKey (bitsOf p 51 0)) 1 then .error causePoison
    else .ok (s.copyChoice o (p % 2 ^ 20) (hostKey (bitsOf p 51 0)))

/-- The writes of global and host memory that a copy reads at an address, with their keys: those of its whole line, where that is held
in another form (R182). -/
def State.copyReads (s : State) (o : Op) (p : Nat) : List (Nat × Option Write) :=
  let at_ (k n : Nat) : Nat × Option Write := (k, s.copyPick o n k)
  match ptrTag p with
  | 0 =>
    match s.xlate o.ctx p 0 with
    | .error _ => []
    | .ok t =>
      match t.readKey o.core with
      | none => []
      | some k =>
        if s.heldAs (k / 64) == s.tgtView t then [at_ k (p / 64 * 64 % 2 ^ 20 + k % 64)]
        else (List.range 64).map fun i => at_ (k / 64 * 64 + i) (p / 64 * 64 % 2 ^ 20 + i)
  | 3 => [at_ (hostKey (bitsOf p 51 0)) (p % 2 ^ 20)]
  | _ => []

/-- A copy reads at some addresses: the writes that it reads join its core's snapshot (R242, R243), as its core hears of their commits,
and the translations that it uses are cached (R183). -/
def State.copyJoin (s : State) (o : Op) (ps : List Nat) : State :=
  let ws := ps.flatMap fun p => s.copyReads o p
  ((s.hear o.core (ws.flatMap fun x => s.shows o.core x.1 x.2)).join o.core fun w => ws.any fun x => x.2 == some w).rememberAll o.ctx
    (ps.filter fun p => ptrTag p == 0)

/-- What one sector receives: addresses with their bytes, and the source bytes that failed, with their causes. -/
structure Image where
  bytes : List (Nat × Byte)
  fails : List (Nat × Nat)
  deriving DecidableEq, Repr

/-- The tagged pointer of a scratchpad key (Table 11-1). -/
def spadPtr (key : Nat) : Nat := 2 ^ 60 + spadCore key % 4 * 2 ^ 58 + spadOff key

/-- Source failures among addresses. -/
def State.copyFails (s : State) (o : Op) (ps : List Nat) : List (Nat × Nat) :=
  ps.filterMap fun p => match s.copyByte o p with
    | .error c => some (p, c)
    | .ok _ => none

/-- The byte read at an address; 0 where it cannot be read. -/
def State.copyRead (s : State) (o : Op) (p : Nat) : Byte := match s.copyByte o p with | .ok b => b | .error _ => 0

/-- The image of one 32-byte sector of a tensor copy's destination (R186, R225). -/
def State.tensorImage (s : State) (o : Op) (dst src : BitVec 512) (c : Sector) : Image :=
  let d := shapeOf dst
  let h := shapeOf src
  let ps := d.pieces.filter fun p => p.scale == c.scale && p.addr < c.addr + 32 && c.addr < p.addr + p.len
  let one (p : Piece) : Image :=
    let xs := p.els.map fun i =>
      let x := h.elemAt (s.copyRead o) i
      if h.layout == 0 && d.layout == 1 then canonElem d.fmt x else x
    let bs := p.bytes d xs (s.copyRead o p.addr).toNat
    { bytes := (bs.zipIdx.map fun (q : Byte × Nat) => (p.addr + q.2, q.1)).filter fun (q : Nat × Byte) =>
        c.addr ≤ q.1 && q.1 < c.addr + 32,
      fails := s.copyFails o (p.els.flatMap h.elemBytes) }
  let xs := ps.map one
  { bytes := xs.flatMap Image.bytes, fails := xs.flatMap Image.fails }

/-- Source pointer of a lane of `cpy.l`. -/
def LaneAcc.source (a : LaneAcc) : Nat := ofBytes a.data2

/-- The image of one lane of a lane copy: its bytes that no higher lane writes (R211). -/
def State.laneImage (s : State) (o : Op) (k : Nat) : Image :=
  match o.accs[k]? with
  | none => { bytes := [], fails := [] }
  | some a =>
    let later (p : Nat) : Bool := (o.accs.drop (k + 1)).any fun b => b.addr ≤ p && p < b.addr + o.size
    let src := (List.range o.size).map fun i => a.source + i
    { bytes := ((List.range o.size).map fun i => (a.addr + i, s.copyRead o (a.source + i))).filter fun (q : Nat × Byte) => !later q.1,
      fails := s.copyFails o src }

/-- The image of sector `k` of a copy, as it is read now. -/
def State.image (s : State) (o : Op) (k : Nat) : Image :=
  match o.kind with
  | .copyT dst src => match o.sectors[k]? with
    | some c => s.tensorImage o dst src c
    | none => { bytes := [], fails := [] }
  | _ => s.laneImage o k

/-- The image of sector `k`: what was captured when the source was read, else what is read now (R190). A captured sector is
held as a lane: address and value of each byte in `data` and `data2`, a failure in `st` and `addr`. -/
def State.sectorImage (s : State) (o : Op) (k : Nat) : Image :=
  match o.srcDone, o.kind with
  | true, .copyT _ _ =>
    match o.accs.find? fun a => a.lane == k with
    | some a =>
      let n := a.data2.length / 8
      { bytes := (List.range n).map fun i => (ofBytes ((a.data2.drop (8 * i)).take 8), a.data[i]?.getD 0),
        fails := match a.st with | .failed c => [(a.addr, c)] | _ => [] }
    | none => { bytes := [], fails := [] }
  | true, _ =>
    match o.accs[k]? with
    | some a =>
      let im := s.laneImage o k
      { bytes := im.bytes.map fun q => (q.1, a.data[q.1 - a.addr]?.getD 0),
        fails := match a.st with | .failed c => [(a.source, c)] | _ => [] }
    | none => { bytes := [], fails := [] }
  | false, _ => s.image o k

/-! ## When a copy may act -/

/-- Whether an access of a group that issued before operation `before` has still to perform on an interval of the group's
context-private memory (R238). -/
def State.privPending (s : State) (gid lo hi : Nat) (write : Bool) (before : Nat) : Bool :=
  s.ops.any fun p => p.id < before && p.g == gid && p.kind.isAccess && (write || p.kind.writes) && p.accs.any fun a =>
    a.st == .pending && (match a.tgt with
    | .bytes k _ => 2 ^ 66 ≤ k && k % 2 ^ 52 < hi && lo < k % 2 ^ 52 + p.size
    | _ => false)

/-- Whether an asynchronous operation may have effects: on scratchpad every conflicting earlier entry has retired, and every
conflicting earlier group access has performed (R191); context-private memory takes its group's accesses in program order
(R238). -/
def State.asyncReady (s : State) (o : Op) : Bool :=
  ((s.sideboard.filter fun e => e.op == o.id).all fun e =>
    !s.sbBlocks e.core e.lo e.hi e.write o.id && !s.spadPending e.core (2 ^ 32) e.lo e.hi e.write o.id) &&
    o.privs.all fun x => !s.privPending o.g x.1 x.2.1 x.2.2 o.id && !s.privCopies o.g x.1 x.2.1 x.2.2 o.id

/-! ## Landing -/

/-- The scratchpad line of a tagged address, as core * 8192 + line. -/
def spadLine (core p : Nat) : Nat := spadTarget core p * 8192 + bitsOf p 18 0 / 64

/-- A write of a copy outside scratchpad belongs to its barrier's phase, which commits it (R250). -/
def State.ofPhase (s : State) (o : Op) : State :=
  match o.bar with
  | some k => { s with landed := (k, s.mclock) :: s.landed }
  | none => s

/-- One byte of a copy reaches its destination: written, or the cause for which it is not. On a replicated page it commits as it
lands (R196). -/
def State.copyWrite (s : State) (o : Op) (p : Nat) (b : Byte) : Except Nat State :=
  match ptrTag p with
  | 0 =>
    match s.xlate o.ctx p 1 with
    | .error c => .error c
    | .ok (.bytes k enc) => .ok ((s.writeTgt o.core (.bytes k enc) [b] none).ofPhase o)
    | .ok t => .ok (s.putTgt o.core t [b])
  | 1 => .ok (s.put (spadKey (spadTarget o.core p) (bitsOf p 18 0)) b)
  | 2 => .ok (s.put (privKey o.g (bitsOf p 51 0)) b)
  | _ =>
    if s.hostAllowed o.ctx (bitsOf p 51 0) 1 true then .ok ((s.performN o.core (hostKey (bitsOf p 51 0)) false none [b]).ofPhase o)
    else .error causeHost

/-- Every byte of an image reaches its destination; the first failure, if any. -/
def State.copyWrites (s : State) (o : Op) : List (Nat × Byte) → State × Option (Nat × Nat)
  | [] => (s, none)
  | q :: qs =>
    match s.copyWrite o q.1 q.2 with
    | .ok s1 => s1.copyWrites o qs
    | .error c => let r := s.copyWrites o qs; (r.1, some (q.1, c))

/-- The 64-byte lines, in main memory's numbering, that a global address of a copy lies in: one on each replica that is here. -/
def State.copyLines (s : State) (o : Op) (p : Nat) : List Nat :=
  if ptrTag p == 0 then
    match s.xlate o.ctx p 1 with
    | .ok t => t.localKeys.map (· / 64)
    | .error _ => []
  else if ptrTag p == 3 then [hostKey (bitsOf p 51 0) / 64]
  else []

/-- Whether a copy, over all its sectors, has now written every byte of a line with none of its sectors there poisoned
(R195, R364). -/
def State.lineDone (s : State) (o : Op) (line : Nat) : Bool :=
  let ks := (List.range o.sectors.length).filter fun k => match o.sectors[k]? with
    | some c => c.addr / 64 ≤ line && line ≤ (c.addr + (match o.kind with | .copyL => o.size - 1 | _ => 31)) / 64
    | none => false
  let here := ks.filterMap fun k => o.sectors[k]?
  let written := ks.flatMap fun k => (s.sectorImage o k).bytes.map Prod.fst
  here.all (fun c => c.landed && !c.lost) && ((List.range 64).all fun i => written.contains (line * 64 + i))

/-- Marks of lines after a sector landed without a failure (R195, R364). -/
def State.clearLine (s : State) (o : Op) (p : Nat) : State :=
  if !s.lineDone o (p / 64) then s
  else if ptrTag p == 1 then { s with spoison := s.spoison.filter fun l => l != spadLine o.core p }
  else { s with mpoison := s.mpoison.filter fun m => !(s.copyLines o p).contains m }

/-- The addresses that a sector's bytes are written to, those that a higher lane overwrites among them. -/
def Op.sectorAddrs (o : Op) (im : Image) (k : Nat) : List Nat :=
  match o.kind, o.accs[k]? with
  | .copyL, some a => (List.range o.size).map fun i => a.addr + i
  | _, _ => im.bytes.map Prod.fst

/-- Sector `k` of a copy, whose source failed (R194, R195, R210): the scratchpad lines that should have received its bytes are
poisoned; outside scratchpad its bytes stay unwritten, or are written with the mark when a poisoned scratchpad line supplied them. -/
def State.landBad (s : State) (o : Op) (im : Image) (k : Nat) : State × Option (Nat × Nat) :=
  let as := o.sectorAddrs im k
  if as.any fun a => ptrTag a == 1 then ((as.map fun a => spadLine o.core a).eraseDups.foldl (fun (s : State) l => s.poisonSpad l) s, none)
  else if !im.fails.isEmpty && im.fails.all fun q => q.2 == causePoison && ptrTag q.1 == 1 then
    let r := s.copyWrites o im.bytes
    ((im.bytes.flatMap fun q => s.copyLines o q.1).eraseDups.foldl (fun (s : State) l => s.poisonMem l) r.1, r.2)
  else (s, none)

/-- Counts a landed sector on the copy's barrier (R188); an error is remembered for its record. A barrier that only the target of a transfer
names for it holds undefined values (R344). -/
def State.countSector (s : State) (o : Op) : State :=
  let s0 := match o.wild with
    | some k => { s.putN k ((List.range 16).map fun i => Config.freeByte (s.free + i)) with free := s.free + 16 }
    | none => s
  match o.bar with
  | none => s0
  | some k =>
    let r := s0.txbEvent k .land
    if r.2 then r.1.modOp o.id fun p => { p with poisoned := true } else r.1

/-- The end of a copy whose last sector has landed: its records (R188, R194), its counter, its entries (R186). Model choices (log 63):
a barrier's overflow has a record of its own, with CODE TXB_OVERFLOW and the barrier's pointer as ADDR, beside that of R194; the cause
of R194's record stands in lane 0's entry, with FMASK 1; its AUX counts the lines of every sector that failed, those of a global
destination as those that are poisoned; and a poisoned scratchpad source, which R195 lets poison the destination, is reported too. -/
def State.endCopy (s : State) (oid : Nat) : State :=
  match s.op? oid with
  | none => s
  | some o =>
    if !(o.sectors.all fun c => c.landed) then s
    else
      match s.group? o.g with
      | none => s.dropOp o
      | some g =>
        let bare : Fault0 := { code := trapTxb, pc := o.pc, flags := 0, entry := o.e, fmask := 0, cmask := 0, notes := [], aux := 0, addr := 0 }
        let s1 := if o.poisoned then s.postFault g { bare with addr := spadPtr (o.bar.getD 0) } else s
        let lines := (o.sectors.filter fun c => c.lost).map fun c => c.addr / 64
        let s2 := match o.firstBad with
          | some (a, c) => s1.postFault g { bare with code := trapAccess, fmask := maskOf (· == 0), addr := a, aux := lines.eraseDups.length,
                                                      notes := [{ lane := 0, addr := a, cause := c, src := false }] }
          | none => s1
        (s2.modGroup o.g fun h => h.lower o.kind).dropOp o

/-- The addresses that sector `k` of a copy has still to read, and those that it writes. -/
def Op.touches (o : Op) (k : Nat) : List Nat × List Nat :=
  let both := match o.kind with
    | .copyT dst src =>
      (match o.sectors[k]? with
      | some c =>
        let ps := (shapeOf dst).pieces.filter fun (p : Piece) => p.scale == c.scale && p.addr < c.addr + 32 && c.addr < p.addr + p.len
        (ps.flatMap fun (p : Piece) => p.els.flatMap (shapeOf src).elemBytes,
          (ps.flatMap fun (p : Piece) => (List.range p.len).map (p.addr + ·)).filter fun a => c.addr ≤ a && a < c.addr + 32)
      | none => ([], []))
    | _ =>
      (match o.accs[k]? with
      | some a => ((List.range o.size).map (a.source + ·), (List.range o.size).map (a.addr + ·))
      | none => ([], []))
  (if o.srcDone then [] else both.1, both.2)

/-- What of a group's context-private memory a copy of a fragment still in the source touches, and a move of a transfer has given away,
is undefined (R341). -/
def State.spoilCopy (s : State) (o : Op) (ps : List Nat) : State :=
  match s.group? o.g with
  | none => s
  | some g =>
    if g.moves.isEmpty then s
    else (ps.filter fun p => ptrTag p == 2).foldl (fun (s : State) p =>
      s.spoilPriv o.g ((g.issuerOf o).getD 72) (bitsOf p 51 0) (bitsOf p 51 0 + 1)) s

/-- Sector `k` of a copy lands (R186). -/
def State.landSector (s1 : State) (o : Op) (k : Nat) : State :=
  match o.sectors[k]? with
  | none => s1
  | some c =>
    if c.landed then s1
    else
      let s0 := s1.spoilCopy o ((o.touches k).1 ++ (o.touches k).2)
      let read := s0.sectorImage o k
      let s := (s0.copyJoin o (o.touches k).1).rememberAll o.ctx ((o.touches k).2.filter fun p => ptrTag p == 0)
      let im := match c.fail with | some a => { read with fails := (a, causeRemote) :: read.fails } | none => read
      let bad := !im.fails.isEmpty
      -- A line of this copy that a failing sector poisoned keeps its undefined content (R194).
      let spoiled (p : Nat) : Bool := ptrTag p == 1 && o.sectors.any fun d => d.lost && d.landed && d.addr / 64 == p / 64
      let r0 := if bad then s.landBad o im k else s.copyWrites o (im.bytes.filter fun q => !spoiled q.1)
      let r := (r0.1.spoilCopy o (o.touches k).2, r0.2)
      let first := match o.firstBad, im.fails.head?, r.2 with
        | some x, _, _ => some x
        | none, some x, _ => some x
        | none, none, x => x
      let s1 := { r.1 with free := r.1.free + 2 ^ 21 }.modOp o.id fun p =>
        { p with firstBad := first, sectors := p.sectors.set k { c with landed := true, lost := bad || r.2.isSome } }
      let as := o.sectorAddrs im k
      let s2 := match s1.op? o.id with
        | some p => if bad then s1 else (as.map (· / 64)).eraseDups.foldl (fun (s : State) l =>
            s.clearLine p ((as.find? fun a => a / 64 == l).getD 0)) s1
        | none => s1
      (s2.countSector o).endCopy o.id

/-- The chunk of a sector (R285): ascending addresses, data before scale tile, 128 to a chunk. -/
def Op.chunk (o : Op) (k : Nat) : Nat :=
  match o.sectors[k]? with
  | none => 0
  | some c => (o.sectors.filter fun d => if d.scale == c.scale then decide (d.addr < c.addr) else c.scale).length / 128

/-- Whether a pre-emption keeps a sector of a tensor copy from landing before the restore (R285). -/
def Op.stoppedAt (o : Op) (k : Nat) : Bool := o.limit.any fun n => decide (n ≤ o.chunk k)

/-- COPY_SECTOR_LAND (R186): sector `k` of copy `o` lands; a copy without sectors completes. -/
def execCopySectorLand (o k : Nat) (s : State) : Host.Outcome State Fault Refusal :=
  deviceStep s fun s =>
    match s.op? o with
    | none => s
    | some p =>
      if p.saved || !s.asyncReady p || p.stoppedAt k then s
      else
        match p.kind with
        | .copyT _ _ | .copyL => if p.sectors.isEmpty then s.endCopy o else s.landSector p k
        | _ => s

/-- The captured form of a sector's image. -/
def Image.capture (im : Image) (k : Nat) : LaneAcc :=
  { lane := k, tgt := .bytes 0 none, way := .none, data := im.bytes.map Prod.snd, data2 := im.bytes.flatMap fun q => bytesOf 8 q.1,
    addr := (im.fails.head?.map Prod.fst).getD 0,
    st := match im.fails.head? with | some (_, c) => .failed c | none => .done }

/-- The source of a copy has been read to its last byte (R190): what is left to land is held, and its read entry retires. -/
def State.captureSource (s : State) (o : Op) : State :=
  let accs := match o.kind with
    | .copyT _ _ => (List.range o.sectors.length).map fun k => (s.image o k).capture k
    | _ => o.accs.map fun a =>
      let bs := (List.range o.size).map fun i => s.copyRead o (a.source + i)
      match s.copyFails o ((List.range o.size).map fun i => a.source + i) with
      | [] => { a with data := bs }
      | (_, c) :: _ => { a with data := bs, st := .failed c }
  let reads := (List.range o.sectors.length).flatMap fun k => (o.touches k).1
  let s1 := (s.copyJoin o reads).spoilCopy o reads
  ({ s1 with free := s1.free + 2 ^ 21 }.modOp o.id fun p => { p with accs := accs, srcDone := true }).sbRetire o.id (some 1)

/-- COPY_SOURCE_READ_DONE (R190). -/
def execCopySourceReadDone (o : Nat) (s : State) : Host.Outcome State Fault Refusal :=
  deviceStep s fun s =>
    match s.op? o with
    | none => s
    | some p =>
      let source := s.sideboard.any fun e => e.op == o && e.part == 1
      match p.kind with
      | .copyT _ _ | .copyL => if source && !p.srcDone && !p.saved && s.asyncReady p then s.captureSource p else s
      | _ => s

/-- The first address of sector `k` of a copy that a peer has to give or take, or at which every replica has to be written. -/
def State.sectorPeer (s : State) (o : Op) (k : Nat) : Option Nat :=
  let far (p : Tgt → Bool) (a : Nat) : Bool := ptrTag a == 0 && (match s.xlate o.ctx a 0 with | .ok t => p t | .error _ => false)
  ((o.touches k).1.filter (far fun t => (t.readKey o.core).isNone) ++
    (o.touches k).2.filter (far fun t => (t.readKey o.core).isNone || t.isRepl)).head?

/-- DATA_FAULT_DETECT (R194, R200): lanes of an access fail after issue; or the commits that lanes of a store to a replicated page
still owe will fail (R196); or those sectors of a copy that a peer or a replicated page takes part in, and that `lanes` names by their
number modulo 32, fail. -/
def execDataFaultDetect (o : Nat) (lanes : Word) (cause : Byte) (s : State) : Host.Outcome State Fault Refusal :=
  deviceStep s fun s =>
    match s.op? o with
    | none => if cause.toNat == causeRemote then s.doom o lanes else s
    | some p =>
      match p.kind with
      | .copyT _ _ | .copyL =>
        if cause.toNat != causeRemote then s
        else s.modOp o fun q => { q with sectors := q.sectors.zipIdx.map fun (c : Sector × Nat) =>
          if c.1.landed || c.1.fail.isSome || !laneIn lanes (c.2 % 32) then c.1 else { c.1 with fail := s.sectorPeer q c.2 } }
      | .mma .. => s
      | _ => (s.failLanes o (fun a => laneIn lanes a.lane) cause.toNat).doom o (if cause.toNat == causeRemote then lanes else 0)

/-! ## Issue of copies -/

/-- The barrier that a copy names through k and c (Table 07-8): a pointer, if any. -/
def Frag.copyBar (u : Frag) (f : RF) : Option Nat :=
  if f.k == 0 then none
  else if f.k == 1 then some (u.g.ptr f.c.toNat)
  else some (addrPlus (u.g.ptr f.c.toNat) ((toSigned 24 ((u.m.i.map BitVec.toNat).getD 0) % (2 ^ 64 : Nat)).toNat))

/-- The check of a named barrier: its key, or the address and cause for which it faults. -/
def Frag.barCheck (u : Frag) (s : State) (f : RF) : Except (Nat × Nat) (Option Nat) :=
  match u.copyBar f with
  | none => .ok none
  | some p => match s.txbKey u.g p with
    | .ok k => .ok (some k)
    | .error c => .error (p, c)

/-- Scratchpad spans of address intervals, by core. -/
def spadSpans (core : Nat) (xs : List (Nat × Nat)) : List (Nat × Nat × Nat) :=
  xs.filterMap fun x => if ptrTag x.1 == 1 && x.1 < x.2 then some (spadTarget core x.1, bitsOf x.1 18 0, bitsOf x.1 18 0 + (x.2 - x.1))
    else none

/-- An outstanding operation of a fragment, before what its kind adds. -/
def Frag.newOp (u : Frag) (s : State) (k : OpKind) : Op :=
  { id := s.nextId, kind := k, g := u.g.id, e := u.e, pc := u.x.pc, ver := u.g.ver, ctx := u.g.ctx, core := u.g.core, size := 0,
    rel := false, acq := false, scope := 0, accs := [], bar := none, sectors := [], srcDone := false, firstBad := none,
    grant := .waiting, prio := s.prioOf u.g, issued := s.time, readyAt := none, poisoned := false, seen := s.snap u.g.core, begun := s.mclock,
    crossed := none, lowered := false, saved := false, touched := false, prev := none, wild := none, limit := none, privs := [], uni := true, mask := u.x.mask }

/-- Registers entries (core, lo, hi, write, part) for a new operation, and adds it (R190); none when a Sideboard is full. -/
def State.register (s : State) (o : Op) (es : List (Nat × Nat × Nat × Bool × Nat)) : Option State :=
  let cores := (es.map Prod.fst).eraseDups
  if cores.any fun c => 256 < s.sbCount c + (es.filter fun e => e.1 == c).length then none
  else some { s with ops := s.ops ++ [o], nextId := s.nextId + 1, sideboard := s.sideboard ++ es.map fun e =>
    { core := e.1, lo := e.2.1, hi := e.2.2.1, write := e.2.2.2.1, op := o.id, part := e.2.2.2.2 } }

/-- Base check of `cpy.t` (R210 step 3): the space, then the range, of one interval. -/
def State.baseCheck (s : State) (g : Group) (p : Nat) (span : Option (Nat × Nat)) : Except Nat Unit :=
  if 4 ≤ ptrTag p || spaceBad p 1 then .error causeSpace
  else
    match span with
    | none => .ok ()
    | some (lo, hi) =>
      if ptrTag p == 1 then
        (if lo / 2 ^ 58 != (hi - 1) / 2 ^ 58 || spaceBad lo (hi - lo) then .error causeSpad
        else if s.spadHeld g (spadTarget g.core p) (bitsOf lo 18 0) (hi - lo) then .ok () else .error causeSpad)
      else if ptrTag p == 2 then (if s.privOf g < bitsOf p 51 0 + (hi - p) then .error causePriv else .ok ())
      else .ok ()

/-- Destination sectors of a tensor copy: the distinct ones its data touch, then those its scale tile touches (R186). -/
def copySectors (d : Shape) : List Sector :=
  let touch (scale : Bool) : List Nat := ((d.pieces.filter fun p => p.scale == scale).flatMap fun p =>
    if p.addr / 32 == (p.addr + p.len - 1) / 32 then [p.addr / 32 * 32] else [p.addr / 32 * 32, (p.addr + p.len - 1) / 32 * 32]).eraseDups
  let mk (scale : Bool) (a : Nat) : Sector := { addr := a, scale := scale, landed := false, lost := false, fail := none }
  (touch false).map (mk false) ++ (touch true).map (mk true)

/-- The first base of two shapes that fails R210 step 3, with its cause. -/
def Frag.basesBad (u : Frag) (s : State) (d h : Shape) : Option (Nat × Nat) :=
  let scale (x : Shape) : Bool := x.layout == 1 && !isInt x.fmt
  let all := [(d.base, d.dataSpan)] ++ (if scale d then [(d.sbase, d.scaleSpan)] else []) ++ [(h.base, h.dataSpan)] ++
    (if scale h then [(h.sbase, h.scaleSpan)] else [])
  if ptrTag d.base != 1 && ptrTag h.base != 1 then some (d.base, causeSpace)
  else all.findSome? fun q => match s.baseCheck u.g q.1 q.2 with
    | .error c => some (q.1, c)
    | .ok _ => none

/-- Sideboard entries of a tensor copy (R190, Table 11-9): its destination's data and scale tile, and its source's cover. -/
def copyEntries (core : Nat) (d h : Shape) : List (Nat × Nat × Nat × Bool × Nat) :=
  (spadSpans core d.dataSpan.toList).map (fun x => (x.1, x.2.1, x.2.2, true, 0)) ++
    (spadSpans core d.scaleSpan.toList).map (fun x => (x.1, x.2.1, x.2.2, true, 2)) ++
    (spanCover (spadSpans core (h.dataSpan.toList ++ h.scaleSpan.toList))).map fun x => (x.1, x.2.1, x.2.2, false, 1)

/-- The intervals of context-private memory among a copy's spans (R238). -/
def privSpans (write : Bool) (xs : List (Nat × Nat)) : List (Nat × Nat × Bool) :=
  xs.filterMap fun x => if ptrTag x.1 == 2 then some (x.1 % 2 ^ 52, x.1 % 2 ^ 52 + (x.2 - x.1), write) else none

/-- CPY_T (R209, R210, R225). -/
def execCpyT (m : Mods) (f : RF) (s : State) : Host.Outcome State Fault Refusal :=
  issue (.cpyT m f) s fun u s =>
    let dt := u.g.getT f.a.toNat
    let st := u.g.getT f.b.toNat
    let d := shapeOf dt
    let h := shapeOf st
    if !copyAllowed d h then u.raise s trapShape
    else
      match u.barCheck s f with
      | .error (p, c) => u.fault s c p
      | .ok bar =>
        match u.basesBad s d h with
        | some (p, c) => u.fault s c p
        | none =>
          let o := { u.newOp s (.copyT dt st) with
            bar := bar, sectors := copySectors d,
            privs := privSpans true (d.dataSpan.toList ++ d.scaleSpan.toList) ++ privSpans false (h.dataSpan.toList ++ h.scaleSpan.toList) }
          let es := copyEntries u.g.core d h
          let flight := (s.ops.filter fun p => p.core == u.g.core && p.kind.akind == 1 && !p.saved).length
          if 127 ≤ u.g.cp || 128 ≤ flight then .hold false
          else
            match s.register o es with
            | none => .hold false
            | some s1 => .ok (u.upd s1 fun g => { g with cp := g.cp + 1 })

/-- Steps 1 to 3 of R198 for one side of a lane copy. -/
def State.sideCheck (s : State) (g : Group) (p n : Nat) : Option Nat :=
  if spaceBad p n then some causeSpace
  else if p % n != 0 then some causeAlign
  else if ptrTag p == 1 && !s.spadHeld g (spadTarget g.core p) (bitsOf p 18 0) n then some causeSpad
  else if ptrTag p == 2 && s.privOf g < bitsOf p 51 0 + n then some causePriv
  else none

/-- The check of one lane of a lane copy (R211): destination before source; the failing side's pointer, whether that is the
source, and the cause. A lane with no side in space 0x1 fails at its destination. -/
def State.pairCheck (s : State) (g : Group) (d p n : Nat) : Option (Nat × Bool × Nat) :=
  if ptrTag d != 1 && ptrTag p != 1 then some (d, false, causeSpace)
  else
    match s.sideCheck g d n with
    | some c => some (d, false, c)
    | none => (s.sideCheck g p n).map fun c => (p, true, c)

/-- The trap of a lane copy's bad barrier (R211): no lane copies, so that every executed lane is in FMASK and a handler that resumes
there copies them all. Model choice (log 24): the header's ADDR is 0, and each lane's entry shows its destination pointer. -/
def Frag.barrierTrap (u : Frag) (ls : List Nat) (dst : Nat → Nat) (c : Nat) : Trap :=
  { Trap.at_ trapAccess u.x.pc with
    fmask := maskOf fun l => ls.contains l, notes := ls.map fun l => { lane := l, addr := dst l, cause := c, src := false } }

/-- A lane copy of `n` bytes (R211). -/
def Frag.laneCopy (u : Frag) (s : State) (f : RF) (n : Nat) : Res :=
  let ls := lanesOf (u.accLanes false)
  let dst (l : Nat) : Nat := u.g.vVal true f.a.toNat l
  let src (l : Nat) : Nat := u.g.vVal true f.b.toNat l
  match u.barCheck s f with
  | .error (_, c) => .trap (u.barrierTrap ls dst c) s s
  | .ok bar =>
    let bad := ls.filterMap fun l => (s.pairCheck u.g (dst l) (src l) n).map fun r => (l, r)
    let good := ls.filter fun l => !(bad.any fun r => r.1 == l)
    let all (side : Nat → Nat) : List (Nat × Nat) := good.map fun l => (side l, side l + n)
    let o := { u.newOp s .copyL with
      size := n, bar := bar, uni := false, privs := privSpans true (all dst) ++ privSpans false (all src),
      accs := good.map fun l => { lane := l, addr := dst l, tgt := .bytes 0 none, data := [], data2 := bytesOf 8 (src l), st := .done, way := .none },
      sectors := good.map fun l => { addr := dst l, scale := false, landed := false, lost := false, fail := none } }
    let span (side : Nat → Nat) : List (Nat × Nat × Nat) := spanCover (spadSpans u.g.core (all side))
    let es := (span dst).map (fun x => (x.1, x.2.1, x.2.2, true, 0)) ++ (span src).map fun x => (x.1, x.2.1, x.2.2, false, 1)
    if 127 ≤ u.g.cp then .hold false
    else
      match if good.isEmpty then some s else (s.register o es).map fun s1 => u.upd s1 fun g => { g with cp := g.cp + 1 } with
      | none => .hold false
      | some s1 =>
        if bad.isEmpty then .ok s1
        else
          .trap { Trap.at_ trapAccess u.x.pc with
                  fmask := maskOf fun k => bad.any fun r => r.1 == k, cmask := maskOf fun k => good.contains k,
                  notes := ls.map fun k => match bad.find? fun r => r.1 == k with
                    | some (_, a, q, c) => { lane := k, addr := a, cause := c, src := q }
                    | none => { lane := k, addr := dst k, cause := 0, src := false } } s1 s

/-- CPY_L_B32 (R211). -/
def execCpyLB32 (m : Mods) (f : RF) (s : State) : Host.Outcome State Fault Refusal :=
  issue (.cpyLB32 m f) s fun u s => u.laneCopy s f 4

/-- CPY_L_B64 (R211). -/
def execCpyLB64 (m : Mods) (f : RF) (s : State) : Host.Outcome State Fault Refusal :=
  issue (.cpyLB64 m f) s fun u s => u.laneCopy s f 8

/-- CPY_L_B128 (R211). -/
def execCpyLB128 (m : Mods) (f : RF) (s : State) : Host.Outcome State Fault Refusal :=
  issue (.cpyLB128 m f) s fun u s => u.laneCopy s f 16

/-! ## Queries -/

/-- SBQ (R215). -/
def execSbq (m : Mods) (f : RF) (s : State) : Host.Outcome State Fault Refusal :=
  issue (.sbq m f) s fun u s =>
    let p := u.g.ptr f.b.toNat
    if ptrTag p != 1 || spaceBad p 0 then u.fault s causeSpace p
    else
      let core := spadTarget u.g.core p
      let off := bitsOf p 18 0
      let len := if f.k == 1 then (u.g.getS f.c.toNat).toNat else immOf m f 32
      let n := if len == 0 then 256 - s.sbCount core
        else (s.sideboard.filter fun e => e.core == core && sbClash e.lo e.hi e.write off (min (off + len) 524288) true).length
      u.uni s false f.a.toNat n

/-- The scratchpad intervals of `poisq` and `poisclr` (R216), as addresses [lo, hi), and the base each belongs to. -/
def Frag.poisSpans (u : Frag) (f : RF) : List (Nat × Option (Nat × Nat)) :=
  if f.k == 0 then
    let h := shapeOf (u.g.getT f.b.toNat)
    (h.base, h.dataSpan) :: (if h.layout == 1 && !isInt h.fmt then [(h.sbase, h.scaleSpan)] else [])
  else
    let p := u.g.ptr f.b.toNat
    let n := (u.g.getS f.c.toNat).toNat
    [(p, if n == 0 then none else some (p, p + n))]

/-- Checks of `poisq` and `poisclr` (R216): SPACE_FAULT, then SPAD_RANGE. -/
def Frag.poisBad (u : Frag) (s : State) (f : RF) : Option (Nat × Nat) :=
  (u.poisSpans f).findSome? fun q =>
    if ptrTag q.1 != 1 || spaceBad q.1 0 then some (q.1, causeSpace)
    else match s.baseCheck u.g q.1 q.2 with
      | .error c => some (q.1, c)
      | .ok _ => none

/-- The scratchpad spans of `poisq` and `poisclr`. -/
def Frag.poisCores (u : Frag) (f : RF) : List (Nat × Nat × Nat) := spadSpans u.g.core ((u.poisSpans f).filterMap Prod.snd)

/-- Whether a group access of the queries must wait: conflicting entries, and the earlier accesses of its core to the lines
that it queries (R191, R216). -/
def Frag.poisWaits (u : Frag) (s : State) (f : RF) (write : Bool) : Bool :=
  (u.poisCores f).any fun x => s.sbBlocks x.1 x.2.1 x.2.2 write s.nextId

/-- POISQ (R216). -/
def execPoisq (m : Mods) (f : RF) (s : State) : Host.Outcome State Fault Refusal :=
  issue (.poisq m f) s fun u s =>
    match u.poisBad s f with
    | some (p, c) => u.fault s c p
    | none =>
      if u.poisWaits s f false then .hold false
      else
        let hit (l : Nat) : Bool := (u.poisCores f).any fun x => x.1 * 8192 + x.2.1 / 64 ≤ l && l ≤ x.1 * 8192 + (x.2.2 - 1) / 64
        u.uni s false f.a.toNat (s.spoison.filter hit).length

/-- POISCLR (R216). -/
def execPoisclr (m : Mods) (f : RF) (s : State) : Host.Outcome State Fault Refusal :=
  issue (.poisclr m f) s fun u s =>
    match u.poisBad s f with
    | some (p, c) => u.fault s c p
    | none =>
      if u.poisWaits s f true then .hold false
      else
        let hit (l : Nat) : Bool := (u.poisCores f).any fun x => x.1 * 8192 + x.2.1 / 64 ≤ l && l ≤ x.1 * 8192 + (x.2.2 - 1) / 64
        .ok { s with spoison := s.spoison.filter fun l => !hit l }

end Sys2Proof.Machine
end

