-- ==== Sys2Proof/Machine/UniformInt.lean ====
section
/-! DEFINITION. Uniform integer instructions and `smovi` (R130 to R132), and the integer functions that they share with the
vector instructions (Tables 08-2 and 08-3). -/
namespace Sys2Proof.Machine

/-! ## Integer functions: from patterns of `w` bits to a pattern -/

/-- Sums, differences and products narrowed by RND (R131, R134). -/
def addBits (rnd w b c : Nat) : Nat := narrow rnd w (intVal (rnd == 2) w b + intVal (rnd == 2) w c)
def subBits (rnd w b c : Nat) : Nat := narrow rnd w (intVal (rnd == 2) w b - intVal (rnd == 2) w c)
def mulBits (rnd w b c : Nat) : Nat := narrow rnd w (intVal (rnd == 2) w b * intVal (rnd == 2) w c)

/-- `imad`: the exact b x c + e, narrowed (R134). -/
def madBits (rnd b c e : Nat) : Nat :=
  narrow rnd 32 (intVal (rnd == 2) 32 b * intVal (rnd == 2) 32 c + intVal (rnd == 2) 32 e)

/-- Bits [63:32] of the product, signed or unsigned. -/
def mulhBits (uns : Bool) (b c : Nat) : Nat := ((intVal uns 32 b * intVal uns 32 c) % (2 ^ 64 : Nat)).toNat / 2 ^ 32

/-- Shifts by an unsigned count. -/
def shlBits (w b c : Nat) : Nat := if w ≤ c then 0 else b * 2 ^ c % 2 ^ w
def shrBits (w b c : Nat) : Nat := if w ≤ c then 0 else b / 2 ^ c
def sarBits (w b c : Nat) : Nat := (toSigned w b / ((2 ^ min c w : Nat) : Int) % (2 ^ w : Nat)).toNat

/-- The smaller or the larger of two words. -/
def minBits (uns : Bool) (b c : Nat) : Nat := if intVal uns 32 c < intVal uns 32 b then c else b
def maxBits (uns : Bool) (b c : Nat) : Nat := if intVal uns 32 b < intVal uns 32 c then c else b

/-- A uniform integer instruction: S[a] from S[b] and `opnd` (R131). -/
def Frag.sop (u : Frag) (s : State) (f : RF) (wide : Bool) (op : Nat → Nat → Nat) : Res :=
  u.uni s wide f.a.toNat (op (u.g.sVal wide f.b.toNat) (u.g.opnd u.m true wide f 0))

/-- The constant of `smovi` (R102). -/
def smoviValue (m : Mods) (f : IF) : Nat :=
  match m.i with
  | some i => i.toNat % 65536 * 65536 + f.imm.toNat
  | none => (sext 16 32 f.imm.toNat).toNat

/-- RND of the unit. -/
def Frag.rnd (u : Frag) : Nat := u.m.modx.rnd.toNat

/-- SADD_32 (R131, Table 08-2). -/
def execSadd32 (m : Mods) (f : RF) (s : State) : Host.Outcome State Fault Refusal :=
  issue (.sadd32 m f) s fun u s => u.sop s f false (addBits u.rnd 32)

/-- SSUB_32 (R131, Table 08-2). -/
def execSsub32 (m : Mods) (f : RF) (s : State) : Host.Outcome State Fault Refusal :=
  issue (.ssub32 m f) s fun u s => u.sop s f false (subBits u.rnd 32)

/-- SMUL_32 (R131, Table 08-2). -/
def execSmul32 (m : Mods) (f : RF) (s : State) : Host.Outcome State Fault Refusal :=
  issue (.smul32 m f) s fun u s => u.sop s f false (mulBits u.rnd 32)

/-- SADD_64 (R131, Table 08-2). -/
def execSadd64 (m : Mods) (f : RF) (s : State) : Host.Outcome State Fault Refusal :=
  issue (.sadd64 m f) s fun u s => u.sop s f true (addBits u.rnd 64)

/-- SSUB_64 (R131, Table 08-2). -/
def execSsub64 (m : Mods) (f : RF) (s : State) : Host.Outcome State Fault Refusal :=
  issue (.ssub64 m f) s fun u s => u.sop s f true (subBits u.rnd 64)

/-- SMUL_64 (R131, Table 08-2). -/
def execSmul64 (m : Mods) (f : RF) (s : State) : Host.Outcome State Fault Refusal :=
  issue (.smul64 m f) s fun u s => u.sop s f true (mulBits u.rnd 64)

/-- SMULH_I32 (R131, Table 08-2). -/
def execSmulhI32 (m : Mods) (f : RF) (s : State) : Host.Outcome State Fault Refusal :=
  issue (.smulhI32 m f) s fun u s => u.sop s f false (mulhBits false)

/-- SMULH_N32 (R131, Table 08-2). -/
def execSmulhN32 (m : Mods) (f : RF) (s : State) : Host.Outcome State Fault Refusal :=
  issue (.smulhN32 m f) s fun u s => u.sop s f false (mulhBits true)

/-- SAND (R131, Table 08-2). -/
def execSand (m : Mods) (f : RF) (s : State) : Host.Outcome State Fault Refusal :=
  issue (.sand m f) s fun u s => u.sop s f false Nat.land

/-- SOR (R131, Table 08-2). -/
def execSor (m : Mods) (f : RF) (s : State) : Host.Outcome State Fault Refusal :=
  issue (.sor m f) s fun u s => u.sop s f false Nat.lor

/-- SXOR (R131, Table 08-2). -/
def execSxor (m : Mods) (f : RF) (s : State) : Host.Outcome State Fault Refusal :=
  issue (.sxor m f) s fun u s => u.sop s f false Nat.xor

/-- SSHL (R131, Table 08-2). -/
def execSshl (m : Mods) (f : RF) (s : State) : Host.Outcome State Fault Refusal :=
  issue (.sshl m f) s fun u s => u.sop s f false (shlBits 32)

/-- SSHR (R131, Table 08-2). -/
def execSshr (m : Mods) (f : RF) (s : State) : Host.Outcome State Fault Refusal :=
  issue (.sshr m f) s fun u s => u.sop s f false (shrBits 32)

/-- SSAR (R131, Table 08-2). -/
def execSsar (m : Mods) (f : RF) (s : State) : Host.Outcome State Fault Refusal :=
  issue (.ssar m f) s fun u s => u.sop s f false (sarBits 32)

/-- SMIN_I32 (R131, Table 08-2). -/
def execSminI32 (m : Mods) (f : RF) (s : State) : Host.Outcome State Fault Refusal :=
  issue (.sminI32 m f) s fun u s => u.sop s f false (minBits false)

/-- SMIN_N32 (R131, Table 08-2). -/
def execSminN32 (m : Mods) (f : RF) (s : State) : Host.Outcome State Fault Refusal :=
  issue (.sminN32 m f) s fun u s => u.sop s f false (minBits true)

/-- SMAX_I32 (R131, Table 08-2). -/
def execSmaxI32 (m : Mods) (f : RF) (s : State) : Host.Outcome State Fault Refusal :=
  issue (.smaxI32 m f) s fun u s => u.sop s f false (maxBits false)

/-- SMAX_N32 (R131, Table 08-2). -/
def execSmaxN32 (m : Mods) (f : RF) (s : State) : Host.Outcome State Fault Refusal :=
  issue (.smaxN32 m f) s fun u s => u.sop s f false (maxBits true)

/-- SCMP_EQ (R131, Table 08-2). -/
def execScmpEq (m : Mods) (f : RF) (s : State) : Host.Outcome State Fault Refusal :=
  issue (.scmpEq m f) s fun u s => u.sop s f false (fun b c => flagWord (compareBits 0 false 32 b c))

/-- SCMP_NE (R131, Table 08-2). -/
def execScmpNe (m : Mods) (f : RF) (s : State) : Host.Outcome State Fault Refusal :=
  issue (.scmpNe m f) s fun u s => u.sop s f false (fun b c => flagWord (compareBits 1 false 32 b c))

/-- SCMP_LT_I32 (R131, Table 08-2). -/
def execScmpLtI32 (m : Mods) (f : RF) (s : State) : Host.Outcome State Fault Refusal :=
  issue (.scmpLtI32 m f) s fun u s => u.sop s f false (fun b c => flagWord (compareBits 2 true 32 b c))

/-- SCMP_LT_N32 (R131, Table 08-2). -/
def execScmpLtN32 (m : Mods) (f : RF) (s : State) : Host.Outcome State Fault Refusal :=
  issue (.scmpLtN32 m f) s fun u s => u.sop s f false (fun b c => flagWord (compareBits 2 false 32 b c))

/-- SCMP_LE_I32 (R131, Table 08-2). -/
def execScmpLeI32 (m : Mods) (f : RF) (s : State) : Host.Outcome State Fault Refusal :=
  issue (.scmpLeI32 m f) s fun u s => u.sop s f false (fun b c => flagWord (compareBits 3 true 32 b c))

/-- SCMP_LE_N32 (R131, Table 08-2). -/
def execScmpLeN32 (m : Mods) (f : RF) (s : State) : Host.Outcome State Fault Refusal :=
  issue (.scmpLeN32 m f) s fun u s => u.sop s f false (fun b c => flagWord (compareBits 3 false 32 b c))

/-- SCMP_GT_I32 (R131, Table 08-2). -/
def execScmpGtI32 (m : Mods) (f : RF) (s : State) : Host.Outcome State Fault Refusal :=
  issue (.scmpGtI32 m f) s fun u s => u.sop s f false (fun b c => flagWord (compareBits 4 true 32 b c))

/-- SCMP_GT_N32 (R131, Table 08-2). -/
def execScmpGtN32 (m : Mods) (f : RF) (s : State) : Host.Outcome State Fault Refusal :=
  issue (.scmpGtN32 m f) s fun u s => u.sop s f false (fun b c => flagWord (compareBits 4 false 32 b c))

/-- SCMP_GE_I32 (R131, Table 08-2). -/
def execScmpGeI32 (m : Mods) (f : RF) (s : State) : Host.Outcome State Fault Refusal :=
  issue (.scmpGeI32 m f) s fun u s => u.sop s f false (fun b c => flagWord (compareBits 5 true 32 b c))

/-- SCMP_GE_N32 (R131, Table 08-2). -/
def execScmpGeN32 (m : Mods) (f : RF) (s : State) : Host.Outcome State Fault Refusal :=
  issue (.scmpGeN32 m f) s fun u s => u.sop s f false (fun b c => flagWord (compareBits 5 false 32 b c))

/-- SSEL (R131, Table 08-2). -/
def execSsel (m : Mods) (f : RF) (s : State) : Host.Outcome State Fault Refusal :=
  issue (.ssel m f) s fun u s => u.sop s f false fun b c => if b != 0 then c else u.g.sVal false f.a.toNat

/-- SMOVI (R132): under `modi` the constant is IMM24[15:0] and imm16, else imm16 sign-extended (R102). -/
def execSmovi (m : Mods) (f : IF) (s : State) : Host.Outcome State Fault Refusal :=
  issue (.smovi m f) s fun u s => u.uni s false f.a.toNat (smoviValue m f)

end Sys2Proof.Machine
end

