-- ==== Sys2Proof/Machine/Matrix.lean ====
section
/-! DEFINITION. The matrix engine (R218, R224, R226 to R237): issue into the Bench, the arbiter, passes, and the shape
register instructions. -/
namespace Sys2Proof.Machine

/-! ## Operands as values -/

/-- The value of an FP16 or BF16 element read through planes (R224). -/
def floatElem (fmt : Nat) (x : Elem) : Num :=
  let fb := fracBits fmt
  let bias : Int := if fmt == 5 then 127 else 15
  if x.e == 2 ^ expBits fmt - 1 then (if x.mag % 2 ^ fb == 0 then .inf x.neg else .nan)
  else .fin x.neg x.mag ((max x.e 1 : Nat) - bias - fb)

/-- The value of an integer element. -/
def intElem (fmt : Nat) (x : Elem) : Int := toSigned (fullPlanes fmt) x.mag

/-- The part of a KB block that sixteen elements make. -/
def kbPart (xs : List Elem) : KbPart :=
  { e := (xs.headD Elem.zero).e, mu := (List.range 4).foldl (fun (a : Nat) g => a + (xs[4 * g]?.getD Elem.zero).mu * 4 ^ g) 0,
    neg := xs.map Elem.neg, mag := xs.map Elem.mag }

/-- The four K-blocks of row or column `i` of an operand (R233). -/
def Shape.kBlocks (h : Shape) (rd : Nat → Byte) (i : Nat) : List (List Elem) :=
  (List.range 4).map fun (kb : Nat) => (List.range 16).map fun (k : Nat) => h.elemAt rd [((16 * kb + k : Nat) : Int), (i : Int), 0, 0]

/-- One accumulator after the four block sums of a row and a column (R155 to R158). -/
def mmaCell (fa fb rnd : Nat) (acc : Word) (a b : List (List Elem)) : Word :=
  if isKb fa then accFloat acc ((a.zip b).map fun p => sumKb (fullPlanes fa) (fullPlanes fb) (kbPart p.1) (kbPart p.2))
  else if isInt fa then accInt rnd acc ((a.zip b).map fun p => sumInt (p.1.map (intElem fa)) (p.2.map (intElem fb)))
  else accFloat acc ((a.zip b).map fun p => sumFloat (p.1.map (floatElem fa)) (p.2.map (floatElem fb)))

/-! ## Operand reads -/

/-- The four operand intervals of an `mma`: A, B, the scale tile of A, that of B (Table 11-9). -/
def mmaSpans (a b : Shape) : List (Nat × Option (Nat × Nat)) :=
  [(0, a.dataSpan), (1, b.dataSpan), (2, a.scaleSpan), (3, b.scaleSpan)]

/-- A byte of operand A (`second` false) or B of an `mma`: as captured when the engine finished reading it, else as it is now
(log 22). -/
def State.mmaByte (s : State) (o : Op) (second : Bool) (p : Nat) : Byte :=
  let k := if second then 1 else 0
  match o.accs.find? fun c => (c.lane == k || c.lane == k + 2) && c.addr ≤ p && p < c.addr + c.data.length with
  | some c => c.data[p - c.addr]?.getD 0
  | none => s.newest (spadKey (spadTarget o.core p) (bitsOf p 18 0))

/-- Whether rows of an operand, in the interval of its data or of its scale tile, read a poisoned line (R195, R233: rows of
other lanes are not read). -/
def State.rowsPoisoned (s : State) (o : Op) (h : Shape) (rows : List Nat) (x : Nat × Nat) : Bool :=
  rows.any fun (i : Nat) => (List.range 64).any fun (k : Nat) => (h.elemBytes [(k : Int), (i : Int), 0, 0]).any fun (p : Nat) =>
    x.1 ≤ p && p < x.2 && s.spadPoisoned (spadTarget o.core p) (bitsOf p 18 0) 1

/-- The engine finishes reading operand `k`: its bytes are held, and its entry retires (R190). -/
def State.readOperand (s : State) (o : Op) (k : Nat) : State :=
  match o.kind with
  | .mma a b _ _ lanes =>
    match (mmaSpans (shapeOf a) (shapeOf b)).find? fun q => q.1 == k with
    | some (_, some x) =>
      if o.accs.any fun c => c.lane == k then s
      else
        let bad := if k % 2 == 0 then s.rowsPoisoned o (shapeOf a) (lanesOf lanes) x else s.rowsPoisoned o (shapeOf b) lanes32 x
        let c : LaneAcc := { lane := k, addr := x.1, tgt := .bytes 0 none, data2 := [], st := .done, way := .none,
                             data := (List.range (x.2 - x.1)).map fun i => s.newest (spadKey (spadTarget o.core (x.1 + i)) (bitsOf (x.1 + i) 18 0)) }
        (s.modOp o.id fun p => { p with accs := p.accs ++ [c], poisoned := p.poisoned || bad }).sbRetire o.id (some k)
    | _ => s
  | _ => s

/-- ENGINE_OPERAND_READ (R190). -/
def execEngineOperandRead (o k : Nat) (s : State) : Host.Outcome State Fault Refusal :=
  deviceStep s fun s =>
    match s.op? o with
    | some p => (match p.grant with | .granted _ => s.readOperand p k | _ => s)
    | none => s

/-! ## The Bench and the arbiter -/

/-- An `mma`'s shapes, base, RND and lanes. -/
def OpKind.mma? : OpKind → Option (BitVec 512 × BitVec 512 × Nat × Nat × Word)
  | .mma a b base rnd lanes => some (a, b, base, rnd, lanes)
  | _ => none

/-- Entries that a cluster's Bench holds, in issue order (R226). -/
def State.bench (s : State) (cl : Nat) : List Op :=
  s.ops.filter fun o => o.kind.mma?.isSome && o.core / 4 == cl && o.grant != .written && !o.saved

/-- The accumulator base of an `mma`. -/
def Op.base (o : Op) : Nat := (o.kind.mma?.map fun q => q.2.2.1).getD 0

/-- Whether an entry is ready (R227). -/
def State.mmaReady (s : State) (o : Op) : Bool :=
  o.grant == .waiting && s.asyncReady o && !(s.ops.any fun p => p.kind.mma?.isSome && p.g == o.g && p.id < o.id && p.base == o.base &&
    p.grant == .waiting)

/-- Engine cycles, in thousandths, of a cluster. -/
def State.engineTime (s : State) (cl : Nat) : Nat := (s.island (5 * cl + 4)).mcyc

/-- Whether an entry has been ready for 4,096 engine cycles (R227). -/
def State.mmaAged (s : State) (cl : Nat) (o : Op) : Bool :=
  match o.readyAt with
  | some t => t + 4096000 ≤ s.engineTime cl
  | none => false

/-- Whether the arbiter chooses `a` before `b` (R227). -/
def State.before (s : State) (cl : Nat) (a b : Op) : Bool :=
  match s.mmaAged cl a, s.mmaAged cl b with
  | true, false => true
  | false, true => false
  | true, true => a.id < b.id
  | false, false => if a.prio != b.prio then b.prio < a.prio else a.id < b.id

/-- Insertion in the arbiter's order. -/
def State.insertOp (s : State) (cl : Nat) (o : Op) : List Op → List Op
  | [] => [o]
  | p :: ps => if s.before cl o p then o :: p :: ps else p :: s.insertOp cl o ps

/-- Whether a group runs a notification handler in its exemption (R88, R308). -/
def Group.exempt (g : Group) : Bool := g.entries.toList.any fun x => x.inH && decide (0 < x.exempt)

/-- Whether an entry may be granted: its group is not withheld, and its class not shed (R88, R227). -/
def State.mayGrant (s : State) (cl : Nat) (o : Op) : Bool :=
  let prio := ((s.group? o.g).map fun g => s.prioOf g).getD o.prio
  ((s.cluster cl).w ≤ prio || ((s.group? o.g).map Group.exempt).getD false) && !s.isShed prio

/-- The ready entries that may be granted, in the arbiter's order. -/
def State.arbiter (s : State) (cl : Nat) : List Op :=
  ((s.bench cl).filter fun o => s.mmaReady o && s.mayGrant cl o).foldl (fun acc o => s.insertOp cl o acc) []

/-- Quarters that hold a lane of a mask (R218). -/
def quartersOf (m : Word) : Nat := ([0, 8, 16, 24].filter fun q => (List.range 8).any fun l => laneIn m (q + l)).length

/-- Quarters of an entry. -/
def Op.quarters (o : Op) : Nat := (o.kind.mma?.map fun q => quartersOf q.2.2.2.2).getD 0

/-- The workgroup of an operation's group. -/
def State.wgOfOp (s : State) (o : Op) : Option Nat := (s.group? o.g).map Group.wg

/-- Whether an entry may join a leader's pass that has taken `taken` (R228). -/
def State.joinsPass (s : State) (lead o : Op) (taken : List Op) : Bool :=
  match lead.kind.mma?, o.kind.mma? with
  | some (a, b, _, rnd, _), some (a', b', _, rnd', _) =>
    s.wgOfOp lead == s.wgOfOp o && b == b' && rnd == rnd' && (shapeOf a).fmt == (shapeOf a').fmt &&
      (shapeOf a).planes == (shapeOf a').planes && !(taken.any fun p => p.g == o.g && p.base == o.base) &&
      taken.foldl (fun (n : Nat) p => n + p.quarters) o.quarters ≤ 32
  | _, _ => false

/-- Plane pairs of an `mma` (R229). -/
def Op.pairs (o : Op) : Nat := (o.kind.mma?.map fun q => (shapeOf q.1).planes * (shapeOf q.2.1).planes).getD 0

/-- When the array has done the work of every granted pass of a cluster (R229). -/
def State.engineEnd (s : State) (cl : Nat) : Nat := (s.passes.filter fun p => p.cluster == cl).foldl (fun (n : Nat) p => max n p.endAt) 0

/-- Granted work of a cluster not yet done, in 48ths of an array cycle (R229): the array does 48 in an engine cycle. -/
def State.engineWork (s : State) (cl : Nat) : Nat := (s.engineEnd cl - 48 * s.engineTime cl) / 1000

/-- Entries that have become ready start to age (R227). -/
def State.markReady (s : State) (cl : Nat) : State :=
  let new := (s.bench cl).filter fun o => o.readyAt.isNone && s.mmaReady o
  s.mapOps fun o => if new.any fun p => p.id == o.id then { o with readyAt := some (s.engineTime cl) } else o

/-- As `markReady`, on every cluster: entries are looked at whenever time passes. -/
def State.markAllReady (s : State) : State :=
  s.mapOps fun o => if o.kind.mma?.isSome && o.readyAt.isNone && !o.saved && s.mmaReady o then
    { o with readyAt := some (s.engineTime (o.core / 4)) } else o

/-- The engine cycle in which a cluster is. -/
def State.engineCycle (s : State) (cl : Nat) : Nat := s.engineTime cl / 1000

/-- One grant (R227, R228), at most one in an engine cycle; it spends allowance for each unit that it passes (R302). -/
def State.grantPass (s : State) (cl : Nat) : State :=
  if 192 ≤ s.engineWork cl || (s.cluster cl).granted == some (s.engineCycle cl) then s
  else
    match s.arbiter cl with
    | [] => s
    | lead :: rest =>
      let taken := rest.foldl (fun (t : List Op) o => if s.joinsPass lead o t then t ++ [o] else t) [lead]
      let q := taken.foldl (fun (n : Nat) o => n + o.quarters) 0
      let p : Pass := { id := s.nextId, cluster := cl, ops := taken.map Op.id, quarters := q, pairs := lead.pairs,
                        endAt := max (s.engineEnd cl) (48 * s.engineTime cl) + q * lead.pairs * 1000 }
      let s1 := s.spend cl (taken.length * Config.passWeight lead.pairs)
      let s2 : State := { s1 with power := { s1.power with clu := s1.power.clu.modify cl fun k => { k with granted := some (s.engineCycle cl) } } }
      { s2 with passes := s2.passes ++ [p], nextId := s2.nextId + 1 }.mapOps fun o =>
        if taken.any fun q => q.id == o.id then { o with grant := .granted p.id } else o

/-- BENCH_GRANT (R227). -/
def execBenchGrant (cl : Nat) (s : State) : Host.Outcome State Fault Refusal :=
  deviceStep s fun s => (s.markReady cl).grantPass cl

/-! ## Passes -/

/-- Accumulators of an `mma` after its pass (R233): rows of the lanes that are live; undefined ones where the operation was
touched or read poison (R195, R231). -/
def State.mmaWrite (s : State) (o : Op) : State :=
  match o.kind with
  | .mma a b base rnd lanes =>
    let ha := shapeOf a
    let hb := shapeOf b
    let undef := o.touched || o.poisoned
    let m := ((s.group? o.g).map fun g => lanes &&& g.live).getD 0
    let rows := (lanesOf m).map fun l => (l, ha.kBlocks (s.mmaByte o false) l)
    let go (s : State) (j : Nat) : State :=
      if undef then s.spoilV o.g (base + j) m
      else
        let col := hb.kBlocks (s.mmaByte o true) j
        s.modGroup o.g fun g => g.setV (base + j) m fun l =>
          match rows.find? fun r => r.1 == l with
          | some r => mmaCell ha.fmt hb.fmt rnd (g.getV (base + j) l) r.2 col
          | none => g.getV (base + j) l
    lanes32.foldl go s
  | _ => s

/-- Completions are counted in issue order (R230): the group's oldest `mma`s that are written lower mx and are gone. -/
def State.countMmas (s : State) (gid : Nat) : Nat → State
  | 0 => s
  | n + 1 =>
    match s.ops.find? fun o => o.g == gid && o.kind.mma?.isSome with
    | some o =>
      if o.grant != .written then s
      else
        let s1 := s.modGroup gid fun g =>
          { g with mx := g.mx - 1, mmas := g.mmas.map fun m => if m.op == o.id then { m with counted := true, poisoned := o.poisoned } else m }
        ((s1.postOrphans gid).dropOp o).countMmas gid n
    | none => s

/-- An operation of a pass completes: the reads that are left, its accumulators, its count. -/
def State.finishMma (s : State) (oid : Nat) : State :=
  match s.op? oid with
  | none => s
  | some o =>
    let s1 := [0, 1, 2, 3].foldl (fun (s : State) k => match s.op? oid with
      | some p => s.readOperand p k
      | none => s) s
    match s1.op? oid with
    | none => s1
    | some p => ((s1.mmaWrite p).modOp oid fun q => { q with grant := .written }).countMmas o.g 16

/-- MMA_PASS_COMPLETE (R229, R230): the cluster's oldest granted pass, once the array has done its work. -/
def execMmaPassComplete (cl : Nat) (s : State) : Host.Outcome State Fault Refusal :=
  deviceStep s fun s =>
    match s.passes.find? fun p => p.cluster == cl with
    | none => s
    | some p =>
      if 48 * s.engineTime cl < p.endAt then s
      else p.ops.foldl (fun (s : State) o => s.finishMma o) { s with passes := s.passes.filter fun q => q.id != p.id }

/-! ## Instructions -/

/-- Step 3 of R233: shapes, format pair (Table 13-5), box. -/
def mmaShapesOk (a b : Shape) : Bool :=
  let box (h : Shape) : Bool := h.valid && h.layout == 1 && 2 ≤ h.ndim && nth h.box 0 == 64 && nth h.box 1 == 32 &&
    ([2, 3].all fun d => h.ndim ≤ d || nth h.box d == 1)
  let pair : Bool := (isKb a.fmt && isKb b.fmt) || (isInt a.fmt && isInt b.fmt) || (a.fmt == b.fmt && (a.fmt == 5 || a.fmt == 6))
  box a && box b && pair

/-- Step 4 of R233: the first base that lies outside space 0x1 or whose footprint is not held. -/
def Frag.mmaBad (u : Frag) (s : State) (a b : Shape) : Option (Nat × Nat) :=
  let scale (h : Shape) : List (Nat × Option (Nat × Nat)) := if isInt h.fmt then [] else [(h.sbase, h.scaleSpan)]
  ([(a.base, a.dataSpan)] ++ scale a ++ [(b.base, b.dataSpan)] ++ scale b).findSome? fun q =>
    if ptrTag q.1 != 1 then some (q.1, causeSpace)
    else match s.baseCheck u.g q.1 q.2 with
      | .error c => some (q.1, c)
      | .ok _ => none

/-- Sideboard entries of an `mma`: its four reads (R226). -/
def mmaEntries (core : Nat) (a b : Shape) : List (Nat × Nat × Nat × Bool × Nat) :=
  (mmaSpans a b).flatMap fun q => (spadSpans core q.2.toList).map fun x => (x.1, x.2.1, x.2.2, false, q.1)

/-- MMA (R226, R233). -/
def execMma (m : Mods) (f : RF) (s : State) : Host.Outcome State Fault Refusal :=
  issue (.mma m f) s fun u s =>
    let ta := u.g.getT f.b.toNat
    let tb := u.g.getT f.c.toNat
    let a := shapeOf ta
    let b := shapeOf tb
    if u.rnd != 0 && !isInt a.fmt then u.raise s trapField
    else if (s.versionOf u.g).vregs ≤ f.a.toNat + 31 then u.raise s trapOperand
    else if !mmaShapesOk a b then u.raise s trapShape
    else
      match u.mmaBad s a b with
      | some (p, c) => u.fault s c p
      | none =>
        if 15 ≤ u.g.mx || 32 ≤ (s.bench (u.g.core / 4)).length then .hold false
        else
          let o := u.newOp s (.mma ta tb f.a.toNat u.rnd u.x.mask)
          let es := mmaEntries u.g.core a b
          match s.register o es with
          | none => .hold false
          | some s1 =>
            let r : MmaRec := { op := o.id, pc := u.x.pc, base := f.a.toNat, lanes := u.x.mask, poisoned := false, counted := false, matched := false }
            .ok (u.upd s1 fun g => { g with mx := g.mx + 1, mmas := g.mmas ++ [r] })

/-- MZERO (R234). -/
def execMzero (m : Mods) (f : RF) (s : State) : Host.Outcome State Fault Refusal :=
  issue (.mzero m f) s fun u s =>
    if (s.versionOf u.g).vregs ≤ f.a.toNat + 31 then u.raise s trapOperand
    else .ok (u.upd s fun g => lanes32.foldl (fun (g : Group) j => g.setV (f.a.toNat + j) u.x.mask fun _ => 0) g)

/-- TSET (R235): one load of 64 bytes. -/
def execTset (m : Mods) (f : MF) (s : State) : Host.Outcome State Fault Refusal :=
  issue (.tset m f) s fun u s =>
    let p := addrPlus (u.g.ptr f.addr.toNat) (offBytes f 64)
    u.access s { kind := .tset (f.data.toNat % 16), size := 64, lanes := u.accLanes true, addr := fun _ => p, data := fun _ => 0,
                 data2 := fun _ => 0, acq := false, rel := false, store := false, uni := true,
                 check := fun s _ => s.resolve u.g p 64 64 false } fun g => g

/-- TFIELD (R236). -/
def execTfield (m : Mods) (f : RF) (s : State) : Host.Outcome State Fault Refusal :=
  issue (.tfield m f) s fun u s =>
    .ok (u.upd s fun g => g.setT f.a.toNat
      (setField (u.g.getT f.a.toNat) f.c.toNat (u.g.sVal (decide (f.c.toNat ≤ 1)) f.b.toNat)))

/-- TGET (R236). -/
def execTget (m : Mods) (f : RF) (s : State) : Host.Outcome State Fault Refusal :=
  issue (.tget m f) s fun u s =>
    u.uni s (decide (f.c.toNat ≤ 1)) f.a.toNat (getField (u.g.getT f.b.toNat) f.c.toNat)

/-- BENCHQ (R237). -/
def execBenchq (m : Mods) (f : RF) (s : State) : Host.Outcome State Fault Refusal :=
  issue (.benchq m f) s fun u s =>
    let cl := u.g.core / 4
    let held := s.bench cl
    let n := match f.c.toNat with
      | 0 => 32 - held.length
      | 1 => (held.filter fun o => o.g == u.g.id).length
      | _ => match held.find? fun o => o.g == u.g.id && o.grant == .waiting with
        | some o => ((s.arbiter cl).filter fun p => p.id != o.id && s.before cl p o).length
        | none => 0
    u.uni s false f.a.toNat n

end Sys2Proof.Machine
end

