-- ==== Sys2Proof/Machine/Room.lean ====
section
/-! DEFINITION. Which regions have work that waits (R51, R57, R61, R68), and where a saved workgroup could be restored (R287, R323). -/
namespace Sys2Proof.Machine

/-! ## Waiting work -/

/-- Whether a pool that runs may receive one more core (R68). -/
def Region.wantsCore (r : Region) : Bool :=
  r.kind == 3 && r.rstate == 1 && !(r.queue 0).isEmpty && decide (r.cores.length < ((r.stages.head?).map Stage.maxc).getD 0)

/-- Whether a region has work that has not been placed or started at all (R51, R61), or a pool wants a core (R68). -/
def Region.waits (r : Region) : Bool :=
  if r.kind == 1 then r.rstate < 2 && r.cursor < r.count else r.rstate == 0 || r.wantsCore

/-- The region for whose work a pre-emption frees a core, until that work is placed (R57). -/
def State.keptFor (s : State) (core : Nat) : Option Nat :=
  (s.wgs.find? fun w => w.core == core && 8 ≤ w.why && (s.region? (w.why - 8)).any Region.waits).map fun w => w.why - 8

/-- Whether a region may use a core that a pre-emption frees. -/
def State.mayUse (s : State) (rid core : Nat) : Bool :=
  match s.keptFor core with
  | some q => q == rid
  | none => true

/-- What was kept for a region's work is kept no longer. -/
def State.unkeep (s : State) (rid : Nat) : State :=
  { s with wgs := s.wgs.map fun w => if w.why == 8 + rid then { w with why := 0 } else w }

/-! ## Room for a restore -/

/-- The workgroups that are pre-empted with a workgroup: itself and its cluster set (R284). -/
def State.setOf (s : State) (w : Workgroup) : List Workgroup := s.wgs.filter fun x => s.sameSet w x && x.phase != .gone

/-- The class of a workgroup's region. -/
def State.wgPrio (s : State) (w : Workgroup) : Nat := ((s.region? w.region).map fun r => r.eff.prio).getD 0

/-- Sideboard entries of an operation that is returned (R193): those whose interval is still read or written. -/
def Op.entries (o : Op) : List SbEntry :=
  let es : List (Nat × Nat × Nat × Bool × Nat) := match o.kind with
    | .copyT d h => (copyEntries o.core (shapeOf d) (shapeOf h)).filter fun e => !(o.srcDone && e.2.2.2.2 == 1)
    | .mma a b _ _ _ => if o.grant == .written then [] else
        (mmaEntries o.core (shapeOf a) (shapeOf b)).filter fun e => !(o.accs.any fun c => c.lane == e.2.2.2.2)
    | _ => []
  es.map fun e => { core := e.1, lo := e.2.1, hi := e.2.2.1, write := e.2.2.2.1, op := o.id, part := e.2.2.2.2 }

/-- An operation of a group that is restored on a core (R287): a stopped copy goes on, an `mma` waits anew. -/
def Op.onto (o : Op) (core : Nat) : Op :=
  let to_ (k : Nat) : Nat := if isSpadKey k then spadKey (core / 4 * 4 + spadCore k % 4) (spadOff k) else k
  { o with core := core, saved := false, limit := none, readyAt := none, bar := o.bar.map to_, prev := o.prev.map (Option.map to_),
           wild := o.wild.map to_ }

/-- The saved operations of a workgroup's groups, as they would stand on a core. -/
def State.opsOnto (s : State) (w : Workgroup) (core : Nat) : List Op :=
  (s.ops.filter fun o => s.groups.any fun g => g.id == o.g && g.wg == w.id).map fun o => o.onto core

/-- Whether a saved workgroup has room on a core: its rank, groups, scratchpad, Sideboard, Bench and copies (R287, R323). -/
def State.restoreRoom (s : State) (w : Workgroup) (core : Nat) : Bool :=
  let os := s.opsOnto w core
  let es := os.flatMap Op.entries
  let copies (xs : List Op) : Nat := (xs.filter fun o => o.kind.akind == 1 && o.core == core && !o.saved).length
  core < 384 && core % 4 == w.core % 4 && s.groupRoom core (s.groups.filter fun g => g.wg == w.id && g.phase == .saved).length &&
    (w.spSize == 0 || s.spadFree core w.spOff w.spSize) && s.mayUse w.region core &&
    ((List.range 4).all fun j => s.sbCount (core / 4 * 4 + j) + (es.filter fun e => e.core == core / 4 * 4 + j).length ≤ 256) &&
    (s.bench (core / 4)).length + (os.filter fun o => o.kind.mma?.isSome && o.grant != .written).length ≤ 32 &&
    copies s.ops + copies os ≤ 128

/-- Whether a saved workgroup may be restored now, apart from room (R287, R290, R307, R311): its class is not shed, and its
context is not halted if it was saved for a debugger. -/
def State.mayRestore (s : State) (w : Workgroup) : Bool :=
  let x := s.ctx w.ctx
  w.phase == .saved && !s.isShed (s.wgPrio w) && (w.why != 2 || !x.halt) && (x.st == .open_ || x.migrating.isSome) && !s.held

/-- Context-private bytes in use of a context once a saved set's images have become its groups' own memory (R52). -/
def State.privAfter (s : State) (c : Nat) (ws : List Workgroup) : Nat :=
  ({ s with groups := s.groups.map (fun g => if ws.any fun w => w.id == g.wg then { g with phase := .resident } else g),
            wgs := s.wgs.map fun w => if ws.any fun x => x.id == w.id then { w with phase := .placed } else w } : State).privUsed c

/-- Whether a saved workgroup's set fits the cores given, its budget and its context's reserve (R52, R287, R323). -/
def State.restoreFits (s : State) (ws : List Workgroup) (cores : List Nat) : Bool :=
  let home := cores.headD 0 / 4
  cores.length == ws.length && (ws.zip cores).all (fun p => s.restoreRoom p.1 p.2) && (ws.length ≤ 1 || cores.all fun c => c / 4 == home) &&
    ws.head?.all fun w => s.inBudget w.region cores 0 && s.privAfter w.ctx ws ≤ max (s.ctx w.ctx).reserve (s.privUsed w.ctx)

end Sys2Proof.Machine
end

