-- ==== Sys2Proof/Machine/Distributor.lean ====
section
/-! DEFINITION. The distributor and the Dresser (R49 to R57, R61, R62, R65 to R68): placing workgroups, cluster sets and pool
cores, starting pipelines, seeding, moving cores between stages, and the deadlock window. Which core is taken, among those
that the rules admit, is the step's operand (log 30). -/
namespace Sys2Proof.Machine

/-! ## Turns -/

/-- Whether the distributor places work of a region at all (R44, R57): its context is OPEN, its class is not shed, and the
journal can take records. -/
def State.mayPlace (s : State) (r : Region) : Bool :=
  r.rstate < 2 && (s.ctx r.ctx).st == .open_ && !s.isShed r.eff.prio && !s.held

/-- Whether a region is served before another (R57): the higher class, then the earlier START or `launch`. -/
def Region.beforeIn (a b : Region) : Bool := if a.eff.prio != b.eff.prio then b.eff.prio < a.eff.prio else a.id < b.id

/-- Whether no core of a list is worse than another that fits: the fewest resident groups (R53). -/
def State.fewest (s : State) (core : Nat) (fits : Nat → Bool) : Bool :=
  (List.range 384).all fun c => s.resident core ≤ s.resident c || !fits c

/-- A region whose first work is placed: RSTATE becomes 1 (R46). -/
def State.openRegion (s : State) (r : Region) : State :=
  if r.rstate != 0 then s
  else (s.writeVirt r.ctx (r.rcb + 79) [1]).modRegion r.id fun x => { x with rstate := 1, startedAt := s.time }

/-! ## NO_FIT -/

/-- Scratchpad of a kernel (Table 02-3). -/
def State.kernelSpad (s : State) (o k : Nat) : Nat := ((s.kernel? o k).map Kernel.spad).getD 0

/-- The sum of a number over stages. -/
def sumStages (ts : List Stage) (f : Stage → Nat) : Nat := ts.foldl (fun (n : Nat) t => n + f t) 0

/-- Whether no workgroup or cluster set of a grid (R56), or no start of a pipeline or pool (R61), could ever fit. -/
def State.neverFits (s : State) (r : Region) : Bool :=
  let reserve := (s.ctx r.ctx).reserve
  if r.kind == 1 then
    let raw := s.kernelSpad r.obj r.kidx + r.dspad
    let priv := s.privNeed r.obj r.kidx
    Config.spadBytes < raw || reserve < r.wgg * r.cset * priv || r.eff.cores < r.cset ||
      (s.ancestors r.id (s.regions.length + 1)).any fun a => a.eff.spad < roundSpad raw * r.cset || a.eff.priv < priv
  else
    r.eff.cores < sumStages r.stages Stage.minc || reserve < sumStages r.stages (fun t => t.minc * t.gpc * s.privNeed r.obj t.kidx) ||
      r.stages.any fun t => Config.spadBytes < t.gpc * s.kernelSpad r.obj t.kidx || r.eff.priv < s.privNeed r.obj t.kidx

/-! ## Grids -/

/-- Whether the workgroup or cluster set at a grid's cursor fits on cores, member j on rank j of one cluster (R52, R54). -/
def State.gridFits (s : State) (r : Region) (cores : List Nat) : Bool :=
  let n := s.spadNeed r r.kidx
  let home := cores.headD 0 / 4
  cores.length == r.cset && cores.all (fun c => c < 384 && s.groupRoom c r.wgg && s.mayUse r.id c) &&
    (r.cset == 1 || (cores.zipIdx.all fun p => p.1 == 4 * home + p.2)) && (s.spadPick cores n).isSome &&
    s.privUsed r.ctx + r.wgg * r.cset * s.privNeed r.obj r.kidx ≤ (s.ctx r.ctx).reserve && s.inBudget r.id cores (n * r.cset)

/-- Whether the work at a grid's cursor fits anywhere now. -/
def State.gridFitsNow (s : State) (r : Region) : Bool :=
  if r.cset == 1 then (List.range 384).any fun c => s.gridFits r [c]
  else (List.range 96).any fun k => s.gridFits r ((List.range r.cset).map fun j => 4 * k + j)

/-- The workgroup of linear index `l` of a grid is placed on a core (R50, R53). -/
def State.placeOne (s : State) (r : Region) (v l member core off n : Nat) : State :=
  s.addWg r r.kidx v 0 l (l % r.gx) (l / r.gx % r.gy) (l / (r.gx * r.gy)) member (l / r.cset) r.wgg core off n

/-- The work at a grid's cursor is placed on cores that fit (R51 to R56). Model choice (log 64): a region that fails both R56 and R55
fails with NO_FIT. -/
def State.placeGrid (s : State) (r : Region) (cores : List Nat) : State :=
  if r.count ≤ r.cursor then s
  else if !r.begun && s.neverFits r then s.failRegion r.id 0x30
  else
    match s.startVersion r.ctx r.obj r.kidx r.eff r.debug with
    | none => s.failRegion r.id 0x04
    | some v =>
      let n := s.spadNeed r r.kidx
      match s.spadPick cores n with
      | none => s
      | some off =>
        if !(s.gridFits r cores && (1 < r.cset || s.fewest (cores.headD 0) fun c => s.gridFits r [c])) then s
        else
          let s1 := (s.openRegion r).modRegion r.id fun x => { x with cursor := x.cursor + x.cset }
          (cores.zipIdx.foldl (fun (s : State) p => s.placeOne r v (r.cursor + p.2) p.2 p.1 off n) s1).unkeep r.id

/-! ## Pipelines and pools -/

/-- Whether a core can be given to stage `k` of a region: not yet in use by it, and able to host its groups (R61, R65). -/
def State.coreFits (s : State) (r : Region) (k core : Nat) : Bool :=
  core < 384 && !(r.cores.any fun c => c.1 == core) && s.mayUse r.id core &&
    (match r.stages[k]? with
    | some t => s.stageFits r t core
    | none => false)

/-- The stages of a pipeline, each as often as its MINC. -/
def Region.slots (r : Region) : List Nat := r.stages.zipIdx.flatMap fun p => List.replicate p.1.minc p.2

/-- Gives each of some stages its core; none when one does not fit. -/
def State.giveCores (s : State) (rid : Nat) : List (Nat × Nat) → Option State
  | [] => some s
  | p :: ps =>
    match s.region? rid with
    | none => none
    | some r => if s.coreFits r p.1 p.2 then (s.startStage rid p.1 p.2).giveCores rid ps else none

/-- Bytes of a queue (R61). -/
def Stage.bytes (t : Stage) : Nat := 2 ^ t.qlog * 64

/-- The dies of the first core given to each stage. -/
def Region.firstDies (r : Region) (cores : List Nat) : List Nat :=
  (List.range r.stages.length).map fun k => (((r.slots.zip cores).find? fun p => p.1 == k).map fun p => p.2 / 96).getD 0

/-- Whether 128 descriptors and 4 MiB on each die hold the queues of every running region and of one more (R61). -/
def State.queuesFit (s : State) (r : Region) (dies : List Nat) : Bool :=
  let used := (s.regions.filter fun x => x.kind != 1 && x.rstate == 1).flatMap fun x => x.stages.zip x.dies
  let all := used ++ r.stages.zip dies
  all.length ≤ 128 && (List.range 4).all fun d =>
    all.foldl (fun (n : Nat) p => if p.2 == d then n + p.1.bytes else n) 0 ≤ 4194304

/-- A pipeline or pool starts on cores, MINC for each stage in order; none when something does not fit (R61, R62). -/
def State.startPipe (s : State) (r : Region) (cores : List Nat) : Option State :=
  let dies := r.firstDies cores
  if cores.length != r.slots.length || !s.queuesFit r dies then none
  else ((s.openRegion r).modRegion r.id fun x => { x with dies := dies }).giveCores r.id (r.slots.zip cores) |>.map fun s => s.unkeep r.id

/-- Whether some choice of cores, one for each of some stages in turn after those in `cs`, lets a pipeline or pool start (R61). -/
def State.startsOn (s : State) (r : Region) (now : State) (cs : List Nat) : List Nat → Bool
  | [] => (s.startPipe r cs).isSome
  | k :: ks =>
    (List.range 384).any fun c =>
      match now.region? r.id with
      | some x => now.coreFits x k c && s.startsOn r (now.startStage r.id k c) (cs ++ [c]) ks
      | none => false

/-- Whether a pipeline or pool that has not started could start now, on some cores (R57, R61). -/
def State.pipeFitsNow (s : State) (r : Region) : Bool := s.startsOn r s [] r.slots

/-- Whether a region's waiting work fits now. -/
def State.fitsNow (s : State) (r : Region) : Bool :=
  s.mayPlace r && r.waits && (if r.kind == 1 then s.gridFitsNow r
    else if r.rstate == 0 then s.pipeFitsNow r else (List.range 384).any fun c => s.coreFits r 0 c)

/-- Whether a saved workgroup of the region's class or a higher one waits for room that exists (R287). -/
def State.restoreFirst (s : State) (prio : Nat) : Bool :=
  s.wgs.any fun w => prio ≤ s.wgPrio w && (s.setOf w).all s.mayRestore &&
    (List.range 96).any fun k => s.restoreFits (s.setOf w) ((s.setOf w).map fun x => 4 * k + x.core % 4)

/-- Whether it is a region's turn to be served (R57, R287). -/
def State.turnOf (s : State) (r : Region) : Bool :=
  s.mayPlace r && !s.restoreFirst r.eff.prio && !(s.regions.any fun q => q.id != r.id && q.beforeIn r && s.fitsNow q)

/-- A pool whose ready queue is not empty receives one more core (R68). -/
def State.growPool (s : State) (r : Region) (cores : List Nat) : State :=
  match cores, r.stages with
  | [c], [t] =>
    if r.rstate == 1 && !(r.queue 0).isEmpty && r.cores.length < t.maxc && s.coreFits r 0 c && s.fewest c (fun d => s.coreFits r 0 d)
    then (s.startStage r.id 0 c).unkeep r.id else s
  | _, _ => s

/-- WORKGROUP_PLACE (R53, R68). -/
def execWorkgroupPlace (r : Nat) (cores : List Nat) (s : State) : Host.Outcome State Fault Refusal :=
  deviceStep s fun s =>
    match s.region? r with
    | none => s
    | some x =>
      if !s.turnOf x then s
      else if x.kind == 1 then s.placeGrid x cores
      else if x.kind == 3 then s.growPool x cores
      else s

/-- PIPELINE_START (R61). Model choice (log 64): NO_FIT comes before NO_VERSION, as for a grid. -/
def execPipelineStart (r : Nat) (cores : List Nat) (s : State) : Host.Outcome State Fault Refusal :=
  deviceStep s fun s =>
    match s.region? r with
    | none => s
    | some x =>
      if x.kind == 1 || x.rstate != 0 || !s.turnOf x then s
      else if s.neverFits x then s.failRegion r 0x30
      else if x.stages.any fun t => (s.startVersion x.ctx x.obj t.kidx x.eff x.debug).isNone then s.failRegion r 0x04
      else if x.kind == 3 && !(s.fewest (cores.headD 0) fun c => s.coreFits x 0 c) then s
      else (s.startPipe x cores).getD s

/-! ## Seeding -/

/-- The next seed record (R62): in global memory, or host memory that the context may read. -/
def State.seedRecord (s : State) (r : Region) : Option (List Byte) :=
  let p := r.seedP + 64 * r.seeded
  if ptrTag p == 3 then
    (if !spaceBad p 64 && s.hostAllowed r.ctx (bitsOf p 51 0) 64 false && !s.memPoisoned (hostKey (bitsOf p 51 0)) 64
    then some (s.peekN (hostKey (bitsOf p 51 0)) 64) else none)
  else
    match s.readVirt r.ctx p 64 with
    | .ok bs => some bs
    | .error _ => none

/-- SEED_PUSH (R62): an unreadable record fails the region. -/
def execSeedPush (r : Nat) (s : State) : Host.Outcome State Fault Refusal :=
  deviceStep s fun s =>
    match s.region? r with
    | none => s
    | some x =>
      if x.kind == 1 || x.rstate != 1 || x.seedN ≤ x.seeded || !x.room 0 then s
      else
        match s.seedRecord x with
        | none => s.failRegion r 0x45
        | some bs => s.modRegion r fun y => { y with queues := y.queues.modify 0 (fun l => l ++ [bs]), seeded := y.seeded + 1 }

/-! ## The Dresser -/

/-- Whether a push, a successor push or the seeding waits on a queue because it is full (R62, R65). -/
def State.waitsOn (s : State) (r : Region) (q : Nat) : Bool :=
  !r.room q && ((q == 0 && r.seeded < r.seedN) || s.groups.any fun g => g.region == r.id && g.phase == .resident &&
    g.fragments.any fun e => match (g.entry e).st, (g.entry e).park with
      | .parked, .qpush p _ _ => p == q
      | .parked, .tdone p _ _ => p == q
      | _, _ => false)

/-- The occupancy of a queue (R65). -/
def State.occupancy (s : State) (r : Region) (q : Nat) : Nat :=
  if s.waitsOn r q then 256 else (r.queue q).length * 256 / max 1 (r.qcap q)

/-- Cores that count for a stage: held, or moving towards it (R65). -/
def Region.stageCores (r : Region) (k : Nat) : Nat :=
  (r.cores.filter fun c => c.2 == k).length + (r.moves.filter fun m => m.receiver == k).length

/-- The receiver of R65. -/
def State.receiver (s : State) (r : Region) : Option Nat :=
  let ok := (List.range r.stages.length).filter fun k =>
    r.high ≤ s.occupancy r k && r.stageCores k < ((r.stages[k]?).map Stage.maxc).getD 0
  ok.foldl (fun (b : Option Nat) k => match b with
    | none => some k
    | some j => if s.occupancy r j < s.occupancy r k then some k else some j) none

/-- The donor of R65. Model choice: in the test against MINC a stage's cores are those it holds; the rule counts a core that moves
towards it for MAXC and CORES (log 30). -/
def State.donor (s : State) (r : Region) (rcv : Nat) : Option Nat :=
  let ok := (List.range r.stages.length).filter fun k => k != rcv && s.occupancy r k ≤ r.low &&
    ((r.stages[k]?).map Stage.minc).getD 0 < (r.cores.filter fun c => c.2 == k).length && !(r.moves.any fun m => m.donor == k)
  ok.foldl (fun (b : Option Nat) k => match b with
    | none => some k
    | some j => if s.occupancy r k < s.occupancy r j then some k else some j) none

/-- The groups of a stage that stand parked in `qpop` on a core that moves away exit at once (R66). -/
def State.vacate (s : State) (rid k core : Nat) : State :=
  (s.groups.filter fun g => g.region == rid && g.core == core && g.stage == k && g.phase == .resident &&
    g.fragments.any fun e => match (g.entry e).st, (g.entry e).park with
      | .parked, .qpop .. => true
      | _, _ => false).foldl (fun (s : State) g => s.loseLanes g.id g.live true) s

/-- The core that a choice names where it is admitted, else the lowest that is. -/
def chosenCore (core : Nat) (ok : Nat → Bool) : Option Nat := if ok core then some core else (List.range 384).find? ok

/-- One sample of a running pipeline: at most one move or grant, of core `core` where the rule admits it (R65, R66, log 30). -/
def State.dress (s : State) (r : Region) (core : Nat) : State :=
  match s.receiver r with
  | none => s
  | some rcv =>
    match s.donor r rcv with
    | some d =>
      match chosenCore core fun c => r.cores.contains (c, d) with
      | some c =>
        let gs := (s.groups.filter fun g => g.region == r.id && g.core == c && g.stage == d).map Group.id
        (s.modRegion r.id fun x => { x with moves := x.moves ++ [{ core := c, donor := d, receiver := rcv, groups := gs }] }).vacate r.id d c
      | none => s
    | none =>
      match chosenCore core fun c => r.cores.length < r.eff.cores && s.coreFits r rcv c with
      | some c => s.startStage r.id rcv c
      | none => s

/-- DRESSER_SAMPLE (R65): once at each interval counted from the start, or from the restoration of the class; none in a context that
takes no more work (R34). -/
def execDresserSample (r core : Nat) (s : State) : Host.Outcome State Fault Refusal :=
  deviceStep s fun s =>
    match s.region? r with
    | none => s
    | some x =>
      if x.kind == 2 && x.rstate == 1 && (s.ctx x.ctx).st == .open_ && !s.isShed x.eff.prio && x.startedAt < s.time &&
          (s.time - x.startedAt) % (1000 * x.rivl) == 0 && x.dressedAt != some s.time
      then (s.modRegion r fun y => { y with dressedAt := some s.time }).dress x core else s

/-! ## The deadlock window -/

/-- A blocked pipeline after one window is reported, and after two fails (R67). -/
def State.checkWindow (s : State) (r : Region) : State :=
  match r.blockedAt with
  | none => s
  | some t =>
    if s.isShed r.eff.prio then s
    else if !r.warned && t + 1000000 * r.dlwin ≤ s.time then
      (s.event 0x81 r.ctx 0 r.rcb).modRegion r.id fun x => { x with warned := true }
    else if r.warned && t + 2000000 * r.dlwin ≤ s.time then s.failRegion r.id 0x31
    else s

/-- DEADLOCK_WINDOW_EXPIRY (R67). -/
def execDeadlockWindowExpiry (s : State) : Host.Outcome State Fault Refusal :=
  deviceStep s fun s => s.regions.foldl (fun (s : State) r => match s.region? r.id with
    | some x => s.checkWindow x
    | none => s) s

end Sys2Proof.Machine
end

