-- ==== Sys2Proof/Machine/Notify.lean ====
section
/-! DEFINITION. Throttle notifications (R308, R309). -/
namespace Sys2Proof.Machine

/-- Code of the event NOTIFY_QUEUED (Table 03-7). -/
def kindNotifyQueued : Nat := 0x83

/-- Whether a context is being destroyed (R34): CLOSING, and not for a migration. -/
def Context.dying (x : Context) : Bool := x.st == .closing && x.migrating.isNone

/-- Groups of a context that a notification could enter (R308): their version has entry 0xFFFE, and none of their fragments is
in a handler. -/
def State.notifiable (s : State) (c : Nat) : List Group :=
  s.groups.filter fun g => g.ctx == c && (g.phase == .resident || g.phase == .saved) && !g.inHandler && (s.stageEntry g 0xFFFE).isSome

/-- READY fragments of a group, with it. -/
def Group.readyFrags (g : Group) : List (Group × Nat) := (g.fragments.filter fun e => (g.entry e).st == .ready).map fun e => (g, e)

/-- Whether fragment `a` is entered before `b`: residency age, core and position, then the lowest lane (R86, R308). -/
def enteredBefore (a b : Group × Nat) : Bool :=
  if a.1.age != b.1.age then a.1.age < b.1.age
  else if a.1.id != b.1.id then a.1.id < b.1.id
  else lowLane (a.1.entry a.2).mask < lowLane (b.1.entry b.2).mask

/-- The first of some fragments in the order of `enteredBefore`. -/
def firstEntered (fs : List (Group × Nat)) : Option (Group × Nat) :=
  fs.foldl (fun (b : Option (Group × Nat)) f => match b with
    | none => some f
    | some x => if enteredBefore f x then some f else some x) none

/-- The fragment that a notification enters: of the oldest resident group that it could enter, the oldest READY one (R308); while that
group has none, it waits. -/
def State.notifyTarget (s : State) (c : Nat) : Option (Group × Nat) :=
  match firstEntered (((s.notifiable c).filter fun g => g.phase == .resident).map fun g => (g, 0)) with
  | none => none
  | some p => firstEntered p.1.readyFrags

/-- Delivers a notification (R308): the handler is entered at 0xFFFE with code 0x00 and no record, exempt for 2,000 units. -/
def State.deliver (s : State) (c : Nat) (g : Group) (e : Nat) : State :=
  match s.stageEntry g 0xFFFE with
  | none => s
  | some coff =>
    let s1 := s.modGroup g.id fun h => (h.enterHandler e coff (h.entry e).pc 0 0 none).modEntry e fun y => { y with exempt := 2000 }
    (s1.dropLatch g.id).modCtx c fun x => { x with notifyDue := false, notified := some s.time }

/-- A notification that waited for a class, which has been restored, is delivered to the group that R308 chooses (R309). -/
def State.deliverQueued (s : State) (c : Nat) : State :=
  if !(s.ctx c).notifyDue || (s.ctx c).dying || (s.notifiable c).all fun g => s.isShed (s.prioOf g) then s
  else match s.notifyTarget c with
    | some p => s.deliver c p.1 p.2
    | none => s

/-- A class is restored: what is queued for it is due, in every context, and delivered (R309). -/
def State.deliverClass (s : State) (cls : Nat) : State :=
  (List.range 64).foldl (fun (s : State) c =>
    if (s.ctx c).queued.contains cls then (s.modCtx c fun x => { x with queued := [], notifyDue := true }).deliverQueued c else s) s

/-- Whether a notification is due to a context (R308): withheld for 10 us on some cluster, and none within 100 us. -/
def State.notifyOwed (s : State) (c : Nat) : Bool :=
  let x := s.ctx c
  (x.withheld.any fun p => p.2 + 10000 ≤ s.time) && (match x.notified with | some t => decide (t + 100000 ≤ s.time) | none => true)

/-- A notification due to a context is delivered, or queued when every group that could be entered belongs to a shed class
(R308, R309); a closing context's groups are killed, and receive none (R34). -/
def State.notify (s : State) (c : Nat) : State :=
  let gs := s.notifiable c
  if (s.ctx c).dying then s
  else if (s.ctx c).notifyDue then s.deliverQueued c
  else if !(s.ctx c).queued.isEmpty then s
  else if !s.notifyOwed c || gs.isEmpty then s
  else if gs.all fun g => s.isShed (s.prioOf g) then
    let top := gs.foldl (fun (m : Nat) g => max m (s.prioOf g)) 0
    (s.event kindNotifyQueued c 0 top).modCtx c fun x => { x with queued := (gs.map s.prioOf).eraseDups, notified := some s.time }
  else match s.notifyTarget c with
    | some p => s.deliver c p.1 p.2
    | none => s

/-- THROTTLE_NOTIFICATION (R308). -/
def execThrottleNotification (c : Nat) (s : State) : Host.Outcome State Fault Refusal := deviceStep s fun s => s.notify c

end Sys2Proof.Machine
end

