-- ==== Sys2Proof/Machine/Preempt.lean ====
section
/-! DEFINITION. Pre-emption, saving and restoring (R284 to R287, R266, R193, R232, R323, R349). -/
namespace Sys2Proof.Machine

/-! ## Beginning a save -/

/-- Bytes that the save images of a workgroup take (Table 19-4, R286): every outstanding tensor copy and `mma` counted. -/
def State.wgImage (s : State) (w : Workgroup) : Nat :=
  (s.groups.filter fun g => g.wg == w.id && g.onCore).foldl (fun (n : Nat) g =>
    n + 3776 + 128 * s.savedVregs g + 192 * (s.ops.filter fun o => o.g == g.id && (o.kind.akind == 1 || o.kind.akind == 3)).length) 0 +
    w.spSize + w.spSize / 512

/-- Whether the images of a workgroup's set fit the context's reserve, beside those of workgroups that are being saved (R284). -/
def State.imageFits (s : State) (w : Workgroup) : Bool :=
  let going := s.wgs.filter fun x => x.ctx == w.ctx && x.phase == .saving
  s.privUsed w.ctx + (going ++ s.setOf w).foldl (fun (n : Nat) x => n + s.wgImage x) 0 ≤ (s.ctx w.ctx).reserve

/-- Whether two Sideboard entries of two operations conflict. -/
def State.opsClash (s : State) (a b : Nat) : Bool :=
  s.sideboard.any fun e => e.op == a && s.sideboard.any fun x => x.op == b && x.core == e.core && sbClash e.lo e.hi e.write x.lo x.hi x.write

/-- The operations that a save waits for (R285): all but tensor copies and ungranted `mma`s, and those of these that such an
operation waits for (R191, R227). -/
def State.drainIds (s : State) : List Nat :=
  s.ops.reverse.foldl (fun (acc : List Nat) o =>
    let must : Bool := match o.kind with
      | .copyT _ _ => false
      | .mma .. => o.grant != .waiting
      | _ => true
    let waited := acc.any fun p => s.opsClash o.id p ||
      (o.kind.mma?.isSome && s.ops.any fun q => q.id == p && q.kind.mma?.isSome && q.g == o.g && q.base == o.base && q.grant == .waiting)
    if must || waited then o.id :: acc else acc) []

/-- Chunks that the engine of a copy has begun (R285): those up to the last with a landed sector, and by a free choice, once
the copy may write, the next one. -/
def State.begunChunks (s : State) (o : Op) : Nat :=
  let n := (List.range o.sectors.length).foldl (fun (m : Nat) k =>
    if (o.sectors[k]?.map Sector.landed).getD false then max m (o.chunk k + 1) else m) 0
  if s.asyncReady o && Config.freeBit (s.free + o.id) then n + 1 else n

/-- How an operation of a pre-empted group stops (R285): a copy at a chunk boundary, an ungranted `mma` leaves the Bench. -/
def State.stopOp (s : State) (must : List Nat) (o : Op) : Op :=
  match o.kind with
  | .copyT _ _ =>
    let n := s.begunChunks o
    if must.contains o.id || (o.sectors.length + 127) / 128 ≤ n then o else { o with limit := some n }
  | .mma .. => if must.contains o.id || o.grant != .waiting then o else { o with saved := true }
  | _ => o

/-- Workgroups begin to be saved (R285): their groups issue nothing more, and their operations drain. -/
def State.beginSave (s : State) (ws : List Workgroup) (why : Nat) : State :=
  let mine (g : Group) : Bool := ws.any fun w => w.id == g.wg
  let must := s.drainIds
  let s1 := s.mapGroups fun g => if mine g && g.phase == .resident then { g with stopped := true } else g
  let s2 := s1.mapOps fun o => if s.groups.any fun g => g.id == o.g && mine g then s.stopOp must o else o
  { s2 with free := s2.free + s.nextId, wgs := s2.wgs.map fun w =>
      if (ws.any fun x => x.id == w.id) && w.phase == .placed then { w with phase := .saving, why := why } else w }

/-! ## Requests -/

/-- Every group of a workgroup's set stands stopped before its next units (R266). -/
def State.allStopped (s : State) (w : Workgroup) : Bool :=
  (s.setOf w).all fun x => s.groups.all fun g => g.wg != x.id || g.phase != .resident || g.stopped

/-- The state in which every workgroup that is being saved has left its core. -/
def State.ifSaved (s : State) : State :=
  let going := s.wgs.filter fun w => w.phase == .saving
  let s1 := s.mapGroups fun g => if going.any fun w => w.id == g.wg then { g with phase := .saved } else g
  { s1 with wgs := s1.wgs.map fun w => if w.phase == .saving then { w with phase := .saved } else w }

/-- Whether workgroup `a` is pre-empted before `b` (R284): the lower class, then the more recently placed. -/
def State.preemptBefore (s : State) (a b : Workgroup) : Bool :=
  if s.wgPrio a != s.wgPrio b then s.wgPrio a < s.wgPrio b else b.order < a.order

/-- Workgroups that may be pre-empted for work of a class (R284). -/
def State.preemptable (s : State) (prio : Nat) : List Workgroup :=
  s.wgs.filter fun w => w.phase == .placed && s.wgPrio w < prio && s.imageFits w && (s.setOf w).all fun x => s.wgPrio x < prio

/-- Pre-empts workgroup `w` because work of region `r` fits nowhere (R284). -/
def State.preemptFor (s : State) (r : Region) (w : Workgroup) : State :=
  let cands := s.preemptable r.eff.prio
  if s.mayPlace r && r.waits && !s.neverFits r && !s.ifSaved.fitsNow r && cands.contains w && cands.all fun x => !s.preemptBefore x w
  then s.beginSave (s.setOf w) (8 + r.id) else s

/-- PREEMPT (R284, R285, R266). -/
def execPreempt (why : PreemptWhy) (s : State) : Host.Outcome State Fault Refusal :=
  deviceStep s fun s =>
    match why with
    | .room r w =>
      (match s.region? r, s.wg? w with
      | some x, some y => s.preemptFor x y
      | _, _ => s)
    | .shed w =>
      match s.wg? w with
      | none => s
      | some y => if y.phase == .placed && s.isShed (s.wgPrio y) && s.allStopped y && s.imageFits y then s.beginSave (s.setOf y) 1 else s

/-! ## Saving -/

/-- Whether an operation of a group being saved has drained (R285). -/
def Op.drained (o : Op) : Bool :=
  match o.kind with
  | .copyT _ _ => o.limit.any fun n => (List.range o.sectors.length).all fun k => n ≤ o.chunk k || (o.sectors[k]?.map Sector.landed).getD true
  | .mma .. => o.saved || o.grant == .written
  | _ => false

/-- Whether everything that the save of a workgroup waits for has completed (R285). -/
def State.wgDrained (s : State) (w : Workgroup) : Bool :=
  (s.groups.all fun g => g.wg != w.id || g.phase != .draining) && (s.mailboxes.all fun m => m.wg != w.id) &&
    s.ops.all fun o => o.drained || !(s.groups.any fun g => g.id == o.g && g.wg == w.id)

/-- A workgroup's scratchpad is saved with its poison bits and barriers, and its range is free (R286). -/
def State.saveSpad (s : State) (w : Workgroup) : State :=
  let k := spadKey w.core w.spOff
  let line := w.core * 8192 + w.spOff / 64
  let img := (List.range w.spSize).map fun i => s.newest (k + i)
  let bad := (s.spoison.filter fun l => line ≤ l && l < line + w.spSize / 64).map fun l => l - line
  let bars := (s.txbs.filter fun t => k ≤ t && t < k + w.spSize).map fun t => t - k
  { s.modWg w.id fun x => { x with phase := .saved, image := img, poison := bad, bars := bars } with
    spoison := s.spoison.filter fun l => !(line ≤ l && l < line + w.spSize / 64), txbs := s.txbs.filter fun t => !(k ≤ t && t < k + w.spSize) }

/-- A group is saved (R286, R349): a release of device scope; its operations leave the Sideboard, the group its core, and its image
goes into the context's reserve. -/
def State.saveGroup (s : State) (g : Group) : State :=
  let s1 := (s.release g.core 0).modGroup g.id fun h => { h with phase := .saved }
  let s2 := (s1.mapOps fun o => if o.g == g.id then { o with saved := true } else o).dropLatch g.id
  let s3 : State := { s2 with sideboard := s2.sideboard.filter fun e => !(s2.ops.any fun o => o.id == e.op && o.g == g.id) }
  (s3.dropReqs g.ctx g.core).reimage g.id

/-- Saves one drained workgroup. -/
def State.saveWg (s : State) (w : Workgroup) : State :=
  (s.groups.filter fun g => g.wg == w.id && g.phase == .resident).foldl (fun (s : State) g => s.saveGroup g) (s.saveSpad w)

/-- SAVED is set once a save for a context's debugger is under way and none of its workgroups is still being saved, for whatever reason
(R311, Table 21-1). -/
def State.debugSaved (s : State) (c : Nat) : State :=
  if !(s.ctx c).saving || s.wgs.any fun w => w.ctx == c && w.phase == .saving then s
  else s.modCtx c fun x => { x with saved := true, saving := false }

/-- PREEMPT_SAVE_COMPLETE (R285, R286). -/
def execPreemptSaveComplete (w : Nat) (s : State) : Host.Outcome State Fault Refusal :=
  deviceStep s fun s =>
    match s.wg? w with
    | none => s
    | some x =>
      if x.phase != .saving || !(s.setOf x).all fun y => y.phase != .saving || s.wgDrained y then s
      else
        (((s.setOf x).filter fun y => y.phase == .saving).foldl (fun (s : State) y => s.saveWg y) s).debugSaved x.ctx

/-! ## Restoring -/

/-- A parked unit issues again after a restore, a sleep has ended, and a pending push or a move of a transfer stays parked
(R213, R257, R263, R269, R287, R288). -/
def Group.reissue (g : Group) : Group :=
  g.fragments.foldl (fun (h : Group) e =>
    match (h.entry e).st, (h.entry e).park with
    | .parked, .qpush .. => h.wake e fun y => { y with seenB := false, seenT := false, seenO := false }
    | .parked, .qpop .. => h.wake e fun y => { y with seenB := false, seenT := false, seenO := false }
    | .parked, .wgsync => h.wake e fun y => { y with seenB := false, seenT := false, seenO := false }
    | .parked, .txb _ _ => h.wake e fun y => { y with seenB := false, seenT := false, seenO := false }
    | .parked, .sleep _ => h.wake e fun y => { y with pc := y.next, seenB := false, seenT := false, seenO := false }
    | _, _ => h) g

/-- A workgroup's scratchpad range is reinstated on a core (R287). -/
def State.loadSpad (s : State) (w : Workgroup) (core : Nat) : State :=
  let line := core * 8192 + w.spOff / 64
  let s1 := s.putN (spadKey core w.spOff) w.image
  let clear := s1.spoison.filter fun l => !(line ≤ l && l < line + w.spSize / 64)
  { s1.modWg w.id fun x => { x with core := core, phase := .placed, order := s.nextId, image := [], poison := [], bars := [], why := 0 } with
    nextId := s.nextId + 1, spoison := w.poison.map (· + line) ++ clear, txbs := w.bars.map (· + spadKey core w.spOff) ++ s1.txbs }

/-- The cores that a pipeline or a pool holds once a group of it is restored on a core (R62, R287): that one too, and the one that it left
while the region still has a group of its stage there. -/
def Region.follow (x : Region) (g : Group) (core : Nat) (still : Bool) : List (Nat × Nat) :=
  if x.kind == 1 then x.cores
  else
    let cs := if still then x.cores else x.cores.filter fun c => c != (g.core, g.stage)
    if cs.contains (core, g.stage) then cs else cs ++ [(core, g.stage)]

/-- A saved group is resident on a core again, as its image has it, with an empty return stack (R127): an acquire, and a SYNC packet
(R287, Table 14-2, Table 21-3). A move of its core follows it (R66). -/
def State.loadGroup (s : State) (g : Group) (core : Nat) : State :=
  let slot := s.pickSlot core
  let pos := s.pickPos core slot
  let s1 := s.modGroup g.id fun h =>
    { h.fromImage with phase := .resident, core := core, slot := slot, pos := pos, age := s.nextId, stopped := false, rstack := [] }.reissue
  let s2 := s1.mapOps fun o => if o.g == g.id then o.onto core else o
  let s3 := s2.modRegion g.region fun x =>
    { x with ran := if x.ran.contains core then x.ran else core :: x.ran,
             cores := x.follow g core (s2.groups.any fun h => h.region == g.region && h.core == g.core && h.stage == g.stage),
             moves := x.moves.map fun m =>
               if m.core == g.core && m.groups.contains g.id && !(s2.groups.any fun h => m.groups.contains h.id && h.core == g.core)
               then { m with core := core } else m }
  (s3.acquire core).sync g.id 2

/-- Restores one saved workgroup on a core; a group still pending is considered where its fragments wait (R143, R288). -/
def State.loadWg (s : State) (w : Workgroup) (core : Nat) : State :=
  let gs := s.groups.filter fun g => g.wg == w.id && g.phase == .saved
  let s1 := gs.foldl (fun (s : State) g => s.loadGroup g core) (s.loadSpad w core)
  let os := s1.ops.filter fun o => s1.groups.any fun g => g.id == o.g && g.wg == w.id
  gs.foldl (fun (s : State) g => s.reachAll g.id) { s1 with sideboard := s1.sideboard ++ os.flatMap Op.entries }

/-- GROUP_RESTORE (R287): a saved workgroup and its set, each on the core given for it; for one workgroup, a core with the
fewest resident groups (R53, R70). -/
def execGroupRestore (w : Nat) (cores : List Nat) (s : State) : Host.Outcome State Fault Refusal :=
  deviceStep s fun s =>
    match s.wg? w with
    | none => s
    | some x =>
      let ws := s.setOf x
      let prio := s.wgPrio x
      if !(ws.all fun y => s.mayRestore y) || !s.restoreFits ws cores || s.regions.any (fun q => prio < q.eff.prio && s.fitsNow q) ||
          !(1 < ws.length || s.fewest (cores.headD 0) fun c => s.restoreFits ws [c]) then s
      else
        let s1 := (ws.zip cores).foldl (fun (s : State) p => s.loadWg p.1 p.2) s
        -- Entries stand in ascending ORDER (R193).
        ({ s1 with sideboard := (s1.ops.map Op.id).flatMap fun o => s1.sideboard.filter fun e => e.op == o } : State).deliverQueued x.ctx

end Sys2Proof.Machine
end

