-- ==== Sys2Proof/Machine/VectorInt.lean ====
section
/-! DEFINITION. Vector integer instructions (R134 to R138) and mask instructions (R139). -/
namespace Sys2Proof.Machine

/-- A vector integer instruction: V[a] from V[b] and `opnd` per executed lane, or once on S registers under U (R134). -/
def Frag.vop (u : Frag) (s : State) (f : RF) (wide cwide : Bool) (op : Nat → Nat → Nat) : Res :=
  u.vec s wide f.a.toNat fun l => op (u.g.src u.m.modx.u wide f.b.toNat l) (u.g.opnd u.m u.m.modx.u cwide f l)

/-- A unary one, whose source may be a pair. -/
def Frag.vop1 (u : Frag) (s : State) (f : RF) (wide : Bool) (op : Nat → Nat) : Res :=
  u.vec s false f.a.toNat fun l => op (u.g.src u.m.modx.u wide f.b.toNat l)

/-- Set bits of a number below bit `w`. -/
def popcBits (w x : Nat) : Nat := ((List.range w).filter (bitOf x)).length

/-- Leading zero bits of a number of `w` bits. -/
def clzBits (w x : Nat) : Nat := if x = 0 then w else w - 1 - x.log2

/-- Bit l becomes bit 31 - l. -/
def brevBits (x : Nat) : Nat := (List.range 32).foldl (fun (r : Nat) l => if bitOf x l then r + 2 ^ (31 - l) else r) 0

/-- Position and length of the field of `bfe` and `bfi` (R135). -/
def fieldOf (c : Nat) : Nat × Nat := (bitsOf c 4 0, min (bitsOf c 13 8) (32 - bitsOf c 4 0))

/-- `bfe` (R135). -/
def bfeBits (signed : Bool) (b c : Nat) : Nat :=
  let p := fieldOf c
  let x := b / 2 ^ p.1 % 2 ^ p.2
  if signed && p.2 != 0 && bitOf x (p.2 - 1) then x + (2 ^ 32 - 2 ^ p.2) else x

/-- `bfi` (R135): `a` is the base. -/
def bfiBits (a b c : Nat) : Nat :=
  let p := fieldOf c
  let m := (2 ^ p.2 - 1) * 2 ^ p.1
  (a.land (2 ^ 32 - 1 - m)).lor ((b * 2 ^ p.1 % 2 ^ 32).land m)

/-- `icmp` (R136): a[23:21] is COND and a[20:17] the destination. -/
def Frag.icmp (u : Frag) (s : State) (f : RF) (signed wide : Bool) : Res :=
  u.maskRes s (f.a.toNat % 16) fun l =>
    compareBits (f.a.toNat / 16) signed (if wide then 64 else 32) (u.g.vVal wide f.b.toNat l) (u.g.opnd u.m false wide f l)

/-- `isel` (R138): executed lanes whose condition bit is set. -/
def Frag.isel (u : Frag) (s : State) (f : RF) (wide : Bool) : Res :=
  let cond := u.g.mreg u.x.mask (f.b.toNat % 16)
  .ok (u.upd s fun g => g.putV false wide f.a.toNat (u.lanes &&& cond) u.zeroed fun l => u.g.opnd u.m false wide f l)

/-- A mask instruction with a mask destination: the fragment's lanes (R137, R139). -/
def Frag.mop (u : Frag) (s : State) (f : RF) (op : Word → Word → Word) : Res :=
  .ok (u.upd s fun g => g.setM f.a.toNat u.x.mask (op (u.g.mreg u.x.mask f.b.toNat) (u.g.mreg u.x.mask f.c.toNat)))

/-- IADD_32 (R134, Table 08-3). -/
def execIadd32 (m : Mods) (f : RF) (s : State) : Host.Outcome State Fault Refusal :=
  issue (.iadd32 m f) s fun u s => u.vop s f false false (addBits u.rnd 32)

/-- ISUB_32 (R134, Table 08-3). -/
def execIsub32 (m : Mods) (f : RF) (s : State) : Host.Outcome State Fault Refusal :=
  issue (.isub32 m f) s fun u s => u.vop s f false false (subBits u.rnd 32)

/-- IMUL_32 (R134, Table 08-3). -/
def execImul32 (m : Mods) (f : RF) (s : State) : Host.Outcome State Fault Refusal :=
  issue (.imul32 m f) s fun u s => u.vop s f false false (mulBits u.rnd 32)

/-- IADD_64 (R134, Table 08-3). -/
def execIadd64 (m : Mods) (f : RF) (s : State) : Host.Outcome State Fault Refusal :=
  issue (.iadd64 m f) s fun u s => u.vop s f true true (addBits u.rnd 64)

/-- ISUB_64 (R134, Table 08-3). -/
def execIsub64 (m : Mods) (f : RF) (s : State) : Host.Outcome State Fault Refusal :=
  issue (.isub64 m f) s fun u s => u.vop s f true true (subBits u.rnd 64)

/-- IMUL_64 (R134, Table 08-3). -/
def execImul64 (m : Mods) (f : RF) (s : State) : Host.Outcome State Fault Refusal :=
  issue (.imul64 m f) s fun u s => u.vop s f true true (mulBits u.rnd 64)

/-- IMAD (R134, Table 08-3). -/
def execImad (m : Mods) (f : RF) (s : State) : Host.Outcome State Fault Refusal :=
  issue (.imad m f) s fun u s =>
    u.vec s false f.a.toNat fun l =>
      madBits u.rnd (u.g.src u.m.modx.u false f.b.toNat l) (u.g.opnd u.m u.m.modx.u false f l) (u.g.src u.m.modx.u false (d4Of m f) l)

/-- IMULH_I32 (R134, Table 08-3). -/
def execImulhI32 (m : Mods) (f : RF) (s : State) : Host.Outcome State Fault Refusal :=
  issue (.imulhI32 m f) s fun u s => u.vop s f false false (mulhBits false)

/-- IMULH_N32 (R134, Table 08-3). -/
def execImulhN32 (m : Mods) (f : RF) (s : State) : Host.Outcome State Fault Refusal :=
  issue (.imulhN32 m f) s fun u s => u.vop s f false false (mulhBits true)

/-- IAND (R134, Table 08-3). -/
def execIand (m : Mods) (f : RF) (s : State) : Host.Outcome State Fault Refusal :=
  issue (.iand m f) s fun u s => u.vop s f false false Nat.land

/-- IOR (R134, Table 08-3). -/
def execIor (m : Mods) (f : RF) (s : State) : Host.Outcome State Fault Refusal :=
  issue (.ior m f) s fun u s => u.vop s f false false Nat.lor

/-- IXOR (R134, Table 08-3). -/
def execIxor (m : Mods) (f : RF) (s : State) : Host.Outcome State Fault Refusal :=
  issue (.ixor m f) s fun u s => u.vop s f false false Nat.xor

/-- ISHL_32 (R134, Table 08-3). -/
def execIshl32 (m : Mods) (f : RF) (s : State) : Host.Outcome State Fault Refusal :=
  issue (.ishl32 m f) s fun u s => u.vop s f false false (shlBits 32)

/-- ISHL_64 (R134, Table 08-3). -/
def execIshl64 (m : Mods) (f : RF) (s : State) : Host.Outcome State Fault Refusal :=
  issue (.ishl64 m f) s fun u s => u.vop s f true false (shlBits 64)

/-- ISHR_32 (R134, Table 08-3). -/
def execIshr32 (m : Mods) (f : RF) (s : State) : Host.Outcome State Fault Refusal :=
  issue (.ishr32 m f) s fun u s => u.vop s f false false (shrBits 32)

/-- ISHR_64 (R134, Table 08-3). -/
def execIshr64 (m : Mods) (f : RF) (s : State) : Host.Outcome State Fault Refusal :=
  issue (.ishr64 m f) s fun u s => u.vop s f true false (shrBits 64)

/-- ISAR_32 (R134, Table 08-3). -/
def execIsar32 (m : Mods) (f : RF) (s : State) : Host.Outcome State Fault Refusal :=
  issue (.isar32 m f) s fun u s => u.vop s f false false (sarBits 32)

/-- ISAR_64 (R134, Table 08-3). -/
def execIsar64 (m : Mods) (f : RF) (s : State) : Host.Outcome State Fault Refusal :=
  issue (.isar64 m f) s fun u s => u.vop s f true false (sarBits 64)

/-- IMIN_I32 (R134, Table 08-3). -/
def execIminI32 (m : Mods) (f : RF) (s : State) : Host.Outcome State Fault Refusal :=
  issue (.iminI32 m f) s fun u s => u.vop s f false false (minBits false)

/-- IMIN_N32 (R134, Table 08-3). -/
def execIminN32 (m : Mods) (f : RF) (s : State) : Host.Outcome State Fault Refusal :=
  issue (.iminN32 m f) s fun u s => u.vop s f false false (minBits true)

/-- IMAX_I32 (R134, Table 08-3). -/
def execImaxI32 (m : Mods) (f : RF) (s : State) : Host.Outcome State Fault Refusal :=
  issue (.imaxI32 m f) s fun u s => u.vop s f false false (maxBits false)

/-- IMAX_N32 (R134, Table 08-3). -/
def execImaxN32 (m : Mods) (f : RF) (s : State) : Host.Outcome State Fault Refusal :=
  issue (.imaxN32 m f) s fun u s => u.vop s f false false (maxBits true)

/-- IABS (R134, Table 08-3). -/
def execIabs (m : Mods) (f : RF) (s : State) : Host.Outcome State Fault Refusal :=
  issue (.iabs m f) s fun u s => u.vop1 s f false fun b => narrow u.rnd 32 ((toSigned 32 b).natAbs : Int)

/-- POPC_B32 (R134, Table 08-3). -/
def execPopcB32 (m : Mods) (f : RF) (s : State) : Host.Outcome State Fault Refusal :=
  issue (.popcB32 m f) s fun u s => u.vop1 s f false (popcBits 32)

/-- POPC_B64 (R134, Table 08-3). -/
def execPopcB64 (m : Mods) (f : RF) (s : State) : Host.Outcome State Fault Refusal :=
  issue (.popcB64 m f) s fun u s => u.vop1 s f true (popcBits 64)

/-- CLZ_B32 (R134, Table 08-3). -/
def execClzB32 (m : Mods) (f : RF) (s : State) : Host.Outcome State Fault Refusal :=
  issue (.clzB32 m f) s fun u s => u.vop1 s f false (clzBits 32)

/-- CLZ_B64 (R134, Table 08-3). -/
def execClzB64 (m : Mods) (f : RF) (s : State) : Host.Outcome State Fault Refusal :=
  issue (.clzB64 m f) s fun u s => u.vop1 s f true (clzBits 64)

/-- BREV (R134, Table 08-3). -/
def execBrev (m : Mods) (f : RF) (s : State) : Host.Outcome State Fault Refusal :=
  issue (.brev m f) s fun u s => u.vop1 s f false brevBits

/-- BFE_I32 (R135). -/
def execBfeI32 (m : Mods) (f : RF) (s : State) : Host.Outcome State Fault Refusal :=
  issue (.bfeI32 m f) s fun u s => u.vop s f false false (bfeBits true)

/-- BFE_N32 (R135). -/
def execBfeN32 (m : Mods) (f : RF) (s : State) : Host.Outcome State Fault Refusal :=
  issue (.bfeN32 m f) s fun u s => u.vop s f false false (bfeBits false)

/-- BFI (R135). -/
def execBfi (m : Mods) (f : RF) (s : State) : Host.Outcome State Fault Refusal :=
  issue (.bfi m f) s fun u s =>
    u.vec s false f.a.toNat fun l =>
      bfiBits (u.g.src u.m.modx.u false f.a.toNat l) (u.g.src u.m.modx.u false f.b.toNat l) (u.g.opnd u.m u.m.modx.u false f l)

/-- ICMP_I32 (R136). -/
def execIcmpI32 (m : Mods) (f : RF) (s : State) : Host.Outcome State Fault Refusal :=
  issue (.icmpI32 m f) s fun u s => u.icmp s f true false

/-- ICMP_N32 (R136). -/
def execIcmpN32 (m : Mods) (f : RF) (s : State) : Host.Outcome State Fault Refusal :=
  issue (.icmpN32 m f) s fun u s => u.icmp s f false false

/-- ICMP_I64 (R136). -/
def execIcmpI64 (m : Mods) (f : RF) (s : State) : Host.Outcome State Fault Refusal :=
  issue (.icmpI64 m f) s fun u s => u.icmp s f true true

/-- ICMP_N64 (R136). -/
def execIcmpN64 (m : Mods) (f : RF) (s : State) : Host.Outcome State Fault Refusal :=
  issue (.icmpN64 m f) s fun u s => u.icmp s f false true

/-- ISEL_B32 (R138). -/
def execIselB32 (m : Mods) (f : RF) (s : State) : Host.Outcome State Fault Refusal :=
  issue (.iselB32 m f) s fun u s => u.isel s f false

/-- ISEL_B64 (R138). -/
def execIselB64 (m : Mods) (f : RF) (s : State) : Host.Outcome State Fault Refusal :=
  issue (.iselB64 m f) s fun u s => u.isel s f true

/-- MAND (R139). -/
def execMand (m : Mods) (f : RF) (s : State) : Host.Outcome State Fault Refusal :=
  issue (.mand m f) s fun u s => u.mop s f fun b c => b &&& c

/-- MOR (R139). -/
def execMor (m : Mods) (f : RF) (s : State) : Host.Outcome State Fault Refusal :=
  issue (.mor m f) s fun u s => u.mop s f fun b c => b ||| c

/-- MXOR (R139). -/
def execMxor (m : Mods) (f : RF) (s : State) : Host.Outcome State Fault Refusal :=
  issue (.mxor m f) s fun u s => u.mop s f fun b c => b ^^^ c

/-- MNOT (R139). -/
def execMnot (m : Mods) (f : RF) (s : State) : Host.Outcome State Fault Refusal :=
  issue (.mnot m f) s fun u s => u.mop s f fun b _ => ~~~b

/-- MPOPC (R139). -/
def execMpopc (m : Mods) (f : RF) (s : State) : Host.Outcome State Fault Refusal :=
  issue (.mpopc m f) s fun u s =>
    u.uni s false f.a.toNat (lanesOf (u.x.mask &&& u.g.mreg u.x.mask f.b.toNat)).length

/-- MFIRST (R139). -/
def execMfirst (m : Mods) (f : RF) (s : State) : Host.Outcome State Fault Refusal :=
  issue (.mfirst m f) s fun u s =>
    u.uni s false f.a.toNat (min u.g.gw (lowLane (u.x.mask &&& u.g.mreg u.x.mask f.b.toNat)))

end Sys2Proof.Machine
end

