-- ==== Sys2Proof/Machine/Lanes.lean ====
section
/-! DEFINITION. Collective operations (R140 to R144): the wait, fusion, the mismatch, and what each computes. -/
namespace Sys2Proof.Machine

/-- A fragment whose wait another fragment's arrival found in mismatch (R142): it leaves the wait, and raises
COLLECTIVE_MISMATCH at its collective unit when it issues. -/
def Group.mismatch (g : Group) (e : Nat) : Group :=
  g.event fun h => (h.chg e .ready fun y => { y with spilled := false, named := 0, clash := some y.pc, wait := 0 }).settle e

/-- Continues the participants of a collective (R81), in one event: fused in the lowest ID when all have one PARENT and JOIN. -/
def Group.afterCollective (g : Group) (e : Nat) (parts : List Nat) (union next : Word) : Group :=
  let keep := parts.headD e
  let k := g.entry keep
  let fuse := parts.all fun i => (g.entry i).parent == k.parent && (g.entry i).join == k.join && (parts.length == 1 || (g.entry i).fold.isEmpty)
  let halt := parts.any fun i => (g.entry i).haltP
  let one (h : Group) (i : Nat) : Group :=
    if fuse && i != keep then h.freeEntry i
    else
      let y := h.entry i
      let z := if fuse then { y with mask := union, haltP := halt, pc := next, named := 0 } else { y with pc := next, named := 0 }
      if i == e then h.setEntry i z
      else (h.chg i .ready fun _ => { z with spilled := false, seenB := false, seenT := false, seenO := false, wait := 0 }).settle i
  g.event fun g => (parts.foldl one g).settle keep

/-- A collective (R140 to R142): `body` gives the group after the operation from the lanes that execute and the union of
the participants' masks. A fragment that holds no live lane of N does not wait and is no participant: it goes on, and the N it has
read is then the one that the others wait for (log 25). Fusion invalidates the reuse latch (R74). -/
def Frag.collective (u : Frag) (s : State) (body : Word → Word → Group → Group) : Res :=
  if u.m.modx.msel = 0 then .ok (u.upd s (body u.x.mask u.x.mask))
  else
    let n := u.named &&& u.g.live
    let waits := u.g.waiting u.e
    let clash := waits.filter fun i =>
      let y := u.g.entry i
      y.pc != u.x.pc && (y.named &&& u.x.mask) != 0 && (u.named &&& y.mask) != 0
    if u.x.clash == some u.x.pc || !clash.isEmpty then
      .trap (Trap.at_ trapCollective u.x.pc) (u.upd s fun g => clash.foldl Group.mismatch g) s
    else
      let parts := u.gathers
      let union := u.gathered
      if (n &&& ~~~union) != 0 then
        .ok (u.upd s fun g =>
          let g1 := parts.foldl (fun (h : Group) i => h.modEntry i fun y => { y with named := u.named }) g
          if parts.contains u.e then g1.chg u.e .collective fun y =>
            { y with pc := u.x.pc, seenB := u.x.seenB, seenT := u.x.seenT, seenO := u.x.seenO } else g1)
      else
        let s1 := u.upd s fun g => (body n union g).afterCollective u.e parts union u.next
        let fused := parts.length != 1 && ((s1.group? u.g.id).map fun g => (g.entry (parts.headD u.e)).mask == union).getD false
        .ok (if fused then (s1.dropLatch u.g.id).maskPacket u.g.id (parts.headD u.e) union 3 else s1)

/-- `shfl` (R144): the source lane of each reader, or none outside the group. -/
def Frag.shfl (u : Frag) (s : State) (f : RF) (source : Nat → Nat → Option Nat) : Res :=
  u.collective s fun ex union g =>
    g.putV false false f.a.toNat ex (if u.m.modx.z then union &&& ~~~ex else 0) fun l =>
      match source l (u.g.opnd u.m false false f l) with
      | some k => if laneThere ex u.g.gw k then u.g.vVal false f.b.toNat k else u.g.vVal false f.b.toNat l
      | none => u.g.vVal false f.b.toNat l

/-- `redux` (Tables 07-8, 08-5): the operations and their identities. -/
def reduxStep (code a b : Nat) : Nat :=
  match code with
  | 0 => (a + b) % 2 ^ 32
  | 1 => minBits false a b
  | 2 => minBits true a b
  | 3 => maxBits false a b
  | 4 => maxBits true a b
  | 5 => a.land b
  | 6 => a.lor b
  | _ => a.xor b

/-- Identities of `redux` (R144). -/
def reduxUnit (code : Nat) : Nat :=
  match code with
  | 1 => 0x7FFFFFFF
  | 2 | 5 => 0xFFFFFFFF
  | 3 => 0x80000000
  | _ => 0

/-- VOTE (R144): `.any`, `.all`, `.ballot`. -/
def execVote (m : Mods) (f : RF) (s : State) : Host.Outcome State Fault Refusal :=
  issue (.vote m f) s fun u s =>
    u.collective s fun ex union g =>
      let p := ex &&& u.g.mreg union f.b.toNat
      g.setS f.a.toNat (match f.c.toNat with
        | 0 => BitVec.ofNat 32 (flagWord (p != 0))
        | 1 => BitVec.ofNat 32 (flagWord (p == ex))
        | _ => p)

/-- SHFL_IDX (R144). -/
def execShflIdx (m : Mods) (f : RF) (s : State) : Host.Outcome State Fault Refusal :=
  issue (.shflIdx m f) s fun u s => u.shfl s f fun _ c => some (c % u.g.gw)

/-- SHFL_UP (R144): the distance is not reduced. -/
def execShflUp (m : Mods) (f : RF) (s : State) : Host.Outcome State Fault Refusal :=
  issue (.shflUp m f) s fun u s => u.shfl s f fun l c => if c ≤ l then some (l - c) else none

/-- SHFL_DOWN (R144): the distance is not reduced. -/
def execShflDown (m : Mods) (f : RF) (s : State) : Host.Outcome State Fault Refusal :=
  issue (.shflDown m f) s fun u s => u.shfl s f fun l c => some (l + c)

/-- SHFL_XOR (R144). -/
def execShflXor (m : Mods) (f : RF) (s : State) : Host.Outcome State Fault Refusal :=
  issue (.shflXor m f) s fun u s => u.shfl s f fun l c => some (l.xor (c % u.g.gw))

/-- RDLANE (R144): S[a] unchanged, or 0 under Z, when the lane is not there. -/
def execRdlane (m : Mods) (f : RF) (s : State) : Host.Outcome State Fault Refusal :=
  issue (.rdlane m f) s fun u s =>
    u.collective s fun ex _ g =>
      let k := u.g.opnd u.m false false f 0 % u.g.gw
      if laneThere ex u.g.gw k then g.setS f.a.toNat (u.g.getV f.b.toNat k) else if u.m.modx.z then g.setS f.a.toNat 0 else g

/-- WRLANE (R144): one lane, if it is there. -/
def execWrlane (m : Mods) (f : RF) (s : State) : Host.Outcome State Fault Refusal :=
  issue (.wrlane m f) s fun u s =>
    u.collective s fun ex _ g =>
      let k := u.g.opnd u.m false false f 0 % u.g.gw
      if laneThere ex u.g.gw k then g.setV f.a.toNat (maskOf (· == k)) fun _ => u.g.getS f.b.toNat else g

/-- BCAST (R144). -/
def execBcast (m : Mods) (f : RF) (s : State) : Host.Outcome State Fault Refusal :=
  issue (.bcast m f) s fun u s => u.shfl s f fun _ c => some (c % u.g.gw)

/-- REDUX (R144). -/
def execRedux (m : Mods) (f : RF) (s : State) : Host.Outcome State Fault Refusal :=
  issue (.redux m f) s fun u s =>
    u.collective s fun ex _ g =>
      g.setS f.a.toNat (BitVec.ofNat 32
        ((lanesOf ex).foldl (fun (a : Nat) l => reduxStep f.c.toNat a (u.g.vVal false f.b.toNat l)) (reduxUnit f.c.toNat)))

end Sys2Proof.Machine
end

