-- ==== Sys2Proof/Machine/Schedule.lean ====
section
/-! DEFINITION. Fetching a unit (R97, R104, R184) and choosing the fragment that issues on a slot (R73, R86, R88); time
(log 1, 3, 10). What runs the chosen unit is a parameter, which Step.lean supplies. -/
namespace Sys2Proof.Machine

/-! ## Fetch -/

/-- Virtual address at which a context holds an object's image (log 10); none for one that a migration brought (log 27). -/
def State.codeBase (s : State) (g : Group) : Option Nat :=
  ((s.obj? g.obj).bind fun o => o.bases.find? fun b => b.1 == g.ctx).map Prod.snd

/-- The word at a code offset, or the cause for which it cannot be fetched: MISALIGNED, CODE_RANGE, then the walk (R184). -/
def State.fetchWord (s : State) (g : Group) (off : Nat) : Except Nat Word :=
  let v := s.versionOf g
  if off % 4 != 0 then .error causeAlign
  else
    match v.code[off / 4]?, s.codeBase g with
    | none, _ => .error causeCode
    | some w, none => .ok w
    | some w, some b =>
      match s.xlate g.ctx (b + v.secOff + off) 2 with
      | .ok _ => .ok w
      | .error c => .error c

/-- Words from an offset on, as far as they can be fetched, at most `n`. -/
def State.fetchWords (s : State) (g : Group) (off : Nat) : Nat → List Word
  | 0 => []
  | n + 1 =>
    match s.fetchWord g off with
    | .ok w => w :: s.fetchWords g (off + 4) n
    | .error _ => []

/-- The unit at a fragment's PC: an instruction, or the step that its failure is (R97, R112). One whose registers are illegal is that
instruction, whose other fields its issue checks first (R115, R233, R321). -/
def State.unitAt (s : State) (g : Group) (e : Nat) : Instr × Nat :=
  let ws := s.fetchWords g (g.entry e).pc.toNat maxUnitWords
  match decode ws with
  | .ok (i, n) => (i, n)
  | .error .truncated => (.codeFetchFault, 1)
  | .error .illegalOperand => (match readUnit ws with | .ok (i, n) => (i, n) | .error r => (.unassignedOpcodeUnit r, 1))
  | .error r => (.unassignedOpcodeUnit r, 1)

/-- The virtual addresses of the words of a unit of `n` words at a fragment's PC, where its context holds the image (R183, R184). -/
def State.fetchAddrs (s : State) (g : Group) (e n : Nat) : List Nat :=
  match s.codeBase g with
  | some b => (List.range n).map fun k => b + (s.versionOf g).secOff + (g.entry e).pc.toNat + 4 * k
  | none => []

/-! ## Choosing -/

/-- Whether a group's class is withheld on its core's cluster (R88, R302); a notification handler in its exemption is not. -/
def State.withheld (s : State) (g : Group) (x : Entry) : Bool :=
  s.prioOf g < (s.cluster (g.core / 4)).w && !(x.inH && 0 < x.exempt)

/-- Whether a fragment may issue at all: READY in the table, not held, its group resident, not stopped and not withheld. -/
def State.mayIssue (s : State) (g : Group) (e : Nat) : Bool :=
  let x := g.entry e
  x.st == .ready && !x.spilled && !x.heldT && g.phase == .resident && !g.stopped && !s.withheld g x

/-- Whether fragment `a` is older than fragment `b` (R86): residency age, position, then the lowest lane. -/
def olderFrag (a b : Group × Nat) : Bool :=
  if a.1.age != b.1.age then a.1.age < b.1.age
  else if a.1.pos != b.1.pos then a.1.pos < b.1.pos
  else lowLane (a.1.entry a.2).mask < lowLane (b.1.entry b.2).mask

/-- Inserts a fragment by age. -/
def insertFrag (a : Group × Nat) : List (Group × Nat) → List (Group × Nat)
  | [] => [a]
  | b :: bs => if olderFrag a b then a :: b :: bs else b :: insertFrag a bs

/-- Fragments of a slot that may issue, oldest first. -/
def State.slotFrags (s : State) (core slot : Nat) : List (Group × Nat) :=
  ((s.onSlot core slot).flatMap fun g => ((List.range 72).filter fun e => s.mayIssue g e).map fun e => (g, e)).foldl
    (fun acc a => insertFrag a acc) []

/-- The state with a fragment's unit in issue. -/
def State.withCur (s : State) (g e : Nat) : State := { s with cur := some (g, e) }

/-- Whether a unit given to its fragment issued (R86: its operands and resources are available). -/
def didIssue : Host.Outcome State Fault Refusal → Bool
  | .next t => t.issued
  | .fault _ => true
  | .refused _ => true

/-- The fragment that issues (R86): the oldest urgent one, else the last one within its run, else the oldest. -/
def Slot.choose (k : Slot) (cands : List (Group × Nat)) : Option (Group × Nat) :=
  match cands.find? fun p => 1024000 ≤ (p.1.entry p.2).wait with
  | some p => some p
  | none =>
    match cands.find? fun p => k.last == some (p.1.id, p.2) && k.run < 64 with
    | some p => some p
    | none => cands.head?

/-- Issue cycles of a unit (R73): target words of `brm` take none. -/
def issueWords (i : Instr) : Nat :=
  match i.parts with
  | some p => p.words - (match p.f with | .brm _ ts => ts.length | _ => 0)
  | none => 1

/-- Pipe cycles per quarter (Table 10-8, R71, R234). -/
def pipeCost (op : Nat) : Nat :=
  if op == 0x8B || op == 0x8C then 2 else if (0x7E ≤ op && op ≤ 0x84) || op == 0xB1 then 4 else 1

/-- Whether a unit passes through the pipe (R71, R72): `cpy.t` is uniform (R209). -/
def usesPipe (p : Parts) : Bool :=
  !p.mods.modx.u && (0x30 ≤ p.op && p.op ≤ 0xA6 && !(0x60 ≤ p.op && p.op ≤ 0x65) && p.op != 0xA3 || p.op == 0xB1)

/-- The lanes of a fragment that are left to a unit: all, or those of a record, where it runs again for them only (R199). -/
def Group.leftTo (g : Group) (e : Nat) (m : Word) : Word :=
  match (g.entry e).redo with
  | some (pc, r) => if pc == (g.entry e).pc then m &&& r else m
  | none => m

/-- The lanes that a unit executes (R71): under Z all of its fragment's; a collective's are those of the fragments that execute it as
one issue, and none where it only arrives (R81, R140). -/
def unitLanes (i : Instr) (g : Group) (e : Nat) : Word :=
  let own := (g.entry e).mask
  g.leftTo e <| match i.parts with
  | none => own
  | some p =>
    if namesLanes p then (g.fragOf e p).issueLanes
    else if p.mods.modx.z then own
    else own &&& g.mreg own p.mods.modx.msel.toNat

/-- Pipe cycles of a unit: its passes (R71, Table 05-1), none for a uniform one (R72). -/
def pipeCycles (i : Instr) (g : Group) (e : Nat) : Nat :=
  match i.parts with
  | none => 0
  | some p =>
    let lanes := unitLanes i g e
    let quarters := ([0, 8, 16, 24].filter fun q => (List.range 8).any fun l => laneIn lanes (q + l)).length
    if usesPipe p then max 1 (quarters * pipeCost p.op) else 0

/-- Whether a slot may begin a unit at this moment: the last unit's words have issued, and for a vector unit the pipe is free
(R73). -/
def State.slotFree (s : State) (core slot : Nat) (i : Instr) : Bool :=
  let k := s.slotAt core slot
  let ns := (s.island (coreIsland core)).freq
  decide (k.issue < ns) && (!((i.parts.map usesPipe).getD false) || decide (k.pipe < ns))

/-- Whether a unit ends its fragment's greedy run (R109, R122, R269). -/
def endsRun (i : Instr) : Bool :=
  match i with
  | .sleep _ f => f.imm == 0 || ((i.parts.bind fun p => p.mods.h).map ModH.yield).getD false
  | _ => ((i.parts.bind fun p => p.mods.h).map ModH.yield).getD false

/-- The slot after it chose: last fragment, words in a row, cycles taken, and the reuse latch (R73, R74, R86, R109). The passes of a
vector unit begin with its last word. -/
def Slot.chose (k : Slot) (g : Group) (e : Nat) (i : Instr) : Slot :=
  let run := if k.last == some (g.id, e) then k.run + issueWords i else issueWords i
  let reuse := ((i.parts.map fun p => p.mods.modx.reuse.toNat).getD 0)
  let c := pipeCycles i g e
  { k with last := some (g.id, e), run := if endsRun i then 64 else run, issue := k.issue + 1000 * issueWords i,
           pipe := if c == 0 then k.pipe else max k.pipe k.issue + 1000 * (issueWords i - 1 + c),
           pc := (g.entry e).pc, lanes := (lanesOf (unitLanes i g e)).length,
           latch := if reuse == 0 then none else some (g.id, e, reuse) }

/-- The opcode whose energy weight a unit spends (R302); 256 for one that has no legal words. -/
def unitCode (i : Instr) : Nat := (i.parts.map Parts.op).getD 256

/-- The state in which the chosen unit is in issue: the translations that its fetch used are cached (R183), the slot has chosen it, its
wait is over (R86), and its energy is spent (R302). -/
def State.giveSlot (s : State) (k : Slot) (p : Group × Nat) : State :=
  let i := (s.unitAt p.1 p.2).1
  let t := s.rememberAll p.1.ctx (s.fetchAddrs p.1 p.2 (s.unitAt p.1 p.2).2)
  (((t.setSlot (k.chose p.1 p.2 i)).spend (p.1.core / 4) (Config.unitWeight (unitCode i))).modEntry p.1.id p.2 fun y =>
    { y with wait := 0 }).withCur p.1.id p.2

/-- The candidates of a slot: fragments that may issue, for whose unit the slot is free, and whose unit would issue (R73, R86). -/
def State.candidates (s : State) (run : Instr → State → Host.Outcome State Fault Refusal) (core slot : Nat) : List (Group × Nat) :=
  (s.slotFrags core slot).filter fun p =>
    s.slotFree core slot (s.unitAt p.1 p.2).1 && didIssue (run (s.unitAt p.1 p.2).1 (s.withCur p.1.id p.2))

/-- Folded fragments that have reached where their paths meet run on with all of them (R82). -/
def Group.meetFolds (g : Group) : Group :=
  if g.entries.toList.all fun x => x.fold.isEmpty then g
  else g.mapEntries fun x => if x.st == .ready then x.meet x.fold else x

/-- `meetFolds` of every group. -/
def State.meetFolds (s : State) : State := s.mapGroups Group.meetFolds

/-- READY fragments of a slot whose group is withheld and of a shed class: they issue nothing, and may stand at a boundary (R306). -/
def State.shedFrags (s : State) (core slot : Nat) : List (Group × Nat) :=
  (s.onSlot core slot).flatMap fun g => (entryIds.filter fun e =>
    let x := g.entry e
    s.isShed (s.prioOf g) && x.st == .ready && !x.spilled && !x.heldT && g.phase == .resident && !g.stopped && s.withheld g x).map fun e => (g, e)

/-- Groups of a slot that stand at a barrier boundary of a shed class (R266, R306): a unit of theirs stops them without issuing. -/
def State.atBoundary (s : State) (run : Instr → State → Host.Outcome State Fault Refusal) (core slot : Nat) : List Nat :=
  (s.slotFrags core slot ++ s.shedFrags core slot).filterMap fun p =>
    match run (s.unitAt p.1 p.2).1 (s.withCur p.1.id p.2) with
    | .next u => if !u.issued && ((u.group? p.1.id).map Group.stopped).getD false then some p.1.id else none
    | _ => none

/-- Those groups stop (R266). -/
def State.stopBoundaries (s : State) (run : Instr → State → Host.Outcome State Fault Refusal) (core slot : Nat) : State :=
  (s.atBoundary run core slot).foldl (fun (t : State) g => t.stopGroup g true) s

/-- One turn of an issue slot: it chooses a fragment and issues its unit, or nothing issues. -/
def State.turn (s0 : State) (run : Instr → State → Host.Outcome State Fault Refusal) (core slot : Nat) :
    Host.Outcome State Fault Refusal :=
  let s := s0.meetFolds.stopBoundaries run core slot
  let cands := s.candidates run core slot
  let k := s.slotAt core slot
  match k.choose cands with
  | some p => run (s.unitAt p.1 p.2).1 (s.giveSlot k p)
  | none => .next s

/-! ## Stalls (R315, Table 21-3; log 17) -/

/-- The bin of an operation's unit and the words after it, in the version that issued it. -/
def State.opPos (s : State) (o : Op) : Nat × Nat :=
  match s.group? o.g with
  | some g => ((s.version? g.obj g.kidx o.ver).getD Version.blank).bin o.pc.toNat
  | none => (0xFFFFFFFF, o.pc.toNat / 4)

/-- Whether a fragment's unit would issue in a state. -/
def State.wouldIssue (s : State) (run : Instr → State → Host.Outcome State Fault Refusal) (i : Instr) (g : Group) (e : Nat) : Bool :=
  didIssue (run i (s.withCur g.id e))

/-- Operations whose Sideboard entries make a fragment's unit wait: each would do so alone, or all of its core's together. -/
def State.sbHolders (s : State) (run : Instr → State → Host.Outcome State Fault Refusal) (i : Instr) (g : Group) (e : Nat) : List Op :=
  let lone := s.sideboard.filter fun x => !({ s with sideboard := [x] } : State).wouldIssue run i g e
  let xs := if lone.isEmpty then s.sideboard.filter fun x => x.core == g.core else lone
  s.ops.filter fun o => xs.any fun x => x.op == o.id

/-- Whether some READY fragment's wait is one for memory (R298, R347): for an ld or st count, the Sideboard or a clock-crossing FIFO.
`wait` waits for each counter above its field; what waits for a register while the inbound FIFO is full waits for it. -/
def State.memWait (s : State) (run : Instr → State → Host.Outcome State Fault Refusal) (g : Group) (e kind : Nat) : Bool :=
  let i := (s.unitAt g e).1
  match i with
  | .wait _ f => f.ld.toNat < g.ld || f.st.toNat < g.st
  | _ => kind == 1 || kind == 8 || (kind == 0 && s.inFull g.core) ||
      (kind == 5 && (s.modGroup g.id fun h => { h with ld := 0, st := 0 }).wouldIssue run i g e)

/-- Why a fragment that may issue does not, as a kind of Stall, with the operations that hold it; none if it would issue. -/
def State.stallOf (s : State) (run : Instr → State → Host.Outcome State Fault Refusal) (g : Group) (e : Nat) : Option (Nat × List Op) :=
  let i := (s.unitAt g e).1
  let own := s.ops.filter fun o => o.g == g.id
  if s.wouldIssue run i g e then none
  else
    match i.parts with
    | none => none
    | some p =>
      if s.regBusy g.id p then some (0, s.holders g.id p)
      else
        match i with
        | .wait _ f =>
          if f.mx.toNat != 15 && f.mx.toNat < g.mx then some (2, own.filter fun o => o.kind.mma?.isSome && o.grant != .written)
          else if f.cp.toNat != 127 && f.cp.toNat < g.cp then some (3, own.filter fun o => match o.kind with
            | .copyT .. | .copyL => true
            | _ => false)
          else some (6, [])
        | _ =>
          if ({ s with sideboard := [] } : State).wouldIssue run i g e then some (1, s.sbHolders run i g e)
          else if ({ s with outq := [] } : State).wouldIssue run i g e then some (8, [])
          else if (s.modGroup g.id fun h => { h with ld := 0, st := 0, cp := 0, mx := 0 }).wouldIssue run i g e then some (5, [])
          else
            match i with
            | .mma _ _ => if 32 ≤ (s.bench (g.core / 4)).length then some (4, s.bench (g.core / 4)) else some (7, [])
            | _ => some (7, [])

/-- A BLAME packet at the end of a stall of at least BLMIN ns (Table 21-3): the operation that ended it, or for KIND 2 the
oldest `mma` that was still counted. -/
def State.blame (s : State) (x : Stall) : State :=
  let ended := x.srcs.filter fun q => match s.op? q.1 with
    | some o => o.grant == .written
    | none => true
  let by_ := if x.kind == 2 then x.srcs.head? else if ended.isEmpty then x.srcs.getLast? else ended.getLast?
  match by_ with
  | none => s
  | some q =>
    if s.obs.blmin == 0 || s.obs.ring == 0 || 4 < x.kind || s.time < x.since + s.obs.blmin then s
    else s.emit x.g 4 (x.e + min 0xFFFFFF (s.time - x.since) * 2 ^ 8 + x.kind * 2 ^ 32 + q.2.2 * 2 ^ 40 + q.2.1 * 2 ^ 64)

/-- One fragment that may issue is looked at: a stall begins or goes on, or one of `olds` at the same PC has ended. -/
def State.noteOne (s : State) (run : Instr → State → Host.Outcome State Fault Refusal) (olds : List Stall) (t : State)
    (p : Group × Nat) : State :=
  let pc := (p.1.entry p.2).pc
  let old := olds.find? fun x => x.g == p.1.id && x.e == p.2 && x.pc == pc
  match s.stallOf run p.1 p.2, old with
  | some k, _ =>
    let x : Stall := { g := p.1.id, e := p.2, pc := pc, since := (old.map Stall.since).getD s.time, kind := k.1, counts := s.memWait run p.1 p.2 k.1,
                       srcs := k.2.map fun o => (o.id, s.opPos o) }
    { t with obs := { t.obs with stalls := t.obs.stalls ++ [x] } }
  | none, some x => t.blame x
  | none, none => t

/-- What BLAME packets, samples and the time to come ask of the moment before a step: which fragments could not issue, and which stalls
have ended. Where no time passes, nothing is traced and nothing sampled, nothing asks. -/
def State.noteStalls (s : State) (run : Instr → State → Host.Outcome State Fault Refusal) (dt : Nat) : State :=
  if dt == 0 && (s.obs.blmin == 0 || s.obs.ring == 0) && !s.obs.sampEn then s
  else
    let ps := s.groups.flatMap fun g => (entryIds.filter fun e => s.mayIssue g e).map fun e => (g, e)
    ps.foldl (fun (t : State) p => s.noteOne run s.obs.stalls t p) { s with obs := { s.obs with stalls := [] } }

/-! ## Time -/

/-- Whether a core has a resident group that is not withheld (R298). -/
def State.coreActive (s : State) (core : Nat) : Bool :=
  s.groups.any fun g => g.core == core && g.phase == .resident && (s.cluster (core / 4)).w ≤ s.prioOf g

/-- Whether some READY fragment of a core waits for memory (R298). -/
def State.coreStalled (s : State) (core : Nat) : Bool :=
  s.obs.stalls.any fun x => x.counts && s.groups.any fun g => g.id == x.g && g.core == core

/-- What R298 asks of an island. -/
def State.loadOf (s : State) (n : Nat) : Load :=
  { active := n % 5 != 4 && s.coreActive (islandCore n), stalled := s.coreStalled (islandCore n),
    busy := (s.slots.filter fun k => k.core == islandCore n).foldl (fun (m : Nat) k => max m k.issue) 0 }

/-- Time passes on every island: two changes at most end in it, for no TARGET changes meanwhile. -/
def State.passIslands (s : State) (dt : Nat) : List Island :=
  s.power.isl.zipIdx.map fun p => p.1.pass p.2 (s.time + dt) (s.loadOf p.2) s.time 2

/-- Candidates wait (R86): READY fragments that could issue, in thousandths of the cycles that pass; the fragment whose unit is in
issue waits only once that has issued. `past` gives the cycles of a core. -/
def State.growWaits (s : State) (past : Nat → Nat) : State :=
  s.mapGroups fun g =>
    (entryIds.filter fun e => s.mayIssue g e && !(s.obs.stalls.any fun x => x.g == g.id && x.e == e)).foldl (fun (h : Group) e =>
      let k := s.slotAt g.core g.slot
      h.modEntry e fun y => { y with wait := y.wait + (past g.core - if k.last == some (g.id, e) then k.issue else 0) }) g

/-- Entries leave a FIFO in order, so many of each core; `seen` are the cores of those that stood before and left (R347). -/
def drainFifo (n : Nat → Nat) (seen : List Nat) : List Crossing → List Crossing
  | [] => []
  | x :: xs =>
    if (seen.filter fun c => c == x.core).length < n x.core then drainFifo n (x.core :: seen) xs else x :: drainFifo n seen xs

/-- Time passes (R296: an island's cycles follow its frequency): `mma`s that may be granted have begun to wait before it (R227), units
issue and pass, candidates wait, the fabric takes a request in each of its cycles and a core a response in each of its own (R347), and
allowance is earned (R302). -/
def State.tick (s0 : State) (dt : Nat) : State :=
  if dt == 0 then s0
  else
    let s := s0.markAllReady
    let isl := s.passIslands dt
    let past (core : Nat) : Nat := ((isl[coreIsland core]?).map Island.mcyc).getD 0 - (s.island (coreIsland core)).mcyc
    let cycles := clusterCycles (s.time + dt) - clusterCycles s.time
    let took (core : Nat) : Nat := ((s.island (coreIsland core)).mcyc + past core) / 1000 - (s.island (coreIsland core)).mcyc / 1000
    let s1 := s.growWaits past
    { s1 with time := s.time + dt, slots := s.slots.map fun k => { k with issue := k.issue - past k.core, pipe := k.pipe - past k.core },
              outq := drainFifo (fun _ => cycles) [] s.outq, inq := drainFifo took [] s.inq,
              power := { s.power.earn cycles with isl := isl } }

/-- The slots that hold a group, in core and slot order. -/
def State.usedSlots (s : State) : List (Nat × Nat) :=
  (List.range 1536).filterMap fun n => if s.groups.any fun g => g.core * 4 + g.slot == n then some (n / 4, n % 4) else none

/-- A move of the schedule (log 1): its head after its delay, and without one the first slot with a candidate, or a
nanosecond. -/
def State.move (s : State) (run : Instr → State → Host.Outcome State Fault Refusal) : Host.Outcome State Fault Refusal :=
  let n := s.noteStalls run ((s.agenda.head?.map Prod.fst).getD 1)
  match s.agenda with
  | (dt, .slot core slot) :: rest => ({ n with agenda := rest }.tick dt).turn run core slot
  | (dt, .event i) :: rest =>
    let s1 := { n with agenda := rest, cur := none }.tick dt
    if i.parts.isSome then .next s1 else run i s1
  | [] =>
    match n.usedSlots.find? fun k =>
        !(n.meetFolds.candidates run k.1 k.2).isEmpty || !(n.meetFolds.atBoundary run k.1 k.2).isEmpty with
    | some k => n.turn run k.1 k.2
    | none => .next (n.tick 1)

/-! ## Placing an instruction for the next step (log 2) -/

/-- A context with one page of 1 GiB, virtual address 0 to physical address 0, writable and executable. -/
def Context.probe : Context :=
  { Context.free with st := .open_, root := 0x10000, reserve := 2 ^ 30, deflt :=
      { cores := 384, spad := 2 ^ 32, vregs := 128, priv := 2 ^ 20, prio := 7, weight := 1, fdom := false, fpin := false } }

/-- An object of one kernel of one version whose code is given. -/
def Obj.probe (code : List Word) : Obj :=
  { id := 0, tag := 0, hash := [], image := [], refs := [0], bases := [(0, 0x100000)], load := 0x100000, owner := none, draining := false, kernels :=
      [{ kflags := 0, pregs := 1, priv := 4096, spad := 4096, ords := 0, versions := [{ Version.blank with code := code }] }] }

/-- The region of the placed group. -/
def Region.probe : Region :=
  { id := 0, ctx := 0, rcb := 0, parent := none, root := true, seq := 0, eff := Context.probe.deflt, debug := false, kind := 1, obj := 0,
    kidx := 0, argp := 0, rstate := 1, rcode := 0, gx := 1, gy := 1, gz := 1, wgg := 1, cset := 1, dspad := 0, fetch := false,
    cursor := 1, stages := [], seedP := 0, seedN := 0, seeded := 0, low := 0, high := 0, rivl := 0, dlwin := 0, queues := [], qbad := [], dies := [],
    cores := [], moves := [], startedAt := 0, dressedAt := none, blockedAt := none, warned := false, begun := true, ran := [0] }

/-- The workgroup of the placed group: scratchpad 0 to 4095 of core 0. -/
def Workgroup.probe : Workgroup :=
  { id := 0, ctx := 0, region := 0, lin := 0, x := 0, y := 0, z := 0, member := 0, set := 0, wgg := 1, core := 0, spOff := 0,
    spSize := 4096, order := 0, phase := .placed, image := [], poison := [], bars := [], why := 0 }

/-- One group of 32 lanes at offset 0 of the code `words`, resident on slot 0 of core 0 and next to issue; its context, page
table, object, region and workgroup are those above. -/
def State.probe (s : State) (words : List Word) : State :=
  let g := { s with nextId := 0 }.newGroup Region.probe 0 0 0 0 0 0 0 0 0
  let m := ((bytesOf 8 0x8001).zipIdx.foldl (fun (m : Memory) p => m.set (0x10000 + p.2) p.1) s.mem)
  let m2 := ((bytesOf 8 0xE7).zipIdx.foldl (fun (m : Memory) p => m.set (0x8000 + p.2) p.1) m)
  let s1 := { s with agenda := [(0, .slot 0 0)], mem := m2, wlog := [], tlb := [], mpoison := [], ops := [], passes := [], slots := [],
                     xfers := [], txbs := [], objs := [Obj.probe words], regions := [Region.probe], wgs := [Workgroup.probe],
                     ctxs := s.ctxs.set 0 Context.probe,
                     power := { s.power with clu := s.power.clu.set 0 Cluster.reset, shedlvl := 0 } }
  let first : Entry := { Entry.free with st := .ready, mask := 0xFFFFFFFF }
  let g1 : Group := { g with legacy := false, entries := (Vector.replicate 72 Entry.free).setIfInBounds 0 first }
  { s1 with groups := [g1], nextId := s.nextId + 1 }

end Sys2Proof.Machine
end

