-- ==== Sys2Proof/Machine/Debug.lean ====
section
/-! DEFINITION. Debug, breakpoints, samples and the trace ring as the host drives them (R310 to R317). -/
namespace Sys2Proof.Machine

/-! ## Halts -/

/-- DBG_HALT (R311). -/
def execDbgHalt (c : Nat) (s : State) : Host.Outcome State Fault Refusal := deviceStep s fun s => s.markHalt c none

/-- Whether QUIET reads 1 (R312): every group of a halted context is halted, and its operations have completed. -/
def State.quiet (s : State) (c : Nat) : Bool :=
  (s.ctx c).halt && (s.groups.all fun g => g.ctx != c || !s.observable g ||
    (g.phase != .draining && (g.fragments.all fun e => (g.entry e).st == .halted) && (s.opsOf g.id).isEmpty))

/-- Every HALTED fragment of a group is READY (R311); one that a transfer has moved is PARKED for it again (R288). -/
def Group.resume (g : Group) : Group :=
  g.fragments.foldl (fun (h : Group) e =>
    let go (y : Entry) : Entry := { y with haltP := false }
    if (g.entry e).st != .halted then h.modEntry e go
    else if (g.entry e).moved.isSome then h.chg e .parked fun y => { go y with park := .transfer }
    else h.wake e go) g

/-- RESUME of a context (R311), with the SYNC packets of its resident groups (R317, Table 21-3). -/
def State.resumeCtx (s : State) (c : Nat) : State :=
  let gs := s.groups.filter fun g => g.ctx == c && s.observable g
  let s1 := (s.modCtx c fun x => { x with halt := false }).mapGroups fun g => if gs.any fun h => h.id == g.id then g.resume else g
  (gs.filter fun g => g.phase == .resident && g.fragments.any fun e => (g.entry e).st == .halted).foldl (fun (s : State) g => s.sync g.id 4) s1

/-- DBG_RESUME (R311). -/
def execDbgResume (c : Nat) (s : State) : Host.Outcome State Fault Refusal := deviceStep s fun s => s.resumeCtx c

/-- SAVE of a context (R311, R284): every placed workgroup whose image fits is pre-empted. -/
def State.saveCtx (s : State) (c : Nat) : State :=
  let seen (w : Workgroup) : Bool := s.groups.any fun g => g.wg == w.id && s.observable g
  let ws := s.wgs.filter fun w => w.ctx == c && w.phase == .placed && seen w
  let s1 := s.modCtx c fun x => { x with saved := false, saveReq := false, saving := true }
  let s2 := ws.foldl (fun (s : State) w =>
    match s.wg? w.id with
    | some x => if x.phase == .placed && s.imageFits x then s.beginSave (s.setOf x) 2 else s
    | none => s) s1
  s2.debugSaved c

/-- DBG_SAVE (R311): at once when QUIET is set, else when it sets. -/
def execDbgSave (c : Nat) (s : State) : Host.Outcome State Fault Refusal :=
  deviceStep s fun s => if s.quiet c then s.saveCtx c else s.modCtx c fun x => { x with saveReq := true, saved := false }

/-- DEBUG_SAVE_DEFERRED (R311). -/
def execDebugSaveDeferred (s : State) : Host.Outcome State Fault Refusal :=
  deviceStep s fun s => (List.range 64).foldl (fun (s : State) c => if (s.ctx c).saveReq && s.quiet c then s.saveCtx c else s) s

/-- A breakpoint register after a write of its low or high word (Table 21-1). -/
def Breakpoint.write (b : Breakpoint) (high : Bool) (v : Nat) : Breakpoint :=
  if high then { b with ord := bitsOf v 63 32, ctx := bitsOf v 31 26, hits := 0, action := bitsOf v 2 1, en := bitOf v 0 }
  else { b with tag := v % 2 ^ 64, hits := 0 }

/-- BP_WRITE (R310). -/
def execBpWrite (n : Nat) (high : Bool) (v : Nat) (s : State) : Host.Outcome State Fault Refusal :=
  deviceStep s fun s => { s with obs := { s.obs with bps := s.obs.bps.modify n fun b => b.write high v } }

/-! ## Samples -/

/-- The classes of a sample (R315). -/
inductive SampleClass where
  | issue | memst | sync | idle
  deriving DecidableEq, Repr

/-- Why a READY fragment's unit did not issue when the step began (State.noteStalls): MEMST at a register, the Sideboard, a
counter or the clock-crossing FIFO, SYNC at `wait` or a full Bench, else IDLE. -/
def State.readyClass (s : State) (g : Group) (e : Nat) : SampleClass :=
  match (s.obs.stalls.find? fun x => x.g == g.id && x.e == e && x.pc == (g.entry e).pc).map Stall.kind with
  | some 0 | some 1 | some 5 | some 8 => .memst
  | some 2 | some 3 | some 4 | some 6 => .sync
  | _ => .idle

/-- The class of a fragment that did not issue (R315). -/
def State.waitClass (s : State) (g : Group) (e : Nat) : SampleClass :=
  let x := g.entry e
  match x.st with
  | .parked | .collective => .sync
  | .ready => if s.mayIssue g e then s.readyClass g e else .idle
  | _ => .idle

/-- Counts one class in a bin; counters saturate (R316, Table 21-2). -/
def Bin.count (b : Bin) (k : SampleClass) (lanes : Nat) : Bin :=
  let up (n : Nat) : Nat := min 0xFFFFFF (n + 1)
  match k with
  | .issue => { b with issue := up b.issue, lanes := min 0xFFFFFFFF (b.lanes + lanes) }
  | .memst => { b with memst := up b.memst }
  | .sync => { b with sync := up b.sync }
  | .idle => { b with idle := up b.idle }

/-- Adds one sample to a bin, or to LOST when 4,096 are in use (R315). -/
def State.addSample (s : State) (tag vtag ord : Nat) (k : SampleClass) (lanes : Nat) : State :=
  let o := s.obs
  let same (b : Bin) : Bool := b.tag == tag && b.vtag == vtag && b.ord == ord
  if o.bins.any same then { s with obs := { o with bins := o.bins.map fun b => if same b then b.count k lanes else b } }
  else if o.bins.length < 4096 then
    let b : Bin := { tag := tag, vtag := vtag, ord := ord, lanes := 0, issue := 0, memst := 0, sync := 0, idle := 0 }
    { s with obs := { o with bins := o.bins ++ [b.count k lanes] } }
  else { s with obs := { o with sampLost := min 0xFFFFFF (o.sampLost + 1) } }

/-- Live fragments of the sampled context on a slot, oldest first. -/
def State.sampledFrags (s : State) (core slot : Nat) : List (Group × Nat) :=
  (((s.onSlot core slot).filter fun g => g.ctx == s.obs.sampCtx && s.observable g).flatMap fun g => g.fragments.map fun e => (g, e)).foldl
    (fun acc a => insertFrag a acc) []

/-- One sample of a slot (R315): the fragment that issued at this moment, else the oldest. -/
def State.takeSample (s : State) (core slot : Nat) : State :=
  let k := s.slotAt core slot
  let fs := s.sampledFrags core slot
  let put (s : State) (g : Group) (v : Version) (pc : Nat) (c : SampleClass) (lanes : Nat) : State :=
    s.addSample (s.tagOf g) v.vtag (v.bin pc).1 c lanes
  let issuer := if k.issue == 0 then none else k.last.bind fun l => (s.onSlot core slot).find? fun g =>
    g.id == l.1 && g.ctx == s.obs.sampCtx && s.observable g
  match issuer, fs with
  | some g, _ => put s g (s.versionOf g) k.pc.toNat .issue k.lanes
  | none, f :: _ => put s f.1 (s.versionAt f.1 f.2) (f.1.entry f.2).pc.toNat (s.waitClass f.1 f.2) 0
  | none, [] => s

/-- Whether a slot has come to a new sample period since its last sample (R315). -/
def State.sampleDue (s : State) (core slot : Nat) : Bool :=
  let p := 1000 * 2 ^ (8 + s.obs.sampPeriod)
  decide ((s.slotAt core slot).sampled / p < (s.island (coreIsland core)).mcyc / p)

/-- SAMPLE_TICK (R315): one sample of a slot in a sample period. -/
def execSampleTick (core slot : Nat) (s : State) : Host.Outcome State Fault Refusal :=
  deviceStep s fun s =>
    if s.obs.sampEn && s.sampleDue core slot then
      (let s1 := s.takeSample core slot
       s1.setSlot { s1.slotAt core slot with sampled := (s.island (coreIsland core)).mcyc })
    else s

/-- A lane-cycle record (Table 21-2). -/
def Bin.bytes (b : Bin) : List Byte :=
  bytesOf 3 b.idle ++ bytesOf 3 b.sync ++ bytesOf 3 b.memst ++ bytesOf 3 b.issue ++ bytesOf 4 b.lanes ++ bytesOf 4 b.ord ++
    bytesOf 4 b.vtag ++ bytesOf 8 b.tag

/-- The bins are written to SBUF through the context's translation, and cleared (R316, R310). -/
def State.dumpBins (s : State) : State :=
  let s1 := s.writeVirt s.obs.sampCtx s.obs.sbuf (s.obs.bins.flatMap Bin.bytes)
  { s1 with obs := { s1.obs with bins := [] } }

/-- SAMPLE_DUMP (R316). -/
def execSampleDump (s : State) : Host.Outcome State Fault Refusal := deviceStep s State.dumpBins

/-- SAMP as it reads (Table 21-1). -/
def Observe.sampWord (o : Observe) : Nat :=
  o.sampCtx * 2 ^ 58 + o.sampLost * 2 ^ 34 + o.sampPeriod * 256 + (if o.sampEn then 1 else 0)

/-- SAMP_READ (R310): LOST is cleared. -/
def execSampRead (s : State) : Host.Outcome State Fault Refusal :=
  deviceStep s fun s => { s with reply := some (.value s.obs.sampWord), obs := { s.obs with sampLost := 0 } }

/-! ## The trace ring -/

/-- TRD_WRITE (R317): ignored above WR; space may now let the LOSS packet in. -/
def execTrdWrite (v : Nat) (s : State) : Host.Outcome State Fault Refusal :=
  deviceStep s fun s =>
    if s.obs.twr < v then s
    else
      let s1 : State := { s with obs := { s.obs with trd := v } }
      if 0 < s1.obs.ring then s1.lossPacket else s1

end Sys2Proof.Machine
end

