-- ==== Sys2Proof/Machine/Links.lean ====
section
/-! DEFINITION. Clanyx Links (R355 to R358): flits, ports and keys; DEVNUM. Accesses over links are in Machine/Access.lean and
Machine/Memory.lean (log 15). -/
namespace Sys2Proof.Machine

/-- A port after a flit arrives (R355, R358): one whose CRC or tag fails is counted and retried; after 8 retries that failed the port
carries none. -/
def Link.flit (l : Link) (good : Bool) : Link :=
  if !l.up || 9 ≤ l.retries || (l.enc && 2 ^ 32 ≤ l.rxNonce + 1) then l
  else if good then { l with retries := 0, rxNonce := if l.enc then l.rxNonce + 1 else 0 }
  else { l with crcerr := min 0xFFFFFFFF (l.crcerr + 1), retries := l.retries + 1 }

/-- FLIT_RECEIVE (R355). -/
def execFlitReceive (p : Nat) (good : Bool) (s : State) : Host.Outcome State Fault Refusal :=
  deviceStep s fun s => s.modLink p fun l => l.flit good

/-- A port that is down: its keys are gone. -/
def Link.down (l : Link) : Link :=
  { l with up := false, enc := false, retries := 0, admitted := false, rxKey := [], txKey := [], rxNonce := 0, txNonce := 0 }

/-- Whether an operation is an atomic. -/
def OpKind.isAtomic : OpKind → Bool
  | .atom .. => true
  | _ => false

/-- A lane's access after its port went down (R357): one that has not been sent takes another live port; a load or store in flight is
sent once more on one; an atomic, and what no port takes, is lost. -/
def State.resend (s : State) (o : Op) (a : LaneAcc) : LaneAcc :=
  let port := s.tgtPort a.tgt
  if !a.sent o || a.way.port.isNone then { a with way := { a.way with port := port } }
  else if o.kind.isAtomic || a.way.again || port.isNone then { a with way := { a.way with port := none, lost := true } }
  else { a with way := { a.way with port := port, again := true } }

/-- Lanes whose port is `p`, or that have none though a live one carries their line, take another (R357). -/
def State.rePort (s : State) (p : Option Nat) : State :=
  let hit (a : LaneAcc) : Bool := a.way.port == p && !a.way.lost && !a.tgt.peerLines.isEmpty && (a.st == .pending || a.st == .performed)
  let out := s.ops.flatMap fun o => (o.accs.filter fun a => hit a && a.sent o).map fun a => (s.resend o a).way.port
  (s.sendOver out).mapOps fun o => { o with accs := o.accs.map fun a => if hit a then s.resend o a else a }

/-- LINK_DOWN (R355, R357): a port that fails 8 retries of one flit goes down, and what was in flight on it is sent once more. -/
def execLinkDown (p : Nat) (s : State) : Host.Outcome State Fault Refusal :=
  deviceStep s fun s =>
    if (s.links[p]?).any fun l => l.up && 9 ≤ l.retries then (s.modLink p Link.down).rePort (some p) else s

/-- A port's keys and nonces after an exchange (R358). -/
def Link.exchanged (l : Link) (p : Nat) : Link :=
  { l with exch := l.exch + 1, rxKey := Config.linkKey p (l.exch + 1) false, txKey := Config.linkKey p (l.exch + 1) true, rxNonce := 0,
           txNonce := 0 }

/-- LINK_UP (R355, R358): with link encryption, only a peer whose signature and certificate hold is admitted. -/
def execLinkUp (p : Nat) (enc admitted : Bool) (s : State) : Host.Outcome State Fault Refusal :=
  deviceStep s fun s =>
    if (s.links[p]?).any fun l => l.up || (enc && !admitted) then s
    else (s.modLink p fun l =>
      let l1 : Link := { l with up := true, enc := enc, admitted := admitted, retries := 0, rxNonce := 0, txNonce := 0 }
      if enc then l1.exchanged p else l1).rePort none

/-- LINK_KEY_RENEWAL (R358). -/
def execLinkKeyRenewal (p : Nat) (s : State) : Host.Outcome State Fault Refusal :=
  deviceStep s fun s => s.modLink p fun l => if l.up && l.enc then l.exchanged p else l

/-- LINK p as it reads (R355). -/
def Link.word (l : Link) : Nat := l.crcerr * 2 ^ 32 + (if l.enc then 2 else 0) + (if l.up then 1 else 0)

/-- LINK_READ (R355): CRCERR is cleared. -/
def execLinkRead (p : Nat) (s : State) : Host.Outcome State Fault Refusal :=
  deviceStep s fun s =>
    ({ s with reply := some (.value ((s.links[p]?.map Link.word).getD 0)) } : State).modLink p fun l => { l with crcerr := 0 }

/-- DEVNUM_WRITE (R355): the first write after reset; later ones are ignored. -/
def execDevnumWrite (v : Nat) (s : State) : Host.Outcome State Fault Refusal :=
  deviceStep s fun s => if s.devnumSet then s else { s with devnum := v % 8192, devnumSet := true }

end Sys2Proof.Machine
end

