-- ==== Sys2Proof/Machine/Migrate.lean ====
section
/-! DEFINITION. Migration (R289 to R294) and trust (R361 to R363): MIGRATE_OUT, MIGRATE_IN and ATTEST. What the layout of an
image leaves open is log 27. -/
namespace Sys2Proof.Machine

/-! ## Stopping for a portable save -/

/-- A fragment that stands still at a portable stop site, and has not begun its unit, stops there at once (R143, R290, R343). -/
def State.portableParked (s : State) (g : Group) (e : Nat) : Bool :=
  let x := g.entry e
  s.portableStop g e && (x.st == .collective || (x.st == .parked && (match x.park with
    | .tdone .. | .sleep _ | .transfer => false
    | _ => true)))

/-- A fragment of a group stands stopped for a portable save. -/
def State.portableAt (s : State) (g : Group) (e : Nat) : Bool :=
  let x := g.entry e
  let v := s.versionOf g
  x.st == .parked && x.park == .transfer && x.moved.isNone && !x.inH &&
    (match v.stopAt x.pc.toNat with
    | some m => m.portable && m.fits v (g.joins e 72)
    | none => false)

/-- Every fragment of a group stands so, and its operations have completed (R290); an `mma` that has is no operation any more, whether
a `wait` has matched it or not. -/
def State.portable (s : State) (g : Group) : Bool :=
  g.phase == .resident && (g.fragments.all fun e => s.portableAt g e) && (s.opsOf g.id).isEmpty && g.late.isEmpty

/-- Whether a group will make no portable stop any more: one of its fragments has passed HORIZON stop sites (R290). -/
def State.pastHorizon (s : State) (g : Group) : Bool :=
  g.fragments.any fun e => (s.versionOf g).horizon ≤ (g.entry e).outPassed && !s.portableAt g e

/-- A group that finishes on the source: its stopped fragments go on, and make no portable stop any more (R290). -/
def Group.finishHere (g : Group) : Group :=
  g.fragments.foldl (fun (h : Group) e =>
    let far (y : Entry) : Entry := { y with outPassed := 0xFFFF }
    if (g.entry e).st == .parked && (g.entry e).park == .transfer && (g.entry e).moved.isNone then h.wake e far else h.modEntry e far) g

/-- Whether a workgroup's set finishes on the source: one of its groups cannot stop (R290), or its images do not fit the context's
reserve (R284). -/
def State.staysHere (s : State) (w : Workgroup) : Bool :=
  !s.imageFits w || (s.setOf w).any fun x => s.groups.any fun h => h.wg == x.id && h.phase == .resident && s.pastHorizon h

/-- Sets that cannot be saved finish on the source (R284, R290). -/
def State.releaseOut (s : State) (c : Nat) : State :=
  s.mapGroups fun g =>
    if g.ctx == c && g.phase == .resident && (s.wgOf g).any s.staysHere then g.finishHere else g

/-- A stopped group with a data fault found after issue goes on at the fragment that raises it (R200). -/
def Group.wakeLate (g : Group) : Group :=
  g.fragments.foldl (fun (h : Group) e =>
    if (g.entry e).st == .parked && (g.entry e).park == .transfer && (g.entry e).moved.isNone &&
      (g.late.any fun f => (f.lanes g.live &&& (g.entry e).mask) != 0) then h.wake e fun y => y else h) g

/-- Fragments that stand at portable stop sites stop there, those that have a fault to raise go on to raise it (R290). -/
def State.parkOut (s : State) (c : Nat) : State :=
  s.mapGroups fun g =>
    if g.ctx == c && g.phase == .resident then
      (g.fragments.foldl (fun (h : Group) e =>
        if s.portableParked h e then h.chg e .parked fun y => { y with park := .transfer, named := 0 } else h) g).wakeLate
    else g

/-- MIGRATE_OUT starts (R290): every group of the context has HORIZON stop sites before it, a saved one after its restore. -/
def State.startOut (s : State) (k : Cmd) : State :=
  let drain := bitsOf (argOf k.bytes 24 1) 0 0
  let s1 := s.modCtx k.ctx fun x => { x with migrating := some (k.seq, drain) }
  let s2 := s1.mapGroups fun g => if g.ctx == k.ctx then g.mapEntries fun x => { x with outPassed := 0, seenO := false } else g
  (s2.releaseOut k.ctx).parkOut k.ctx

/-- Whether no group of a context runs or stands saved: each is stopped in portable form (R290). -/
def State.outReady (s : State) (c : Nat) : Bool :=
  (s.groups.all fun g => g.ctx != c || s.portable g) && (s.mailboxes.all fun m => !(s.wgs.any fun w => w.id == m.wg && w.ctx == c)) &&
    s.wgs.all fun w => w.ctx != c || w.phase == .placed

/-! ## Writing an image -/

/-- Bytes padded with zeros to a multiple of 64. -/
def pad64 (bs : List Byte) : List Byte := bs ++ List.replicate ((64 - bs.length % 64) % 64) 0

/-- Context defaults as bytes 32-47 of CTX_CREATE (Table 19-8). -/
def Eff.bytes (d : Eff) : List Byte :=
  pack [(2, d.cores), (2, d.vregs), (4, d.spad), (4, d.priv), (1, d.prio), (1, 0), (2, d.weight)]

/-- The objects of a context: with references of it, or draining under its groups. -/
def State.objsOf (s : State) (c : Nat) : List Obj :=
  s.objs.filter fun o => o.refs.contains c || s.groups.any fun g => g.ctx == c && g.obj == o.id

/-- The object section (Table 19-9): records, then code images, 64-byte aligned; `at_` is the section's offset. -/
def State.objSection (s : State) (c at_ : Nat) : List Byte :=
  let os := s.objsOf c
  let first := at_ + (pad64 (List.replicate (32 * os.length) 0)).length
  let recs := os.foldl (fun (acc : List Byte × Nat) o =>
    let n := (o.refs.filter fun d => d == c).length
    (acc.1 ++ pack [(8, o.tag.toNat), (8, acc.2), (8, o.image.length), (4, n), (4, if o.draining then 1 else 0)],
      acc.2 + (pad64 o.image).length)) ([], first)
  pad64 recs.1 ++ os.flatMap fun o => pad64 o.image

/-- The regions of a context that have not ended. -/
def State.regionsOf (s : State) (c : Nat) : List Region := s.regions.filter fun r => r.ctx == c && !r.ended

/-- VTAG of the transfer pending for a region's kernels (Table 19-9). -/
def State.pendingVtag (s : State) (r : Region) : Nat :=
  let ks := if r.kind == 2 then r.stages.map Stage.kidx else [r.kidx]
  match s.xfers.find? fun x => x.active && x.ctx == r.ctx && x.obj == r.obj && ks.contains x.kidx with
  | some x => ((s.version? x.obj x.kidx x.target).map Version.vtag).getD 0xFFFFFFFF
  | none => 0xFFFFFFFF

/-- One region record (Table 19-9). -/
def State.regionRecord (s : State) (c : Nat) (r : Region) : List Byte :=
  let rs := s.regionsOf c
  let up := r.parent.bind s.region?
  let idx := (r.parent.bind fun p => rs.findIdx? fun x => x.id == p).getD 0xFFFFFFFF
  pack [(8, r.rcb), (8, (up.map Region.rcb).getD 0), (1, r.rstate), (1, r.kind), (2, 0), (4, idx),
    (4, if r.kind == 1 then r.cursor else r.seeded), (4, ((s.objsOf c).findIdx? fun o => o.id == r.obj).getD 0),
    (4, s.pendingVtag r), (28, 0)]

/-- Queues of a context: region index, number, records. -/
def State.queuesOf (s : State) (c : Nat) : List (Nat × Nat × List (List Byte)) :=
  (s.regionsOf c).zipIdx.flatMap fun r => r.1.queues.zipIdx.map fun q => (r.2, q.2, q.1)

/-- Values carried for a group (R294): number, kind, width and contents; per-lane values and the bits of masks from the entry that
holds each lane. -/
def State.carried (s : State) (g : Group) : List (Nat × Nat × Bool × Val) :=
  let v := s.versionOf g
  let at_ := g.fragments.flatMap fun e => ((v.stopAt (g.entry e).pc.toNat).map fun m => m.live.map fun u => (e, u)).getD []
  let nums := (at_.map fun p => p.2.value).eraseDups
  nums.filterMap fun n =>
    let mine := at_.filter fun p => p.2.value == n
    match mine with
    | [] => none
    | (_, u) :: _ =>
      let wide := u.width == 1
      if u.kind == 0 then
        let lane (l : Nat) : Nat := match mine.find? fun p => laneIn (g.entry p.1).mask l with
          | some p => (s.readLoc g p.2.kind p.2.loc wide).at_ l
          | none => 0
        some (n, 0, wide, ⟨true, lanes32.map lane⟩)
      else if u.kind == 2 then
        let bits (p : Nat × Live) : Word := BitVec.ofNat 32 ((s.readLoc g 2 p.2.loc false).at_ 0) &&& (g.entry p.1).mask
        some (n, 2, wide, ⟨false, [(mine.foldl (fun (m : Word) p => m ||| bits p) 0).toNat]⟩)
      else some (n, if u.kind == 4 then 1 else u.kind, wide, s.readLoc g u.kind u.loc wide)

/-- Bytes of one datum of a value record. -/
def valueSize (kind : Nat) (wide : Bool) : Nat := if kind == 3 then 64 else if kind == 2 then 4 else if wide then 8 else 4

/-- A value record (R294). -/
def valueRecord (x : Nat × Nat × Bool × Val) : List Byte :=
  let n := valueSize x.2.1 x.2.2.1
  let data := x.2.2.2.vals.flatMap fun v => bytesOf n v
  pack [(2, x.1), (1, x.2.1), (1, if x.2.2.1 then 1 else 0), (4, data.length)] ++ data

/-- An entry record (Table 19-11). -/
def State.entryRecord (s : State) (g : Group) (e : Nat) : List Byte :=
  let x := g.entry e
  let v := s.versionOf g
  let wait := x.st == .joinWait
  let ord := if wait then (v.anchorOrd x.pc.toNat).getD 0xFFFFFFFF else ((v.stopAt x.pc.toNat).map MapEntry.ord).getD 0xFFFFFFFF
  let jord := if x.parent < 72 then (v.anchorOrd x.join.toNat).getD 0xFFFFFFFF else 0xFFFFFFFF
  pack [(1, e), (1, if wait then 2 else 4), (1, x.parent), (1, x.depth), (4, x.all.toNat), (4, x.pend.toNat), (4, ord), (4, jord), (12, 0)]

/-- A portable group image (Tables 19-6, 19-10). -/
def State.groupImage (s : State) (g : Group) : List Byte :=
  let used := entryIds.filter fun e => (g.entry e).st != .free
  let vals := s.carried g
  let priv := s.privOf g
  let body := pack [(4, used.length), (4, vals.length), (8, g.frecp.toNat), (8, (g.task.map Task.argp).getD 0), (4, g.traparg.toNat), (4, priv)] ++
    used.flatMap (fun e => s.entryRecord g e) ++ vals.flatMap valueRecord ++ (List.range priv).map fun i => s.newest (privKey g.id i)
  s.groupHeader g (64 + body.length) true 0 0 0 ++ body

/-- Groups of a workgroup in GROUPID order. -/
def State.wgGroups (s : State) (w : Workgroup) : List Group :=
  (List.range 32).filterMap fun i => s.groups.find? fun g => g.wg == w.id && g.gid == i && g.phase == .resident

/-- Poison bits of a workgroup's range (Table 19-9). -/
def State.poisonBytes (s : State) (w : Workgroup) : List Byte :=
  let line := w.core * 8192 + w.spOff / 64
  (List.range (w.spSize / 512)).map fun i => BitVec.ofNat 8 ((List.range 8).foldl (fun (n : Nat) b =>
    if s.spoison.contains (line + 8 * i + b) then n + 2 ^ b else n) 0)

/-- One workgroup record with its data (Table 19-9). -/
def State.wgRecord (s : State) (c : Nat) (w : Workgroup) : List Byte :=
  let gs := s.wgGroups w
  let idx := ((s.regionsOf c).findIdx? fun r => r.id == w.region).getD 0xFFFFFFFF
  pack [(4, idx), (4, w.x), (4, w.y), (4, w.z), (1, w.member), (1, gs.length), (1, w.core % 4), (1, 0), (4, w.spOff), (4, w.spSize), (36, 0)] ++
    (List.range w.spSize).map (fun i => s.newest (spadKey w.core (w.spOff + i))) ++ s.poisonBytes w ++ gs.flatMap s.groupImage

/-- The image of a context (R292, R293), before sealing; `flags` is header byte 24. -/
def State.outImage (s : State) (c flags : Nat) : List Byte :=
  let x := s.ctx c
  let qs := s.queuesOf c
  let ws := s.wgs.filter fun w => w.ctx == c
  let objs := s.objSection c 256
  let regs := pad64 ((s.regionsOf c).flatMap fun r => s.regionRecord c r)
  let ques := pad64 (qs.flatMap fun q => pack [(4, q.1), (2, q.2.1), (2, q.2.2.length), (8, 0)] ++ q.2.2.flatten)
  let wgs := pad64 (ws.flatMap fun w => s.wgRecord c w)
  let o1 := 256 + objs.length
  let o2 := o1 + regs.length
  let o3 := o2 + ques.length
  pack [(4, 0x494D584B), (2, 1), (2, 0), (8, o3 + wgs.length), (8, Config.featureWord.toNat), (1, flags), (7, 0)] ++ x.deflt.bytes ++
    pack [(8, x.reserve), (4, (s.objsOf c).length), (4, (s.regionsOf c).length), (4, qs.length), (4, ws.length), (8, 0), (8, 256), (8, o1),
      (8, o2), (8, o3), (144, 0)] ++ objs ++ regs ++ ques ++ wgs

/-- The associated data of a sealed image (R292): header bytes 0-111 and 140-255. -/
def sealAad (img : List Byte) : List Byte := img.take 112 ++ (img.take 256).drop 140

/-- An image sealed under a context's key (R363). -/
def sealedImage (key img : List Byte) : List Byte :=
  let r := Config.sealImage key (sealAad img) (img.drop 256)
  let tag := (r.1 ++ List.replicate 28 0).take 28
  img.take 112 ++ tag ++ (img.take 256).drop 140 ++ (r.2 ++ List.replicate (img.length - 256) 0).take (img.length - 256)

/-- The image that MIGRATE_OUT writes: sealed in a confidential context that has a key. -/
def State.finalImage (s : State) (c : Nat) : List Byte :=
  let x := s.ctx c
  match x.conf, x.key with
  | true, some k => sealedImage k (s.outImage c 3)
  | true, none => s.outImage c 1
  | false, _ => s.outImage c 0

/-- What the source holds of a context that has been saved is gone; its other commands end (log 27). -/
def State.forget (s : State) (c before : Nat) : State :=
  let s1 : State := { s with groups := s.groups.filter (fun g => g.ctx != c), wgs := s.wgs.filter (fun w => w.ctx != c),
                             regions := s.regions.filter (fun r => r.ctx != c), xfers := s.xfers.filter fun x => x.ctx != c,
                             power := { s.power with reqs := s.power.reqs.filter fun r => r.1 != c } }
  let s2 := (s1.releaseRefs c).failAll c before 0x2E
  (((s.power.reqs.filter fun r => r.1 == c).map fun r => r.2.1).foldl (fun (s : State) n => s.retarget n) s2).modCtx c fun x => { x with migrating := none, halt := false, saveReq := false }

/-- The save of a context's groups for another device is a release of system scope on each of their cores (Table 14-2, R240). -/
def State.releaseAll (s : State) (c : Nat) : State :=
  (((s.groups.filter fun g => g.ctx == c).map Group.core).eraseDups).foldl (fun (s : State) n => s.release n 4) s

/-- MIGRATE_OUT ends (R290): the image is written and the context closed, or BUFFER, and the context is destroyed. The ARG of its
COMPLETED record is 0 (log 60). -/
def State.finishOut (s0 : State) (k : Cmd) : State :=
  let s := s0.releaseAll k.ctx
  let img := s.finalImage k.ctx
  let a := argOf k.bytes 8 8
  if argOf k.bytes 16 8 < img.length || !s.hostAllowed k.ctx a img.length true then
    (s.failCmd k 0x62).destroyCtx k.ctx (2 ^ 64) 0x2E
  else ((s.hostWrite (hostKey a) img).forget k.ctx k.seq).completeCmd k 0

/-- MIGRATE_OUT (R290): starts, then completes when no group of the context runs and none stands saved. -/
def execMigrateOut (c : Nat) (s : State) : Host.Outcome State Fault Refusal :=
  deviceStep s fun s =>
    match (s.ctx c).migrating with
    | none => s.runCmd c 7 fun k s => s.startOut k
    | some (seq, _) =>
      let s1 := (s.releaseOut c).parkOut c
      if !s1.outReady c then s1
      else match (s1.ctx c).started.find? fun k => k.seq == seq with
        | some k => s1.finishOut k
        | none => s1

/-! ## Reading an image -/

/-- Whether an image's header is in form (R292). -/
def inHeaderOk (img : List Byte) : Bool :=
  let size := rdImg img 8 8
  let flags := rdImg img 24 1
  let offs := [rdImg img 80 8, rdImg img 88 8, rdImg img 96 8, rdImg img 104 8]
  256 ≤ size && size ≤ img.length && rdImg img 0 4 == 0x494D584B && rdImg img 4 2 == 1 && rdImg img 6 2 == 0 && flags < 4 && flags != 2 &&
    rdImg img 25 7 == 0 && rdImg img 72 8 == 0 && rdImg img 140 116 == 0 && (bitOf flags 1 || rdImg img 112 28 == 0) &&
    offs.all (fun o => o % 64 == 0 && 256 ≤ o && o ≤ size) && rdImg img 80 8 ≤ rdImg img 88 8 && rdImg img 88 8 ≤ rdImg img 96 8 &&
    rdImg img 96 8 ≤ rdImg img 104 8

/-- Objects of an image, loaded in order (R291): the names of what they became. One that drains on the source drains here, unless
another context holds references to it (R18). -/
def State.inObjects (s : State) (c : Nat) (img : List Byte) : Nat → Nat → Except Nat (List Nat × State)
  | _, 0 => .ok ([], s)
  | at_, n + 1 =>
    let bytes := (img.drop (rdImg img (at_ + 8) 8)).take (rdImg img (at_ + 16) 8)
    let count := rdImg img (at_ + 24) 4
    match s.adopt c bytes with
    | .error r => .error r
    | .ok (tag, s1) =>
      match s1.objByTag c tag with
      | none => .error 0x01
      | some o =>
        let others := o.refs.filter fun d => d != c
        let o1 : Obj := { o with refs := List.replicate count c ++ others,
                                 draining := bitOf (rdImg img (at_ + 28) 4) 0 && others.isEmpty }
        match ({ s1 with objs := s1.objs.map fun p => if p.id == o.id then o1 else p } : State).inObjects c img (at_ + 32) n with
        | .error r => .error r
        | .ok (ids, s2) => .ok (o.id :: ids, s2)

/-- Regions of an image, parents first (R291): read again from their RCBs. `objs` and `ids` name what the earlier records
became. -/
def State.inRegions (s : State) (c : Nat) (img : List Byte) (objs : List Nat) : List Nat → Nat → Nat → Except Nat (List Nat × State)
  | ids, _, 0 => .ok (ids, s)
  | ids, at_, n + 1 =>
    let rcb := rdImg img at_ 8
    let up := (ids[rdImg img (at_ + 20) 4]?).bind s.region?
    let eff := (up.map Region.eff).getD (s.ctx c).deflt
    match s.readGlobal c rcb 256, (objs[rdImg img (at_ + 28) 4]?).bind s.obj? with
    | some bs, some o =>
      let x := ofBytes bs
      if !(rcbForm x && regionForm x && kernelsOk x o) then .error reasonBadRcb
      else
        let r := regionOf s.nextId c rcb 0 (up.map Region.id) eff o x
        if r.eff.fpin && rdImg img 16 8 != Config.featureWord.toNat then .error 0x04
        else
          let pos := rdImg img (at_ + 24) 4
          let st := rdImg img (at_ + 16) 1
          let r1 : Region := { r with rstate := st, begun := decide (st == 1), cursor := if r.kind == 1 then pos else 0,
                                      seeded := if r.kind == 1 then 0 else pos, startedAt := s.time, dies := r.stages.map fun _ => 0 }
          ({ s with regions := s.regions ++ [r1], nextId := s.nextId + 1 } : State).inRegions c img objs (ids ++ [r1.id]) (at_ + 64) n
    | _, _ => .error reasonBadRcb

/-- Queues of an image. -/
def State.inQueues (s : State) (img : List Byte) (ids : List Nat) : Nat → Nat → State
  | _, 0 => s
  | at_, n + 1 =>
    let count := rdImg img (at_ + 6) 2
    let recs := (List.range count).map fun i => (img.drop (at_ + 16 + 64 * i)).take 64
    let s1 := match ids[rdImg img at_ 4]? with
      | some r => s.modRegion r fun x => { x with queues := x.queues.set (rdImg img (at_ + 4) 2) recs }
      | none => s
    s1.inQueues img ids (at_ + 16 + 64 * count) n

/-- The value records of a group image, and where they end. -/
def inValues (img : List Byte) : Nat → Nat → List (Nat × Val) × Nat
  | at_, 0 => ([], at_)
  | at_, n + 1 =>
    let kind := rdImg img (at_ + 2) 1
    let size := rdImg img (at_ + 4) 4
    let one := valueSize kind (rdImg img (at_ + 3) 1 == 1)
    let v : Val := ⟨kind == 0, (List.range (if kind == 0 then 32 else 1)).map fun i => rdImg img (at_ + 8 + one * i) one⟩
    let r := inValues img (at_ + 8 + size) n
    ((rdImg img at_ 2, v) :: r.1, r.2)

/-- One entry of a portable image in the target version (R294): a fragment before its stop site, or a join wait. -/
def inEntry (d : Version) (img : List Byte) (at_ : Nat) : Nat × Entry :=
  let wait := rdImg img (at_ + 1) 1 == 2
  let ord := rdImg img (at_ + 12) 4
  let pc := if wait then (d.anchorAt ord).getD 0 else ((d.ordinal ord).map MapEntry.coff).getD 0
  let jord := rdImg img (at_ + 16) 4
  let join := if jord == 0xFFFFFFFF then 0xFFFFFFFF else (d.anchorAt jord).getD 0xFFFFFFFF
  (rdImg img at_ 1, { Entry.free with st := if wait then .joinWait else .ready, mask := BitVec.ofNat 32 (rdImg img (at_ + 4) 4),
                                      pend := BitVec.ofNat 32 (rdImg img (at_ + 8) 4), pc := BitVec.ofNat 32 pc, join := BitVec.ofNat 32 join,
                                      parent := rdImg img (at_ + 2) 1, depth := rdImg img (at_ + 3) 1 })

/-- Ordinals at which the fragments of a portable image stand. -/
def inOrdinals (img : List Byte) (at_ n : Nat) : List Nat :=
  (List.range n).filterMap fun i => if rdImg img (at_ + 32 * i + 1) 1 == 2 then none else some (rdImg img (at_ + 32 * i + 12) 4)

/-- The version that a portable group runs in (R291): the one that R21 and R55 choose, or the saved one where that has no
counterpart of an ordinal; none when neither has. -/
def State.inVersion (s : State) (r : Region) (k vtag : Nat) (ords : List Nat) : Option Nat :=
  let fits (i : Nat) : Bool := ords.all fun n => ((s.version? r.obj k i).getD Version.blank).ordinal n |>.isSome
  let own := ((s.kernel? r.obj k).map Kernel.versions).getD [] |>.findIdx? fun v => v.vtag == vtag
  match s.startVersion r.ctx r.obj k r.eff r.debug with
  | some i => if fits i then some i else own.bind fun j => if fits j then some j else none
  | none => none

/-- Recipes are applied one after the other as far as they can be (R25): one whose load faults makes no value, and no later one that
builds on it. -/
def State.recipesKept (s : State) (g : Group) (m : Word) : List Recipe → List (Nat × Val) → List (Nat × Val) × State
  | [], vs => (vs, s)
  | r :: rs, vs =>
    match s.recipeVal g m r vs with
    | none => s.recipesKept g m rs vs
    | some q => q.2.recipesKept g m rs ((r.value, q.1) :: vs)

/-- Values go into a version's locations at one entry, for the lanes of a mask (R294). -/
def State.placeVals (s : State) (gid : Nat) (m : Word) (ls : List Live) (vs : List (Nat × Val)) : State :=
  ls.foldl (fun (s : State) u => match vs.find? fun p => p.1 == u.value with
    | some p => s.writeLoc gid u.kind u.loc (u.width == 1) m p.2
    | none => s) s

/-- The values carried for a group go into the target's locations at each fragment's ordinal, then the target's recipes are evaluated
(R25, R291, R294). A value that the target holds and the source map only makes by a recipe was not carried: the source's recipes make
it (log 27). -/
def State.inPlace (s : State) (gid : Nat) (src d : Version) (vals : List (Nat × Val)) : State :=
  match s.group? gid with
  | none => s
  | some g => g.fragments.foldl (fun (s : State) e =>
      let x := g.entry e
      match d.stopAt x.pc.toNat with
      | none => s
      | some dst =>
        let s1 := s.placeVals gid x.mask dst.live vals
        let made := s1.recipesKept g x.mask dst.recipes (vals.filter fun p => dst.live.any fun u => u.value == p.1)
        let own := made.2.recipesKept g x.mask (((src.ordinal dst.ord).map MapEntry.recipes).getD []) vals
        own.2.placeVals gid x.mask (dst.live.filter fun u => !(vals.any fun p => p.1 == u.value)) (made.1 ++ own.1)) s

/-- One portable group image at `at_` becomes a saved group of a workgroup (R291, R294): where it ends, and the state; none
when it has no version. -/
def State.inGroup (s : State) (r : Region) (w : Workgroup) (img : List Byte) (at_ : Nat) : Option (Nat × State) :=
  let kidx := rdImg img (at_ + 30) 2
  let vtag := rdImg img (at_ + 44) 4
  let nf := rdImg img (at_ + 64) 4
  match s.inVersion r kidx vtag (inOrdinals img (at_ + 96) nf) with
  | none => none
  | some i =>
    let d := (s.version? r.obj kidx i).getD Version.blank
    let src := ((((s.kernel? r.obj kidx).map Kernel.versions).getD []).find? fun v => v.vtag == vtag).getD Version.blank
    let flags := rdImg img (at_ + 18) 1
    let stage := (r.stages.findIdx? fun t => t.kidx == kidx).getD 0
    let g0 := s.newGroup r kidx i stage w.id (rdImg img (at_ + 29) 1) w.core 0 0 w.id
    let es := (List.range nf).map fun j => inEntry d img (at_ + 96 + 32 * j)
    let g1 := es.foldl (fun (h : Group) p => h.setEntry p.1 p.2) { g0 with entries := Vector.replicate 72 Entry.free }
    let task : Option Task := if bitOf flags 0 then some { succ := rdImg img (at_ + 8) 8, argp := rdImg img (at_ + 80) 8 } else none
    let g2 : Group := { g1.settle 0 with phase := .saved, legacy := bitOf flags 3, task := task, frecp := BitVec.ofNat 64 (rdImg img (at_ + 72) 8),
                                         traparg := BitVec.ofNat 32 (rdImg img (at_ + 88) 4),
                                         pending := if bitOf flags 1 then some i else none }
    let vals := inValues img (at_ + 96 + 32 * nf) (rdImg img (at_ + 68) 4)
    let priv := rdImg img (at_ + 92) 4
    let s1 : State := { s with groups := s.groups ++ [g2], nextId := s.nextId + 1 }
    let s2 := s1.putN (privKey g2.id 0) ((img.drop vals.2).take priv)
    some (at_ + rdImg img at_ 4, s2.inPlace g2.id src d vals.1)

/-- Groups of one workgroup. -/
def State.inGroups (s : State) (r : Region) (w : Workgroup) (img : List Byte) : Nat → Nat → Option (Nat × State)
  | at_, 0 => some (at_, s)
  | at_, n + 1 =>
    match s.inGroup r w img at_ with
    | none => none
    | some p => p.2.inGroups r w img p.1 n

/-- Workgroups of an image become saved ones (R291, R323): GROUP_RESTORE places each on a core of its rank. -/
def State.inWgs (s : State) (img : List Byte) (ids : List Nat) : Nat → Nat → Except Nat State
  | _, 0 => .ok s
  | at_, n + 1 =>
    match (ids[rdImg img at_ 4]?).bind s.region? with
    | none => .error 0x01
    | some r =>
      let x := rdImg img (at_ + 4) 4
      let y := rdImg img (at_ + 8) 4
      let z := rdImg img (at_ + 12) 4
      let size := rdImg img (at_ + 24) 4
      let lin := if r.kind == 1 then x + r.gx * (y + r.gy * z) else 0
      let bits := (img.drop (at_ + 64 + size)).take (size / 512)
      let w : Workgroup := { id := s.nextId, ctx := r.ctx, region := r.id, lin := lin, x := x, y := y, z := z, member := rdImg img (at_ + 16) 1,
                             set := if r.kind == 1 then lin / r.cset else s.nextId, wgg := r.wgg, core := rdImg img (at_ + 18) 1 % 4,
                             spOff := rdImg img (at_ + 20) 4, spSize := size, order := s.nextId, phase := .saved,
                             image := (img.drop (at_ + 64)).take size,
                             poison := (List.range (size / 64)).filter fun l => bitOf ((bits[l / 8]?.getD 0).toNat) (l % 8),
                             bars := (List.range (size / 16)).map (· * 16), why := 0 }
      match ({ s with wgs := s.wgs ++ [w], nextId := s.nextId + 1 } : State).inGroups r w img (at_ + 64 + size + size / 512) (rdImg img (at_ + 17) 1) with
      | none => .error 0x04
      | some p => p.2.inWgs img ids p.1 n

/-- Transfers that were pending on the source (Table 19-9); versions have been chosen before them, by R21 and R55 (R291). A pipeline's
record has one VTAG for all its kernels: it is that of those of which the image holds a pending group (R288, R366, log 27). -/
def State.inXfers (s : State) (img : List Byte) (ids : List Nat) (at_ : Nat) : State :=
  ids.zipIdx.foldl (fun (s : State) q =>
    let vtag := rdImg img (at_ + 64 * q.2 + 32) 4
    match s.region? q.1 with
    | none => s
    | some r =>
      let ks := if r.kind == 2 then r.stages.map Stage.kidx else [r.kidx]
      if vtag == 0xFFFFFFFF then s
      else ks.foldl (fun (s : State) k =>
        match (((s.kernel? r.obj k).map Kernel.versions).getD []).findIdx? fun v => v.vtag == vtag with
        | some t =>
          let accepted := r.kind != 2 || s.groups.any fun g => g.ctx == r.ctx && g.obj == r.obj && g.kidx == k && g.pending.isSome
          if !accepted || s.xfers.any fun x => x.ctx == r.ctx && x.obj == r.obj && x.kidx == k then s
          else { s with xfers := { ctx := r.ctx, obj := r.obj, kidx := k, target := t, active := true, moved := 0, cmd := none } :: s.xfers }
        | none => s) s) s

/-- Groups with XFER set stay pending for the transfer of their kernel, unless R21 has chosen its target; a transfer for which none is
pending has ended; and each group's image is in the reserve (R286, R288). -/
def State.inPending (s : State) (c : Nat) : State :=
  let s1 := s.mapGroups fun g =>
    if g.ctx == c && g.pending.isSome then { g with pending := ((s.xferOf g).map Xfer.target).filter fun t => t != g.ver } else g
  let s2 := s1.xfers.foldl (fun (s : State) x => if x.active && x.ctx == c then s.xferDone x else s) s1
  (s2.groups.filter fun g => g.ctx == c).foldl (fun (s : State) g => s.reimage g.id) s2

/-- What an unsealed image makes of a context that is OPEN (R291): a reason, or the state. -/
def State.bringIn (s : State) (c : Nat) (img : List Byte) : Except Nat State :=
  match s.inObjects c img (rdImg img 80 8) (rdImg img 56 4) with
  | .error r => .error r
  | .ok (objs, s1) =>
    match s1.inRegions c img objs [] (rdImg img 88 8) (rdImg img 60 4) with
    | .error r => .error r
    | .ok (ids, s2) =>
      match (s2.inQueues img ids (rdImg img 96 8) (rdImg img 64 4)).inWgs img ids (rdImg img 104 8) (rdImg img 68 4) with
      | .error r => .error r
      | .ok s3 => .ok ((s3.inXfers img ids (rdImg img 88 8)).inPending c)

/-- MIGRATE_IN (R291, R292, R363). The ARG of its COMPLETED record is 0 (log 60). -/
def execMigrateIn (c : Nat) (s : State) : Host.Outcome State Fault Refusal :=
  deviceStep s fun s => s.runCmd c 8 fun k s =>
    let a := argOf k.bytes 24 8
    let n := argOf k.bytes 32 8
    if n == 0 || !s.hostAllowed c a n false then s.failCmd k 0x62
    else
      let img := s.peekN (hostKey a) n
      if !inHeaderOk img then s.failCmd k 0x01
      else
        let flags := rdImg img 24 1
        let s1 := s.openCtx c (argOf k.bytes 8 8) (argOf k.bytes 16 8) (bitOf flags 0) (defaultsOf ((img.drop 32).take 16))
        if bitOf flags 1 then (s1.modCtx c fun x => { x with sealed := some img }).completeCmd k 0
        else match s1.bringIn c img with
          | .error r => s.failCmd k r
          | .ok s2 => s2.completeCmd k 0

/-! ## Attestation -/

/-- The next command of a context when it is ATTEST with a MODE (R361). -/
def State.nextAttest (s : State) (c mode : Nat) : Bool := ((s.nextCmd c 10).map fun k => argOf k.bytes 24 1) == some mode

/-- Inserts a hash by its tag. -/
def insertByTag (o : Obj) : List Obj → List Obj
  | [] => [o]
  | p :: ps => if o.tag.toNat < p.tag.toNat then o :: p :: ps else p :: insertByTag o ps

/-- The attestation report (Table 26-4). -/
def State.report (s : State) (c : Nat) (nonce : List Byte) : List Byte :=
  let x := s.ctx c
  let os := (s.objsOf c).foldl (fun acc o => insertByTag o acc) []
  let fw := if s.fwRunning.isEmpty then Config.firstFirmware else s.fwRunning
  let fix (n : Nat) (bs : List Byte) : List Byte := (bs ++ List.replicate n 0).take n
  let body := pack [(4, 0x5241584B), (4, 0), (8, 232 + 64 * os.length + 64)] ++ fix 32 nonce ++
    pack [(8, s.boots), (4, c), (4, (if x.conf then 1 else 0) + (if x.key.isSome then 2 else 0))] ++ fix 64 Config.bootHash ++ sha512 fw ++
    (if x.conf then fix 32 (Config.contextKey x.xkey) else List.replicate 32 0) ++ bytesOf 8 os.length ++ os.flatMap fun o => fix 64 o.hash
  body ++ fix 64 (Config.sign body)

/-- ATTEST_REPORT (R361). The ARG of its COMPLETED record is 0 (log 60). -/
def execAttestReport (c : Nat) (s : State) : Host.Outcome State Fault Refusal :=
  deviceStep s fun s =>
    if !s.nextAttest c 0 then s
    else s.runCmd c 10 fun k s =>
      let r := s.report c ((k.bytes.drop 32).take 32)
      let a := argOf k.bytes 8 8
      if argOf k.bytes 16 8 < r.length || !s.hostAllowed c a r.length true then s.failCmd k 0x62
      else (s.hostWrite (hostKey a) r).completeCmd k 0

/-- A context whose sealed image does not open is destroyed as by CTX_DESTROY (R363). -/
def State.attestFail (s : State) (k : Cmd) (reason : Nat) : State := (s.failCmd k reason).destroyCtx k.ctx (2 ^ 64) 0x2E

/-- The image of a sealed context is opened with an installed key (R363). -/
def State.unseal (s : State) (k : Cmd) (key img : List Byte) : State :=
  let size := rdImg img 8 8
  match Config.unsealImage key ((img.drop 112).take 28) (sealAad img) ((img.take size).drop 256) with
  | none => s.attestFail k 0x65
  | some body =>
    match s.bringIn k.ctx (img.take 256 ++ body) with
    | .error r => s.attestFail k r
    | .ok s1 => s1.completeCmd k 0

/-- ATTEST_KEY_INSTALL (R362, R363). In a context that is being destroyed nothing is brought in (R34). -/
def execAttestKeyInstall (c : Nat) (s : State) : Host.Outcome State Fault Refusal :=
  deviceStep s fun s =>
    if !s.nextAttest c 1 then s
    else s.runCmd c 10 fun k s =>
      let x := s.ctx c
      let a := argOf k.bytes 8 8
      if !x.conf || x.key.isSome then s.failCmd k 0x64
      else if argOf k.bytes 16 8 < 124 || !s.hostAllowed c a 124 false then s.failCmd k 0x62
      else
        match Config.unwrapKey x.xkey (s.peekN (hostKey a) 124) with
        | none => s.failCmd k 0x63
        | some key =>
          let s1 := s.modCtx c fun y => { y with key := some key, sealed := none }
          match x.st, x.sealed with
          | .open_, some img => s1.unseal k key img
          | _, _ => s1.completeCmd k 0

end Sys2Proof.Machine
end

