-- ==== Sys2Proof/Machine/Power.lean ====
section
/-! DEFINITION. The power controller (R295 to R307, R347 to R349): samples, levels, tokens, allowance, telemetry, shedding and
restoring. What the controller measures is an operand of its step (log 16). -/
namespace Sys2Proof.Machine

/-- Changes the power registers. -/
def State.modPower (s : State) (f : Power → Power) : State := { s with power := f s.power }

/-! ## Levels -/

/-- The near-threshold part of a sample (R299): `hot` and NT from the sample and top. -/
def Island.sampled (i : Island) (stall top enter exit_ : Nat) : Island :=
  let hot := if i.nt || 12 < top || stall ≤ enter then 0 else i.hot + 1
  let nt := i.nt || hot == 3
  { i with stall := stall, hot := if !i.nt && hot == 3 then 0 else hot, nt := nt && !(stall < exit_ || 12 < top) }

/-- One sample of a core island (R298, R299): a and s as they were counted. -/
def State.sample (s : State) (isl : Nat) : State :=
  let a := (s.island isl).act
  let stall := if a == 0 then 0 else 256 * (s.island isl).stl / a
  (s.modIsland isl fun i =>
    { i.sampled stall (s.topLevel isl) s.power.ntenter s.power.exitThreshold with act := 0, stl := 0, sampAt := s.time }).retarget isl

/-- STALL_SAMPLE (R298): the n-th sample of a core of a cluster, one every 10 us. -/
def execStallSample (cl core n : Nat) (s : State) : Host.Outcome State Fault Refusal :=
  deviceStep s fun s =>
    if core < 4 && s.time == 10000 * n && (s.island (5 * cl + core)).sampAt < s.time then s.sample (5 * cl + core) else s

/-- LEVEL_CHANGE_COMPLETE (R296, R348): once the supply has moved and the clock has locked; a change that is due as time passes ends
then (`Island.pass`). -/
def execLevelChangeComplete (isl : Nat) (s : State) : Host.Outcome State Fault Refusal :=
  deviceStep s fun s => s.modIsland isl fun i => if i.due isl s.time then i.finish s.time else i

/-- Islands whose requests a change of tokens may touch are computed again (R299). -/
def State.retargetAll (s : State) : State :=
  ((s.power.reqs.map fun r => r.2.1).eraseDups).foldl (fun (s : State) n => s.retarget n) s

/-! ## Boost tokens -/

/-- Summed WEIGHT of a context's running root regions (R301). -/
def State.weightOf (s : State) (c : Nat) : Nat :=
  (s.regions.filter fun r => r.ctx == c && r.root && r.rstate == 1).foldl (fun (n : Nat) r => n + r.eff.weight) 0

/-- A refill (R301), for a mean module power in microwatts: at most ten times the latest share is kept. -/
def State.refill (s : State) (power : Nat) : State :=
  let pool := (1500000000 - power) / 100000
  let total := (List.range 64).foldl (fun (n : Nat) c => n + s.weightOf c) 0
  let give (p : Context × Nat) : Context :=
    let share := pool * s.weightOf p.2 / max 1 total
    { p.1 with share := share, tokens := min (p.1.tokens + share) (10 * share) }
  (({ s with ctxs := s.ctxs.zipIdx.map give } : State).modPower fun p => { p with refilled := s.time }).retargetAll

/-- BOOST_REFILL (R301): once every 10 us, from the mean module power. -/
def execBoostRefill (power : Nat) (s : State) : Host.Outcome State Fault Refusal :=
  deviceStep s fun s => if s.time % 10000 == 0 && s.power.refilled < s.time then s.refill power else s

/-- The context that pays for a core island (R301): the one whose request has set TARGET. -/
def State.payer (s : State) (isl : Nat) : Option Nat := (s.island isl).setBy

/-- The context that pays for a cluster's engine island (R301). -/
def State.enginePayer (s : State) (cl : Nat) : Option Nat :=
  let isls := [0, 1, 2, 3].map fun k => 5 * cl + k
  let t := isls.foldl (fun (m : Nat) n => max m (s.island n).target) 0
  ((isls.filter fun n => (s.island n).target == t).filterMap s.payer).foldl (fun (b : Option Nat) c => match b with
    | none => some c
    | some d => some (min c d)) none

/-- What each context pays in one microsecond. -/
def State.charges (s : State) : List (Nat × Nat) :=
  (List.range 480).filterMap fun n =>
    let l := (s.island n).level
    if l ≤ 12 then none
    else (if n % 5 == 4 then s.enginePayer (n / 5) else s.payer n).map fun c => (c, l - 12)

/-- One microsecond of boosted islands is paid (R301); a context without tokens falls back to 12. -/
def State.charge (s : State) : State :=
  let s1 := s.charges.foldl (fun (s : State) p => s.modCtx p.1 fun x => { x with tokens := x.tokens - p.2 }) s
  (s1.modPower fun p => { p with charged := s.time }).retargetAll

/-- BOOST_TOKEN_CHARGE (R301): once every microsecond. -/
def execBoostTokenCharge (s : State) : Host.Outcome State Fault Refusal :=
  deviceStep s fun s => if s.time % 1000 == 0 && s.power.charged < s.time then s.charge else s

/-! ## Allowance -/

/-- W moves by one (R302). -/
def Cluster.decide (k : Cluster) : Cluster :=
  { k with w := if k.credit < 0 then min 8 (k.w + 1) else if 4194304 ≤ k.credit then k.w - 1 else k.w }

/-- Windows of 64 cluster cycles, at 2.1 GHz, that end by a moment (R302). -/
def clusterWindows (now : Nat) : Nat := now * 21 / 640

/-- The decision of window `n` on a cluster, once that window has ended and if no later one has been decided. -/
def Cluster.window (now n : Nat) (k : Cluster) : Cluster :=
  if k.windows < n && n ≤ clusterWindows now then { k.decide with windows := n } else k

/-- WITHHOLD_LEVEL_UPDATE (R302): once in 64 cluster cycles, at the end of a cluster's n-th window. -/
def execWithholdLevelUpdate (cl n : Nat) (s : State) : Host.Outcome State Fault Refusal :=
  deviceStep s fun s => s.modPower fun p => { p with clu := p.clu.modify cl (Cluster.window s.time n) }

/-- RATE of every cluster: FRAC * TF / 256, rounded down (R302, R306, log 49). -/
def Power.rates (p : Power) : Power :=
  { p with clu := p.clu.zipIdx.map fun k => { k.1 with rate := p.frac * thermal (p.temp[k.2 / 24]?.getD 25000) / 2560000 } }

/-- JUNCTION_TEMPERATURE_CHANGE (R302): the temperature in thousandths of a degree. -/
def execJunctionTemperatureChange (die t : Nat) (s : State) : Host.Outcome State Fault Refusal :=
  deviceStep s fun s => s.modPower fun p => ({ p with temp := p.temp.set die t } : Power).rates

/-! ## Telemetry -/

/-- The fields of a curve point (Table 20-4). -/
structure CurvePoint where
  en : Bool
  vmin : Nat
  fdev : Nat
  shed : Nat
  frac : Nat
  deriving DecidableEq, Repr

/-- A point from its register. -/
def curvePoint (w : Nat) : CurvePoint :=
  { en := bitOf w 48, vmin := bitsOf w 47 28, fdev := bitsOf w 27 12, shed := min 8 (bitsOf w 11 8), frac := bitsOf w 7 0 }

/-- Whether an enabled point matches a frame (R304, R305). -/
def CurvePoint.matches (q : CurvePoint) (nomf freq vbus : Nat) : Bool :=
  q.en && ((q.vmin != 0 && (vbus ≤ q.vmin || q.vmin == 0xFFFFF)) || (q.fdev != 0 && q.fdev ≤ nomf - freq))

/-- The applied point of a frame (R305): number, FRAC, SHED; 8, 256, 0 for none. -/
def Power.applied (p : Power) (freq vbus : Nat) : Nat × Nat × Nat :=
  (List.range 8).foldl (fun (b : Nat × Nat × Nat) n =>
    let q := curvePoint (p.curve[n]?.getD 0)
    if q.matches p.nomf freq vbus && q.frac < b.2.1 then (n, q.frac, q.shed) else b) (8, 256, 0)

/-- Whether a frame's CRC matches (R303). -/
def frameCrc (v : Nat) : Bool := crc16 [bitsOf v 63 56, bitsOf v 55 48, bitsOf v 47 40, bitsOf v 39 32, bitsOf v 31 24, bitsOf v 23 16] == bitsOf v 15 0

/-- A valid frame is applied at a time (R303, R305 to R307). -/
def Power.frame (p : Power) (v now : Nat) : Power :=
  let seq := bitsOf v 23 16
  let gap := p.frameAt.isSome && seq != (bitsOf p.telem 23 16 + 1) % 256
  let a := p.applied (bitsOf v 63 44) (bitsOf v 43 24)
  let restart := p.shedlvl ≤ a.2.2 || p.shedlvl ≤ p.shedreq
  ({ p with telem := v, frameAt := some now, gaps := if gap then min 65535 (p.gaps + 1) else p.gaps, tloss := false, point := a.1,
            frac := a.2.1, shedreq := a.2.2, holdFrom := if restart then now else p.holdFrom } : Power).rates

/-- TELEMETRY_FRAME (R303). -/
def execTelemetryFrame (v : Nat) (s : State) : Host.Outcome State Fault Refusal :=
  deviceStep s fun s => s.modPower fun p =>
    if !frameCrc v then { p with crcerr := min 65535 (p.crcerr + 1) }
    else if p.frameAt.isSome && bitsOf v 23 16 == bitsOf p.telem 23 16 then p
    else p.frame v s.time

/-- TELEMETRY_LOSS (R305). -/
def execTelemetryLoss (s : State) : Host.Outcome State Fault Refusal :=
  deviceStep s fun s => s.modPower fun p =>
    match p.frameAt with
    | some t => if !p.tloss && t + 100000 ≤ s.time then ({ p with tloss := true, frac := p.tlfrac } : Power).rates else p
    | none => p

/-! ## Shedding -/

/-- Whether a group stands at a barrier boundary (R266): one of its fragments is parked before its `wgsync` or `qpop`. -/
def Group.atBoundary (g : Group) : Bool :=
  g.fragments.any fun e => match (g.entry e).st, (g.entry e).park with
    | .parked, .wgsync => true
    | .parked, .qpop .. => true
    | _, _ => false

/-- The lowest class that is not shed is shed (R306). -/
def State.shedNext (s : State) : State :=
  let c := s.power.shedlvl
  let s1 := s.modPower fun p => { p with shedlvl := c + 1, shedAt := (c, s.time) :: p.shedAt.filter fun q => q.1 != c }
  (s1.event 0x85 0xFF 0 c).mapGroups fun g =>
    if s.prioOf g == c && g.phase == .resident && g.atBoundary then { g with stopped := true } else g

/-- SHED_CLASS (R306). -/
def execShedClass (s : State) : Host.Outcome State Fault Refusal :=
  deviceStep s fun s => if !s.power.tloss && s.power.shedlvl < s.power.shedreq then s.shedNext else s

/-- Whether a class was shed 200 us ago or earlier (R306). -/
def State.shedLong (s : State) (c : Nat) : Bool :=
  s.isShed c && s.power.shedAt.any fun q => q.1 == c && q.2 + 200000 ≤ s.time

/-- SHED_PREEMPT_TIMEOUT (R306, R284): every workgroup of such a class is pre-empted; one whose image does not fit stays
resident and issues nothing. -/
def execShedPreemptTimeout (s : State) : Host.Outcome State Fault Refusal :=
  deviceStep s fun s =>
    let late := s.wgs.filter fun w => w.phase == .placed && s.shedLong (s.wgPrio w)
    late.foldl (fun (s : State) w =>
      match s.wg? w.id with
      | none => s
      | some x =>
        if x.phase != .placed then s
        else if s.imageFits x then s.beginSave (s.setOf x) 1
        else s.mapGroups fun g => if g.wg == x.id && g.phase == .resident then { g with stopped := true } else g) s

/-- The highest shed class is restored (R307): its resident groups issue again, its pipelines' times go on (R65, R67), and
queued notifications are delivered (R309). -/
def State.restoreClass (s : State) : State :=
  let c := s.power.shedlvl - 1
  let was := ((s.power.shedAt.find? fun q => q.1 == c).map Prod.snd).getD s.time
  let s1 := s.modPower fun p => { p with shedlvl := c, holdFrom := s.time, shedAt := p.shedAt.filter fun q => q.1 != c }
  let s2 := (s1.event 0x86 0xFF 0 c).mapGroups fun g =>
    if s.prioOf g == c && g.phase == .resident && !(s.wgs.any fun w => w.id == g.wg && w.phase == .saving) &&
      ((s.ctx g.ctx).st == .open_ || (s.ctx g.ctx).migrating.isSome) then { g with stopped := false } else g
  let later (r : Region) : Region :=
    if r.eff.prio == c then { r with startedAt := s.time, blockedAt := r.blockedAt.map fun t => t + (s.time - was) } else r
  ({ s2 with regions := s2.regions.map later } : State).deliverClass c

/-- CLASS_RESTORE (R307). -/
def execClassRestore (s : State) : Host.Outcome State Fault Refusal :=
  deviceStep s fun s =>
    let p := s.power
    if !p.tloss && 0 < p.shedlvl && p.shedreq < p.shedlvl && p.holdFrom + 1000 * p.resthold ≤ s.time then s.restoreClass else s

end Sys2Proof.Machine
end

