-- ==== Sys2Proof/Machine/Registers.lean ====
section
/-! DEFINITION. What the host does to the device besides commands: writes of window A (R35, Tables 03-2, 11-5, 20-2, 20-4, 21-1,
26-1, 26-2), its reads with an effect, window B, the AtomicOps completer (R352), translation invalidation (R183) and ECC errors
(R364). -/
namespace Sys2Proof.Machine

/-- Writes one byte of an intake slot (R35, R36). -/
def State.writeIntake (s : State) (off : Nat) (b : Byte) : State :=
  { s with intake := s.intake.modify (off / 64) fun l => l.set (off % 64) b }

/-- Writes bytes from an offset of the intake area on. -/
def State.writeSlots (s : State) (off : Nat) : List Byte → State
  | [] => s
  | b :: bs => (s.writeIntake off b).writeSlots (off + 1) bs

/-- A write of TRC (Table 21-1); setting EN starts the counts again. -/
def Observe.writeTrc (o : Observe) (v : Nat) : Observe :=
  let o1 := { o with trcCtx := bitsOf v 63 58, blmin := bitsOf v 39 24, tlog := bitsOf v 7 2, trcEn := bitOf v 0 }
  if !o.trcEn && bitOf v 0 then { o1 with twr := 0, trd := 0, dropped := 0, streams := [], stalls := [] } else o1

/-- A write of SAMP (Table 21-1); DUMP is a step of its own, taken here too. -/
def State.writeSamp (s : State) (v : Nat) : State :=
  let s1 : State := { s with obs := { s.obs with sampCtx := bitsOf v 63 58, sampPeriod := bitsOf v 11 8, sampEn := bitOf v 0 } }
  if bitOf v 1 then s1.dumpBins else s1

/-- A write of PCTL (Table 20-4). -/
def Power.writePctl (p : Power) (v : Nat) : Power :=
  { p with nomf := bitsOf v 63 44, resthold := max 1 (bitsOf v 43 28), ntenter := bitsOf v 27 19, ntexit := bitsOf v 18 10,
           tlfrac := bitsOf v 9 2 }

/-- The bits of CURVE n that are kept (Table 20-4): SHED 9 to 15 read as 8. -/
def curveWord (v : Nat) : Nat :=
  (if bitOf v 48 then 2 ^ 48 else 0) + bitsOf v 47 12 * 4096 + min 8 (bitsOf v 11 8) * 256 + bitsOf v 7 0

/-- A write of a host window register (Table 26-2). -/
def hostWindow (p : Nat × Nat) (last : Bool) (v : Nat) : Nat × Nat :=
  if last then (p.1, bitsOf v 63 12 * 4096) else (bitsOf v 63 12 * 4096 + bitsOf v 1 0, p.2)

/-- A write of an 8-byte register of window A that has no step of its own; other offsets are ignored (R35). -/
def State.writeReg (s : State) (off v : Nat) : State :=
  if off == 0x408 then s.modPower fun p => p.writePctl v
  else if 0x440 ≤ off && off < 0x480 then s.modPower fun p => { p with curve := p.curve.set ((off - 0x440) / 8) (curveWord v) }
  else if 0x500 ≤ off && off < 0x708 then
    { s with intmap := s.intmap.set ((off - 0x500) / 8) ((if bitOf v 8 then 256 else 0) + bitsOf v 5 0) }
  else if 0x800 ≤ off && off < 0x1000 then
    { s with hostwin := s.hostwin.modify ((off - 0x800) / 16) fun p => hostWindow p (off % 16 == 8) v }
  else if 0x1000 ≤ off && off < 0x1000 + 8 * 480 then s.modIsland ((off - 0x1000) / 8) fun i => { i with vfloor := bitsOf v 47 40 }
  else if off == 0x4600 then s.writeSamp v
  else if off == 0x4608 then { s with obs := { s.obs with sbuf := v } }
  else if off == 0x4700 then { s with obs := s.obs.writeTrc v }
  else if off == 0x4708 then { s with obs := { s.obs with tbase := v } }
  else if off == 0x5108 then (if bitsOf v 15 0 == 0 then s else { s with lto := bitsOf v 15 0 })
  else s

/-- REGISTER_WRITE (R35): 8 bytes, aligned, but any width into the intake slots. -/
def execRegisterWrite (off : Nat) (data : List Byte) (s : State) : Host.Outcome State Fault Refusal :=
  deviceStep s fun s =>
    if 0x10000 ≤ off && off + data.length ≤ 0x14000 then s.writeSlots (off - 0x10000) data
    else if data.length == 8 && off % 8 == 0 then s.writeReg off (ofBytes data)
    else s

/-! ## Reads with an effect -/

/-- PSTAT as it reads (Table 20-4). -/
def Power.pstat (p : Power) : Nat :=
  p.crcerr * 2 ^ 32 + p.gaps * 2 ^ 16 + (if p.tloss then 4096 else 0) + p.point * 256 + p.shedlvl * 16 + p.shedreq

/-- PSTAT_READ (Table 20-4): CRCERR and GAPS are cleared. -/
def execPstatRead (s : State) : Host.Outcome State Fault Refusal :=
  deviceStep s fun s => ({ s with reply := some (.value s.power.pstat) } : State).modPower fun p => { p with crcerr := 0, gaps := 0 }

/-- ERRS_READ (R364): both fields are cleared. -/
def execErrsRead (s : State) : Host.Outcome State Fault Refusal :=
  deviceStep s fun s => { s with reply := some (.value (s.errsCor * 2 ^ 32 + s.errsUnc)), errsCor := 0, errsUnc := 0 }

/-! ## Window B -/

/-- Whether a window B request touches only installed memory (R352). -/
def inMemory (a n : Nat) : Bool := a + n ≤ Config.memTop

/-- HOST_WINDOW_B_READ (R352, R252). -/
def execHostWindowBRead (a n : Nat) (s : State) : Host.Outcome State Fault Refusal :=
  deviceStep s fun s =>
    if !inMemory a n then { s with reply := some .unsupported }
    else if 0 < n && s.memPoisoned a n then { s with reply := some (.poisoned (poisonedTlp n)) }
    else { s with reply := some (.data (s.peekN a n)) }

/-- HOST_WINDOW_B_WRITE (R352, R364). -/
def execHostWindowBWrite (a : Nat) (data : List Byte) (poison : Bool) (s : State) : Host.Outcome State Fault Refusal :=
  deviceStep s fun s =>
    if data.isEmpty then s
    else if !inMemory a data.length then { s with reply := some .unsupported }
    else (s.hostWrite a data).hostMarks a data.length poison

/-- The new value of a PCIe atomic request: the operand added, stored, or stored where the old value equals the first operand
(R352). -/
def hostAtomicValue (k : HostAtomic) (n old x y : Nat) : Nat :=
  match k with
  | .fetchAdd => (old + x) % 2 ^ (8 * n)
  | .swap => x % 2 ^ (8 * n)
  | .cas => if old == x % 2 ^ (8 * n) then y % 2 ^ (8 * n) else old

/-- HOST_ATOMIC_REQUEST (R352): 32 or 64 bits, naturally aligned. -/
def execHostAtomicRequest (k : HostAtomic) (a n : Nat) (x y : Nat) (s : State) : Host.Outcome State Fault Refusal :=
  deviceStep s fun s =>
    if !(n == 4 || n == 8) || a % n != 0 then s
    else if !inMemory a n then { s with reply := some .unsupported }
    else if s.memPoisoned a n then { s with reply := some (.poisoned (poisonedTlp n)) }
    else
      let r := s.homeRmw a n fun old => hostAtomicValue k n old x y
      { r.2 with reply := some (.value r.1) }

/-! ## Translation invalidation -/

/-- The range of an XINV request (Table 11-5): context, base and size; the whole context for ISIZE 15. Model choice (log 9): a VA that
is not aligned to the range's size is rounded down to it. -/
def xinvRange (v : Nat) : Nat × Nat × Nat :=
  let z := bitsOf v 55 52
  if z == 15 then (bitsOf v 63 58, 0, 2 ^ 52)
  else
    let n := 4096 * 4 ^ z
    (bitsOf v 63 58, bitsOf v 51 12 * 4096 / n * n, n)

/-- XINV_WRITE (R183): ISIZE 10 to 14 is ignored. -/
def execXinvWrite (v : Nat) (s : State) : Host.Outcome State Fault Refusal :=
  deviceStep s fun s => if 10 ≤ bitsOf v 55 52 && bitsOf v 55 52 ≤ 14 then s else { s with xinvq := s.xinvq ++ [v] }

/-- Whether an access that used a translation of a range has still to perform (R183). -/
def State.xinvWaits (s : State) (c base n : Nat) : Bool :=
  s.ops.any fun o => o.ctx == c && o.kind.isAccess && o.accs.any fun a => a.st == .pending && ptrTag a.addr == 0 && base < a.addr + o.size &&
    a.addr < base + n

/-- The oldest request completes once no access that used a translation of its range has still to perform: its translations
are removed and XDONE counts it (R183). -/
def State.finishXinv (s : State) (rest : List Nat) (c base n : Nat) : State :=
  if s.xinvWaits c base n then s
  else { s with xinvq := rest, xdone := s.xdone + 1,
                tlb := s.tlb.filter fun t => !(t.ctx == c && base < t.va + t.size && t.va < base + n) }

/-- XINV_COMPLETE (R183): the oldest request. -/
def execXinvComplete (s : State) : Host.Outcome State Fault Refusal :=
  deviceStep s fun s =>
    match s.xinvq with
    | [] => s
    | v :: rest => s.finishXinv rest (xinvRange v).1 (xinvRange v).2.1 (xinvRange v).2.2

/-! ## Errors -/

/-- An error is counted in ERRS (R364). -/
def State.countError (s : State) (corrected : Bool) : State :=
  if corrected then { s with errsCor := min 0xFFFFFFFF (s.errsCor + 1) } else { s with errsUnc := min 0xFFFFFFFF (s.errsUnc + 1) }

/-- A register by its file and number. -/
def regNameOf (file n : Nat) : RegName :=
  match file with
  | 0 => .v (n % 128)
  | 1 => .s (n % 64)
  | 2 => .t (n % 16)
  | _ => .m (n % 16)

/-- An error of a group that a unit of it has still to raise (R364). -/
def State.softAt (s : State) (g : Nat) (w : SoftPlace) : State :=
  (s.modGroup g fun h => { h with softErr := w :: h.softErr.filter (· != w) }).countError false

/-- SOFT_ERROR (R364): corrected, or the line is poisoned, or the group raises POISON at the next unit that reads it. -/
def execSoftError (w : SoftError) (s : State) : Host.Outcome State Fault Refusal :=
  deviceStep s fun s =>
    match w with
    | .corrected => s.countError true
    | .memory pa => if inMemory pa 1 then (s.poisonMem (pa / 64)).countError false else s
    | .scratchpad core line => if core < 384 && line < 8192 then (s.poisonSpad (core * 8192 + line)).countError false else s
    | .queue r q k =>
      if ((s.region? r).map fun x => decide (k < (x.queue q).length)).getD false
      then (s.modRegion r fun x => { x with qbad := (q, k) :: x.qbad.filter (· != (q, k)) }).countError false else s
    | .register g file n => s.softAt g (.reg (regNameOf file n))
    | .entry g e => s.softAt g (.entry e)

end Sys2Proof.Machine
end

