-- ==== Sys2Proof/Machine/Sync.lean ====
section
/-! DEFINITION. Synchronisation and task instructions (R253 to R269) and the steps that wake what they park (R58, R62). -/
namespace Sys2Proof.Machine

/-! ## Waits and fences -/

/-- Whether a `wait` must hold its fragment (R254): a field of all ones names no class. -/
def waitHolds (g : Group) (f : WF) : Bool :=
  (f.ld.toNat != 63 && f.ld.toNat < g.ld) || (f.st.toNat != 31 && f.st.toNat < g.st) || (f.cp.toNat != 127 && f.cp.toNat < g.cp) ||
    (f.mx.toNat != 15 && f.mx.toNat < g.mx)

/-- The `mma`s that a `wait` with mx = n matches (R230): every one but the last `n` issued. -/
def Group.matchMmas (g : Group) (n : Nat) : Group :=
  let open_ := g.mmas.filter fun m => !m.matched
  let now := open_.take (open_.length - n)
  { g with mmas := g.mmas.map fun m => if now.contains m then { m with matched := true } else m }

/-- Poison of counted `mma`s reaches a fragment that holds one of their lanes (R195). -/
def MmaRec.hits (m : MmaRec) (lanes : Word) : Bool := m.counted && m.poisoned && (m.lanes &&& lanes) != 0

/-- The records that remain after a `wait` naming mx by lanes: consumed poison is cleared, answered records go. -/
def Group.afterWait (g : Group) (lanes : Word) : Group :=
  let cleared := g.mmas.map fun m => if m.hits lanes then { m with poisoned := false } else m
  { g with mmas := cleared.filter fun m => !m.matched || m.poisoned }

/-- WAIT (R254, R255, R195). -/
def execWait (m : Mods) (f : WF) (s : State) : Host.Outcome State Fault Refusal :=
  issue (.wait m f) s fun u s =>
    if waitHolds u.g f then .hold false
    else if f.mx.toNat == 15 then .ok s
    else
      let s1 := u.upd s fun g => (g.matchMmas f.mx.toNat).afterWait u.x.mask
      if u.g.mmas.any fun r => r.hits u.x.mask then .trap (Trap.at_ trapPoison u.x.pc) s1 s else .ok s1

/-- WGSYNC (R256, R266): a release of workgroup scope, then the fragment parks. -/
def execWgsync (m : Mods) (f : RF) (s : State) : Host.Outcome State Fault Refusal :=
  issue (.wgsync m f) s fun u s =>
    if s.isShed (s.prioOf u.g) then .hold true
    else if u.unreleased s 2 then .hold false
    else .post ((u.parked (s.release u.g.core 2) .wgsync).wgsyncDone u.g.wg)

/-- FENCE (R258): ORD 00 acts as 11. -/
def execFence (m : Mods) (f : RF) (s : State) : Host.Outcome State Fault Refusal :=
  issue (.fence m f) s fun u s =>
    let sc := u.m.modx.scope.toNat
    let both := u.m.modx.ord.toNat == 0
    if (if both || u.isRel then u.unreleased s sc else u.unperformed s) then .hold false
    else
      let s1 := if both || u.isRel then s.release u.g.core sc else s
      .ok (if both || u.isAcq then s1.acquireFree u.g.core [] else s1)

/-- SLEEP (R269): a fragment parks for n times 64 ns; `sleep 0` only ends the greedy run. -/
def execSleep (m : Mods) (f : IF) (s : State) : Host.Outcome State Fault Refusal :=
  issue (.sleep m f) s fun u s =>
    if f.imm.toNat == 0 then .ok s else .ok (u.parked s (.sleep (s.time + 64 * f.imm.toNat)))

/-- SLEEP_EXPIRY (R269): every fragment whose time has come. -/
def execSleepExpiry (s : State) : Host.Outcome State Fault Refusal :=
  deviceStep s fun s => s.mapGroups fun g =>
    g.fragments.foldl (fun (h : Group) e =>
      match (h.entry e).st, (h.entry e).park with
      | .parked, .sleep t =>
        if t ≤ s.time && h.phase == .resident then h.wake e fun y => { y with pc := y.next, seenB := false, seenT := false, seenO := false } else h
      | _, _ => h) g

/-! ## Task records -/

/-- Whether a group access that performs at once must wait: in scratchpad for a Sideboard entry or another core's earlier access
(R191), in context-private memory for a copy of the group (R238). -/
def State.sbHolds (s : State) (g : Group) (p n : Nat) (write : Bool) : Bool :=
  match accSpan g.core n p with
  | some x => s.sbBlocks x.1 x.2.1 x.2.2 write s.nextId || s.spadPending x.1 g.core x.2.1 x.2.2 write s.nextId
  | none => ptrTag p == 2 && s.privCopies g.id (p % 2 ^ 52) (p % 2 ^ 52 + n) write s.nextId

/-- Steps 1 to 4 of R198 for a record's pointer, in space 0x0, 0x1 or 0x2 (R260). -/
def State.recordCheck (s : State) (g : Group) (p n : Nat) : Except Nat Unit :=
  if 2 < ptrTag p then .error causeSpace
  else
    match s.resolve g p n 64 false with
    | .error c => if c == causePoison then .ok () else .error c
    | .ok _ => .ok ()

/-- `n` bytes read as a plain load of the group's core, or a cause (R260, R263, R268). A peer's bytes are free, and, by free choices,
the access fails or meets the poison marker (R357, R364, log 15). -/
def State.readPlain (s : State) (g : Group) (p n align : Nat) : Except Nat (List Byte × State) :=
  match s.resolve g p n align false with
  | .error c => .error c
  | .ok t =>
    let s0 := s.resolved g p
    if s0.tgtPoisoned g.core t n then .error causePoison
    else
      match t.readKey g.core with
      | none =>
        if s0.peerFails t then .error causeRemote
        else if Config.freeBit (s0.free + 1) then .error causePoison
        else .ok ((List.range n).map fun i => Config.freeByte (s0.free + i), { s0 with free := s0.free + n + 2 })
      | some _ => .ok (s0.readTgt g.core t n)

/-- A record of 64 bytes (R260). -/
def State.readRecord (s : State) (g : Group) (p : Nat) : Except Nat (List Byte × State) :=
  if 2 < ptrTag p then .error causeSpace else s.readPlain g p 64 64

/-- Enters a record at a queue's tail. -/
def State.enterQueue (s : State) (rid q : Nat) (bs : List Byte) : State :=
  s.modRegion rid fun r => { r with queues := r.queues.modify q fun l => l ++ [bs] }

/-- Queue and order of a parked push. -/
def Park.push? : Park → Option (Nat × Nat)
  | .qpush q _ o => some (q, o)
  | .tdone q o _ => some (q, o)
  | _ => Option.none

/-- Order of a parked `qpop`. -/
def Park.pop? : Park → Option Nat
  | .qpop _ _ o => some o
  | _ => Option.none

/-- The parked fragments of a region's resident groups that satisfy a test, with their orders: (order, group, entry). -/
def State.parkedOf (s : State) (rid : Nat) (p : Group → Park → Option Nat) : List (Nat × Nat × Nat) :=
  (s.groups.filter fun g => g.region == rid && g.phase == .resident).flatMap fun g =>
    g.fragments.filterMap fun e =>
      if (g.entry e).st == .parked then (p g (g.entry e).park).map fun o => (o, g.id, e) else none

/-- The parked pushes into a queue. -/
def State.pushers (s : State) (rid q : Nat) : List (Nat × Nat × Nat) :=
  s.parkedOf rid fun _ p => p.push?.bind fun x => if x.1 == q then some x.2 else none

/-- The parked pops of a queue whose groups may go on. -/
def State.poppers (s : State) (rid q : Nat) : List (Nat × Nat × Nat) :=
  s.parkedOf rid fun g p => if g.stage == q && !g.stopped then p.pop? else none

/-- The oldest of some. -/
def oldestParked : List (Nat × Nat × Nat) → Option (Nat × Nat × Nat)
  | [] => none
  | x :: xs => some (xs.foldl (fun b y => if y.1 < b.1 then y else b) x)

/-- Whether the Dresser moves a group's core away from its stage (R66). -/
def Region.moving (r : Region) (g : Group) : Bool := r.moves.any fun m => m.groups.contains g.id

/-! ## Pushing -/

/-- The queue number that a `qpush` names (R260). -/
def Frag.queueNo (u : Frag) (f : RF) : Nat := if f.k == 1 then (u.g.getS f.c.toNat).toNat else f.c.toNat

/-- QPUSH (R259, R260). -/
def execQpush (m : Mods) (f : RF) (s : State) : Host.Outcome State Fault Refusal :=
  issue (.qpush m f) s fun u s =>
    let q := u.queueNo f
    let p := u.g.ptr f.b.toNat
    match s.region? u.g.region with
    | none => u.raise s trapQueue
    | some r =>
      if r.kind == 1 || r.stages.length ≤ q then u.raise s trapQueue
      else
        match s.recordCheck u.g p 64 with
        | .error c => u.fault s c p
        | .ok _ =>
          if u.unreleased s 0 || s.sbHolds u.g p 64 false then .hold false
          else if r.room q && (s.pushers r.id q).isEmpty then
            (match (s.release u.g.core 0).readRecord u.g p with
            | .error c => u.fault { s with free := s.free + 2 } c p
            | .ok b => .post (b.2.enterQueue r.id q b.1))
          else .post (u.parked { s with nextId := s.nextId + 1 } (.qpush q p s.nextId))

/-- A woken fragment raises a trap at the unit before which it was parked. -/
def State.wakeRaise (s : State) (gid e : Nat) (t : Trap) : State :=
  let s1 := s.modGroup gid fun g => g.wake e fun y => y
  s1.raise s1 gid e t

/-- A woken fragment goes on at the unit after the one that parked it. -/
def State.wakeNext (s : State) (gid e : Nat) : State := s.modGroup gid fun g => g.wake e fun y => { y with pc := y.next, seenB := false, seenT := false, seenO := false }

/-- An ACCESS_FAULT of a uniform access against the lowest lane of entry `e` (R199). -/
def Group.accessTrap (g : Group) (e cause addr : Nat) : Trap :=
  let l := lowLane (g.entry e).mask
  { Trap.at_ trapAccess (g.entry e).pc with fmask := maskOf (· == l), addr := addr,
                                            notes := [{ lane := l, addr := addr, cause := cause, src := false }] }

/-- A task ends (R263). -/
def State.endTask (s : State) (gid : Nat) : State := s.modGroup gid fun g => { g with task := none }

/-- A group of a shed class stops just after a `tdone` completes (R266). -/
def State.stopIfShed (s : State) (gid : Nat) : State :=
  match s.group? gid with
  | some g => s.stopGroup gid (s.isShed (s.prioOf g))
  | none => s

/-- The oldest parked push of a queue completes (R62, R260, R263). -/
def State.completePush (s : State) (r : Region) (q : Nat) : State :=
  match oldestParked (s.pushers r.id q) with
  | none => s
  | some (_, gid, e) =>
    match s.group? gid with
    | none => s
    | some g =>
      match (g.entry e).park with
      | .qpush _ p _ =>
        if s.sbHolds g p 64 false then s
        else
          (match (s.release g.core 0).readRecord g p with
          | .error c => { s with free := s.free + 2 }.wakeRaise gid e (g.accessTrap e c p)
          | .ok b => (b.2.enterQueue r.id q b.1).wakeNext gid e)
      | .tdone _ _ bs => ((((s.release g.core 0).enterQueue r.id q bs).endTask gid).acquireFree g.core [] |>.wakeNext gid e).stopIfShed gid
      | _ => s

/-- QPUSH_COMPLETE (R62). -/
def execQpushComplete (r q : Nat) (s : State) : Host.Outcome State Fault Refusal :=
  deviceStep s fun s =>
    match s.region? r with
    | some x => if x.rstate == 1 && x.room q then s.completePush x q else s
    | none => s

/-! ## Popping -/

/-- Where a `qpop` writes (R261): 64 bytes in space 0x1 or 0x2, held, 64-byte aligned. -/
def State.popTgt (s : State) (g : Group) (p : Nat) : Except Nat Tgt :=
  if ptrTag p == 1 || ptrTag p == 2 then s.resolve g p 64 64 true else .error causeSpace

/-- ENTRY of a record that may be run: the stage table's code offset (R60, R261, R280). -/
def State.taskEntry (s : State) (g : Group) (bs : List Byte) : Option Nat :=
  let n := ofBytes ((bs.drop 2).take 2)
  if (bs.headD 0).toNat == 1 && n < 0xFFFE then s.stageEntry g n else none

/-- The task that a record describes (Table 04-5). -/
def taskOf (bs : List Byte) : Task := { succ := ofBytes ((bs.drop 24).take 8), argp := ofBytes ((bs.drop 16).take 8) }

/-- The cores whose commits have reached a group that pops a record (R246, log 7): those that its region has run on, and its cluster's. -/
def State.queueCores (s : State) (g : Group) : List Nat := (((s.region? g.region).map Region.ran).getD []) ++ clusterCores g.core

/-- The record at a queue's head leaves it. -/
def State.dropHead (s : State) (rid q : Nat) : State :=
  s.modRegion rid fun r => { r with queues := r.queues.modify q fun l => l.drop 1
                                    qbad := r.qbad.filterMap fun x => if x.1 != q then some x else if x.2 == 0 then none else some (q, x.2 - 1) }

/-- A record is taken by a group: written, held, S[a] = 1, acquire (R261). -/
def State.takeRecord (s : State) (g : Group) (q reg : Nat) (t : Tgt) (bs : List Byte) : State :=
  let s1 := s.dropHead g.region q
  let s2 := (s1.writeTgt g.core t bs none).spoilBarriers t 64
  (s2.modGroup g.id fun h => { h.setS reg 1 with task := some (taskOf bs) }).acquireFree g.core (s.queueCores g)

/-- Every live lane of a group exits (R66). -/
def State.exitGroup (s : State) (g : Group) : State := s.loseLanes g.id g.live true

/-- Whether the record at the head of a queue is poisoned (R364). -/
def State.headBad (s : State) (rid q : Nat) : Bool := ((s.region? rid).map fun r => r.qbad.contains (q, 0)).getD false

/-- The record at the head of the group's queue is taken: its task runs at its entry, or traps (R261); a poisoned one is taken out and
faults (R364, log 53). -/
def Frag.takeHead (u : Frag) (s : State) (f : RF) (t : Tgt) (bs : List Byte) : Res :=
  if s.sbHolds u.g (u.g.ptr f.b.toNat) 64 true || s.pendingAt u.g.core s.nextId t 64 then .hold false
  else if s.headBad u.g.region u.g.stage then u.fault (s.dropHead u.g.region u.g.stage) causePoison (u.g.ptr f.b.toNat)
  else
    let s1 := s.takeRecord u.g u.g.stage f.a.toNat t bs
    match s.taskEntry u.g bs with
    | some coff => .post (u.setPc s1 (BitVec.ofNat 32 coff))
    | none => .trap { Trap.at_ trapTask u.x.pc with resume := u.next } s1 s1

/-- No record is there: 2 once the region has drained; else `qpop` parks and `qtry` returns 0 (R261, R262). -/
def Frag.noRecord (u : Frag) (s : State) (f : RF) (r : Region) (park : Bool) : Res :=
  if s.drained r then .post (u.upd s fun g => g.setS f.a.toNat 2)
  else if park then .post (u.parked { s with nextId := s.nextId + 1 } (.qpop f.a.toNat (u.g.ptr f.b.toNat) s.nextId))
  else .ok (u.upd s fun g => g.setS f.a.toNat 0)

/-- A pop from the group's queue, behind the parked pops of it. -/
def Frag.popFrom (u : Frag) (s : State) (f : RF) (r : Region) (t : Tgt) (park : Bool) : Res :=
  match (r.queue u.g.stage).head?, s.poppers r.id u.g.stage with
  | some bs, [] => u.takeHead s f t bs
  | _, _ => u.noRecord s f r park

/-- `qpop` and `qtry` (R259, R261, R262, R266). -/
def Frag.pop (u : Frag) (s : State) (f : RF) (park : Bool) : Res :=
  let p := u.g.ptr f.b.toNat
  if s.isShed (s.prioOf u.g) then .hold true
  else
    match s.region? u.g.region with
    | none => u.raise s trapQueue
    | some r =>
      if r.kind == 1 || u.g.task.isSome || u.g.fragments != [u.e] then u.raise s trapQueue
      else
        match s.popTgt u.g p with
        | .error c => u.fault s c p
        | .ok t =>
          if r.moving u.g then .post ((s.maskPacket u.g.id u.e 0 0).exitGroup u.g) else u.popFrom s f r t park

/-- QPOP (R261). -/
def execQpop (m : Mods) (f : RF) (s : State) : Host.Outcome State Fault Refusal :=
  issue (.qpop m f) s fun u s => u.pop s f true

/-- QTRY (R262). -/
def execQtry (m : Mods) (f : RF) (s : State) : Host.Outcome State Fault Refusal :=
  issue (.qtry m f) s fun u s => u.pop s f false

/-- The oldest parked `qpop` of a queue receives the record at its head (R62, R261). -/
def State.completePop (s : State) (r : Region) (q : Nat) : State :=
  match oldestParked (s.poppers r.id q), r.queue q with
  | some (_, gid, e), bs :: _ =>
    match s.group? gid with
    | none => s
    | some g =>
      match (g.entry e).park with
      | .qpop reg p _ =>
        if s.isShed (s.prioOf g) || s.sbHolds g p 64 true then s
        else
          (match s.popTgt g p with
          | .error c => s.wakeRaise gid e (g.accessTrap e c p)
          | .ok t =>
            if s.pendingAt g.core s.nextId t 64 then s
            else if s.headBad r.id q then (s.dropHead r.id q).wakeRaise gid e (g.accessTrap e causePoison p)
            else
            let s1 := s.takeRecord g q reg t bs
            match s.taskEntry g bs with
            | some coff => s1.modGroup gid fun h => h.wake e fun y => { y with pc := BitVec.ofNat 32 coff, seenB := false, seenT := false, seenO := false }
            | none => s1.wakeRaise gid e { Trap.at_ trapTask (g.entry e).pc with resume := (g.entry e).next })
      | _ => s
  | _, _ => s

/-- QPOP_COMPLETE (R62). -/
def execQpopComplete (r q : Nat) (s : State) : Host.Outcome State Fault Refusal :=
  deviceStep s fun s =>
    match s.region? r with
    | some x => if x.rstate == 1 then s.completePop x q else s
    | none => s

/-! ## Ending a task -/

/-- The successor counter's COUNT is decremented as a device-scope `.ar` atomic, not below 0 (R63, R263): the old value, and the
state after its acquire (R245, R246). A peer's value is free (log 15). -/
def State.decrement (s : State) (g : Group) (t : Tgt) : Nat × State :=
  let r := s.atomAt g.core 0 none t 4 fun old => old - 1
  (r.1, (r.2.hear g.core (s.atomShows g.core 0 t 4)).acquireFree g.core [])

/-- The check of a successor counter (R263): space 0x0, 16-byte aligned, as an `atom` does. -/
def State.succCheck (s : State) (g : Group) (p : Nat) : Except Nat Tgt :=
  if ptrTag p != 0 then .error causeSpace
  else
    match s.resolveRmw g p 4 16 with
    | .error c => .error c
    | .ok t => if s.tgtPoisoned g.core t 4 then .error causePoison else .ok t

/-- DEST and RECP of a counter, and the state after the reads; none when one of them fails (R263). -/
def State.counterNames (s : State) (g : Group) (p : Nat) : Option (Nat × Nat × State) :=
  match s.readPlain g (p + 4) 4 4 with
  | .error _ => none
  | .ok d =>
    match d.2.readPlain g (p + 8) 8 8 with
    | .error _ => none
    | .ok q => some (ofBytes (d.1.take 2), ofBytes q.1, q.2)

/-- The record that a counter releases, and its queue; none when it is discarded (R263). -/
def State.released (s : State) (g : Group) (r : Region) (dest q : Nat) : Option (Nat × List Byte) × State :=
  match s.readRecord g q with
  | .ok b => if dest < r.stages.length then (some (dest, b.1), b.2) else (none, b.2)
  | .error _ => (none, { s with free := s.free + 2 })

/-- A `tdone` ends its task: its acquire, and a stop of a shed class (R263, R266). -/
def Frag.endsTask (u : Frag) (s : State) : Res := .post (((s.endTask u.g.id).acquireFree u.g.core []).stopIfShed u.g.id)

/-- A `tdone` whose decrement reached zero (R63, R263): the record is read once what earlier copies of the group have still to write
there has landed (R191, R238), and pushed as a `qpush` pushes it, a release of its own (R240). -/
def Frag.release1 (u : Frag) (s : State) (r : Region) (succ : Nat) : Res :=
  match s.counterNames u.g succ with
  | none => u.endsTask ({ s with free := s.free + 4 }.event 0x84 u.g.ctx 0x34 succ)
  | some (dest, p, s1) =>
    if s1.sbHolds u.g p 64 false then .hold false
    else
      match s1.released u.g r dest p with
      | (none, s2) => u.endsTask (s2.event 0x84 u.g.ctx 0x34 succ)
      | (some (q, bs), s2) =>
        if r.room q && (s2.pushers r.id q).isEmpty then u.endsTask ((s2.release u.g.core 0).enterQueue r.id q bs)
        else .post (u.parked { s2 with nextId := s2.nextId + 1 } (.tdone q s2.nextId bs))

/-- TDONE (R259, R263, R266): a release, the decrement, which may fail at a peer, and the push of the released record. -/
def execTdone (m : Mods) (f : RF) (s : State) : Host.Outcome State Fault Refusal :=
  issue (.tdone m f) s fun u s =>
    match s.region? u.g.region, u.g.task with
    | some r, some t =>
      if r.kind == 1 || u.g.fragments != [u.e] then u.raise s trapQueue
      else if u.unreleased s 0 then .hold false
      else if t.succ == 0 then .post (((s.release u.g.core 0).endTask u.g.id).stopIfShed u.g.id)
      else
        match s.succCheck u.g t.succ with
        | .error c => u.fault s c t.succ
        | .ok w =>
          if s.peerFails w then u.fault { s with free := s.free + 1 } causeRemote t.succ
          else
            let d := (((s.pastPeer w).release u.g.core 0).resolved u.g t.succ).decrement u.g w
            if d.1 == 0 then u.endsTask (d.2.event 0x84 u.g.ctx 0x33 t.succ)
            else if d.1 == 1 then u.release1 d.2 r t.succ
            else u.endsTask d.2
    | _, _ => u.raise s trapQueue

/-! ## Fetch-work -/

/-- The key of a fetch-work mailbox, or the cause of R267. -/
def State.mailboxKey (s : State) (g : Group) (p : Nat) : Except Nat Nat :=
  if ptrTag p == 1 && spadTarget g.core p != g.core then .error causeSpace
  else
    match spadOnly p (s.resolve g p 16 16 true) with
    | .ok (.bytes k _) => .ok k
    | .ok _ => .error causeSpace
    | .error c => .error c

/-- The outcome of a withdrawal: STATUS and the linear index (R51, R267). -/
def Region.withdraw (r : Region) : Nat × Nat :=
  if r.kind != 1 || !r.fetch || 1 < r.cset then (3, 0) else if r.count ≤ r.cursor then (2, 0) else (1, r.cursor)

/-- The state after a withdrawal: STATUS is cleared at once, an item taken advances the region's cursor, and the outcome `w`
waits to be written at key `k` (R58, R267). -/
def State.withdrawn (s : State) (u : Frag) (r : Region) (k : Nat) (w : Nat × Nat) : State :=
  let s1 := (s.performN u.g.core (k + 12) false none [0, 0, 0, 0]).spoilBarriers (.bytes (k + 12) none) 4
  let s2 := if w.1 == 1 then s1.modRegion r.id fun x => { x with cursor := x.cursor + 1, rstate := 1, begun := true } else s1
  let b : Mailbox := { key := k, wg := u.g.wg, core := u.g.core, status := w.1, x := w.2 % r.gx, y := w.2 / r.gx % r.gy,
                       z := w.2 / (r.gx * r.gy) }
  { s2 with mailboxes := s2.mailboxes ++ [b] }

/-- A withdrawal into the mailbox at key `k`, once nothing earlier holds its bytes (R241, R267). -/
def Frag.withdraw (u : Frag) (s : State) (p : Nat) (r : Region) (k : Nat) : Res :=
  if s.sbHolds u.g p 16 true || s.pendingAt u.g.core s.nextId (.bytes (k + 12) none) 4 then .hold false
  else .post (s.withdrawn u r k r.withdraw)

/-- FETCHW (R267). -/
def execFetchw (m : Mods) (f : MF) (s : State) : Host.Outcome State Fault Refusal :=
  issue (.fetchw m f) s fun u s =>
    let p := addrPlus (u.g.ptr f.addr.toNat) (offBytes f 16)
    match s.mailboxKey u.g p, s.region? u.g.region with
    | .error c, _ => u.fault s c p
    | .ok _, none => u.raise s trapQueue
    | .ok k, some r => u.withdraw s p r k

/-- FETCHW_MAILBOX_COMPLETE (R58): the oldest withdrawal; X, Y, Z, then STATUS as a release of workgroup scope. -/
def execFetchwMailboxComplete (s : State) : Host.Outcome State Fault Refusal :=
  deviceStep s fun s =>
    match s.mailboxes with
    | [] => s
    | b :: rest =>
      let s1 : State := { s with mailboxes := rest }
      let s2 := if b.status == 1 then s1.mailBytes b.core b.key (bytesOf 4 b.x ++ bytesOf 4 b.y ++ bytesOf 4 b.z) else s1
      (s2.release b.core 2).mailBytes b.core (b.key + 12) (bytesOf 4 b.status)

/-! ## Launching -/

/-- The 256 bytes of an RCB as plain loads of the group's core, 64 at a time (R268). -/
def State.readRcb (s : State) (g : Group) (p : Nat) : Nat → Except Nat (List Byte × State)
  | 0 => .ok ([], s)
  | n + 1 =>
    if ptrTag p != 0 then .error causeSpace
    else
      match s.readPlain g p 64 64 with
      | .error c => .error c
      | .ok b =>
        match b.2.readRcb g (p + 64) n with
        | .error c => .error c
        | .ok t => .ok (b.1 ++ t.1, t.2)

/-- A launch answers its code in S[a] (R268). -/
def Frag.answer (u : Frag) (f : RF) (s : State) (code : Nat) : Res :=
  .post (s.modGroup u.g.id fun g => g.setS f.a.toNat (BitVec.ofNat 32 code))

/-- The region of a checked RCB is entered, while its context has room for one (R268). -/
def Frag.launchRegion (u : Frag) (f : RF) (p : Nat) (r : Region) (x : Nat) (s : State) (o : Obj) : Res :=
  if 4096 ≤ s.openRegions u.g.ctx then u.answer f s reasonLimit
  else u.answer f (s.addRegion (regionOf 0 u.g.ctx p 0 (some r.id) r.eff o x) r.rcb) 0

/-- A launch by region `r` with the RCB `x`. -/
def Frag.launchRcb (u : Frag) (f : RF) (p : Nat) (r : Region) (x : Nat) (s : State) : Res :=
  match s.checkRcb u.g.ctx r.eff x with
  | .error c => u.answer f s c
  | .ok o => u.launchRegion f p r x s o

/-- LAUNCH (R268). -/
def execLaunch (m : Mods) (f : RF) (s : State) : Host.Outcome State Fault Refusal :=
  issue (.launch m f) s fun u s =>
    let p := u.g.ptr f.b.toNat
    if u.unreleased s 0 then .hold false
    else
      match (s.release u.g.core 0).readRcb u.g p 4, s.region? u.g.region with
      | .error c, _ => u.fault { s with free := s.free + 2 } c p
      | .ok b, none => u.answer f b.2 reasonUnknown
      | .ok b, some r => u.launchRcb f p r (ofBytes b.1) b.2

end Sys2Proof.Machine
end

