-- ==== Sys2Proof/Machine/System.lean ====
section
/-! DEFINITION. System, version and trap instructions (R314, R319 to R334), and the units that cannot be executed: an
unassigned opcode (R112) and a failed fetch (R97, R104, R184). -/
namespace Sys2Proof.Machine

/-! ## Special registers -/

/-- Coordinates of a group's workgroup: 0 for a task group (Table 22-2). -/
def State.wgid (s : State) (g : Group) (d : Nat) : Nat :=
  match s.wgOf g with
  | some w => if d == 0 then w.x else if d == 1 then w.y else w.z
  | none => 0

/-- Dimensions of a group's region: 1 for a task group (Table 22-2). -/
def State.wgdim (s : State) (g : Group) (d : Nat) : Nat :=
  match s.region? g.region with
  | some r => if d == 0 then r.gx else if d == 1 then r.gy else if d == 2 then r.gz else r.wgg
  | none => 1

/-- `spoff` (Table 22-2). -/
def State.spoffOf (s : State) (g : Group) : Nat := ((s.wgOf g).map Workgroup.spOff).getD 0

/-- `argp` (Table 22-2): of the held task, else of the region's RCB. -/
def State.argpOf (s : State) (g : Group) : Nat :=
  match g.task with
  | some t => t.argp
  | none => ((s.region? g.region).map Region.argp).getD 0

/-- The value of a special register in a lane (Table 22-2). -/
def State.special (s : State) (g : Group) (n lane : Nat) : Nat :=
  match n with
  | 0x00 => lane
  | 0x01 => g.gw
  | 0x02 => g.gid
  | 0x03 => s.wgid g 0
  | 0x04 => s.wgid g 1
  | 0x05 => s.wgid g 2
  | 0x06 => s.wgdim g 0
  | 0x07 => s.wgdim g 1
  | 0x08 => s.wgdim g 2
  | 0x09 => s.wgdim g 3
  | 0x0A => ((s.wgOf g).map Workgroup.member).getD 0
  | 0x0B => s.spoffOf g
  | 0x0C => g.ctx
  | 0x10 => 2 ^ 60 + g.core % 4 * 2 ^ 58 + s.spoffOf g
  | 0x12 => s.argpOf g
  | 0x14 => ((s.region? g.region).map Region.rcb).getD 0
  | 0x20 => g.core
  | 0x21 => g.slot
  | 0x30 => s.time
  | 0x32 => (s.island (coreIsland g.core)).mcyc / 1000
  | 0x40 => g.frecp.toNat
  | 0x42 => g.trappc.toNat
  | 0x43 => g.trapcode.toNat
  | _ => g.traparg.toNat

/-- GETSR (R320). -/
def execGetsr (m : Mods) (f : IF) (s : State) : Host.Outcome State Fault Refusal :=
  issue (.getsr m f) s fun u s =>
    let n := f.imm.toNat % 32768
    let wide := ((srInfo n).map SrInfo.wide).getD false
    let v := s.special u.g n
    if 32768 ≤ f.imm.toNat then .ok (u.upd s fun g => g.putV false wide f.a.toNat u.x.mask 0 v)
    else u.uni s wide f.a.toNat (v 0)

/-- SETSR (R321): a write of TRAPPC outside a handler raises ILLEGAL_FIELD, before an illegal register does (`Group.unitCheck`). -/
def execSetsr (m : Mods) (f : IF) (s : State) : Host.Outcome State Fault Refusal :=
  issue (.setsr m f) s fun u s =>
    let n := f.imm.toNat % 32768
    let wide := n == 0x40
    let v := if 32768 ≤ f.imm.toNat then u.g.vVal wide f.a.toNat (lowLane u.x.mask) else u.g.sVal wide f.a.toNat
    if n == 0x40 then .ok (u.upd s fun g => { g with frecp := BitVec.ofNat 64 v })
    else if u.x.inH then .ok (u.upd s fun g => { g with trappc := BitVec.ofNat 32 v })
    else u.raise s trapField

/-! ## Traps -/

/-- TRAP (R324). -/
def execTrap (m : Mods) (f : IF) (s : State) : Host.Outcome State Fault Refusal :=
  issue (.trap m f) s fun u s =>
    .trap { Trap.at_ trapSoftware u.x.pc with resume := u.next, arg := f.imm.toNat } s s

/-- RFE (R281, R325): by a fragment that is not in a handler, ILLEGAL_FIELD; by a part of the entered lanes, a trap in a
handler. -/
def execRfe (m : Mods) (f : RF) (s : State) : Host.Outcome State Fault Refusal :=
  issue (.rfe m f) s fun u s =>
    if !u.x.inH || u.x.mask != u.g.hLanes then u.raise s trapField
    else .ok (u.upd s fun g => g.leaveHandler u.e)

/-- The enabled breakpoint that absorbs a `brk` (R314). -/
def State.brkPoint (s : State) (g : Group) : Option Nat :=
  if !s.observable g then none
  else (List.range 16).find? fun n =>
    match s.obs.bps[n]? with
    | some b => b.en && b.ctx == g.ctx && b.tag == s.tagOf g && b.ord == 0xFFFFFFFF
    | none => false

/-- BRK (R314, R326). -/
def execBrk (m : Mods) (f : IF) (s : State) : Host.Outcome State Fault Refusal :=
  issue (.brk m f) s fun u s =>
    match s.brkPoint u.g with
    | none => .trap { Trap.at_ trapBreak u.x.pc with resume := u.next, arg := f.imm.toNat } s s
    | some n => .post ((s.breakAct u.g u.e n).modEntry u.g.id u.e fun y => { y with seenB := false })

/-! ## Queries and requests -/

/-- FEATQ (R327). -/
def execFeatq (m : Mods) (f : RF) (s : State) : Host.Outcome State Fault Refusal :=
  issue (.featq m f) s fun u s => u.uni s true f.a.toNat Config.featureWord.toNat

/-- SETPERF (R300, R328). -/
def execSetperf (m : Mods) (f : RF) (s : State) : Host.Outcome State Fault Refusal :=
  issue (.setperf m f) s fun u s =>
    let v := if f.k == 0 then (u.g.getV f.c.toNat (lowLane u.x.mask)).toNat else if f.k == 1 then (u.g.getS f.c.toNat).toNat else f.c.toNat
    let r := s.requestLevel u.g.ctx u.g.core (min v 15)
    u.uni r.2 false f.a.toNat r.1

/-- XFER (R101, R329). -/
def execXfer (m : Mods) (f : RF) (s : State) : Host.Outcome State Fault Refusal :=
  issue (.xfer m f) s fun u s =>
    let t := if f.k == 1 then (u.g.getS f.c.toNat).toNat else (f.c.signExtend 32).toNat
    let r := s.requestXfer u.g.ctx u.g.obj u.g.kidx t (some u.g) none
    .post (r.2.modGroup u.g.id fun g => g.setS f.a.toNat (BitVec.ofNat 32 r.1))

/-- KILL (R330). -/
def execKill (m : Mods) (f : RF) (s : State) : Host.Outcome State Fault Refusal :=
  issue (.kill m f) s fun u s =>
    let k := u.g.mreg u.x.mask f.b.toNat &&& u.x.mask
    if k == 0 then .ok s
    else .post (((s.maskPacket u.g.id u.e (u.x.mask &&& ~~~k) 1).loseLanes u.g.id k true).resumedTrace u.g)

/-- TRACE (R331). -/
def execTrace (m : Mods) (f : IF) (s : State) : Host.Outcome State Fault Refusal :=
  issue (.trace m f) s fun u s =>
    .ok (s.emit u.g.id 5 (u.e + f.imm.toNat * 2 ^ 48 + (u.g.getS f.a.toNat).toNat * 2 ^ 64))

/-- TIME (R332): after every earlier load, store and atomic of the fragment. -/
def execTime (m : Mods) (f : RF) (s : State) : Host.Outcome State Fault Refusal :=
  issue (.time m f) s fun u s => if u.busy s then .hold false else u.uni s true f.a.toNat s.time

/-- The value of a signal query (R333). -/
def State.signalValue (s : State) (g : Group) (x : Entry) (code : Nat) : Nat :=
  let i := s.island (coreIsland g.core)
  match code with
  | 0 => (s.cluster (g.core / 4)).w
  | 1 => s.power.shedlvl
  | 2 => s.prioOf g
  | 3 => x.exempt
  | 4 => min (s.ctx g.ctx).tokens (2 ^ 32 - 1)
  | _ => i.level + (if i.nt then 16 else 0) + (if i.chg then 32 else 0)

/-- SIGQ (R333). -/
def execSigq (m : Mods) (f : RF) (s : State) : Host.Outcome State Fault Refusal :=
  issue (.sigq m f) s fun u s =>
    u.uni s false f.a.toNat (s.signalValue u.g ((s.group? u.g.id).getD u.g |>.entry u.e) f.c.toNat)

/-! ## Units that cannot be executed -/

/-- A trap of the unit at the issuing fragment's PC that has no legal words to execute. -/
def State.trapUnit (s : State) (t : Group → Nat → Trap) : Host.Outcome State Fault Refusal :=
  match s.issuing with
  | none => .fault .noIssuingFragment
  | some (g, e) =>
    .next ({ s with issued := false }.atUnit g e fun s1 => State.trapped g.id e (g.entry e) (t g e) s1 s1)

/-- UNASSIGNED_OPCODE_UNIT (R112): ILLEGAL_OPCODE, or what comes before it (R115). -/
def execUnassignedOpcodeUnit (code : Reject) (s : State) : Host.Outcome State Fault Refusal :=
  s.trapUnit fun g e => Trap.at_ (rejectCode code) (g.entry e).pc

/-- The first word of a unit that cannot be fetched, among at most `n`, and its cause (R184). -/
def State.firstUnfetched (s : State) (g : Group) (off : Nat) : Nat → Nat × Nat
  | 0 => (off, causeCode)
  | n + 1 =>
    match s.fetchWord g off with
    | .ok _ => s.firstUnfetched g (off + 4) n
    | .error c => (off, c)

/-- CODE_FETCH_FAULT (R184): AUX holds the cause, ADDR the failing code offset (Table 19-2). -/
def execCodeFetchFault (s : State) : Host.Outcome State Fault Refusal :=
  s.trapUnit fun g e =>
    let r := s.firstUnfetched g (g.entry e).pc.toNat maxUnitWords
    { Trap.at_ trapFetch (g.entry e).pc with aux := r.2, addr := r.1 }

end Sys2Proof.Machine
end

