-- ==== Sys2Proof/Machine/VectorFloat.lean ====
section
/-! DEFINITION. Vector floating-point arithmetic, special functions, conversions and KB blocks (R159 to R175). -/
namespace Sys2Proof.Machine

/-- Operand b of a floating-point instruction, as a word. -/
def Frag.fb (u : Frag) (f : RF) (l : Nat) : Word := BitVec.ofNat 32 (u.g.src u.m.modx.u false f.b.toNat l)

/-- An `.f32` instruction of two operands (R160, R161). -/
def Frag.fop32 (u : Frag) (s : State) (f : RF) (op : Nat → Nat → Nat) : Res :=
  u.vec s false f.a.toNat fun l => op (u.fb f l).toNat (u.g.fopnd u.m u.m.modx.u false f l).toNat

/-- An `.f16x2` instruction of two operands (R162). -/
def Frag.fop16 (u : Frag) (s : State) (f : RF) (op : Nat → Nat → Nat) : Res :=
  u.vec s false f.a.toNat fun l => (both16 op (u.fb f l) (u.g.fopnd u.m u.m.modx.u true f l)).toNat

/-- A unary instruction on words (R160). -/
def Frag.fop1 (u : Frag) (s : State) (f : RF) (op : Word → Nat) : Res := u.vec s false f.a.toNat fun l => op (u.fb f l)

/-! ## Conversions -/

/-- A source of `cvt`: a float or an exact integer (R169). -/
inductive CvtVal where
  | float (v : Num)
  | int (x : Int)
  deriving DecidableEq, Repr

/-- The source that code c[3:0] names (Table 07-8, R169). -/
def cvtSource (code x : Nat) : CvtVal :=
  match code with
  | 0 => .int (toSigned 8 x)
  | 1 => .int ((x % 2 ^ 8 : Nat) : Int)
  | 2 => .int (toSigned 16 x)
  | 3 => .int ((x % 2 ^ 16 : Nat) : Int)
  | 4 => .int (toSigned 32 x)
  | 5 => .int ((x % 2 ^ 32 : Nat) : Int)
  | 6 => .int (toSigned 64 x)
  | 7 => .int ((x % 2 ^ 64 : Nat) : Int)
  | 8 => .float (fp16.unpack (x % 2 ^ 16))
  | 9 => .float (bf16.unpack (x % 2 ^ 16))
  | 10 => .float (fp32.unpack (x % 2 ^ 32))
  | _ => .int (toSigned 4 x)

/-- Conversion to a float format (R153, R170). -/
def cvtFloat (t : FFmt) (rnd : Nat) : CvtVal → Nat
  | .float v => t.pack rnd v
  | .int x => t.pack rnd (Num.ofInt x)

/-- Conversion to an integer of `w` bits: from a float it saturates, from an integer it wraps or saturates by RND (R170). -/
def cvtInt (rnd : Nat) (signed : Bool) (w : Nat) : CvtVal → Int
  | .float v => v.toSat rnd signed w
  | .int x =>
    if rnd == 0 then (if signed then toSigned w (x % (2 ^ w : Nat)).toNat else x % (2 ^ w : Nat))
    else clampInt x (intMin signed w) (intMax signed w)

/-- The source of a conversion in a lane. -/
def Frag.cvtIn (u : Frag) (f : RF) (l : Nat) : CvtVal :=
  let code := f.c.toNat % 16
  cvtSource code (u.g.src u.m.modx.u (code == 6 || code == 7) f.b.toNat l)

/-- A conversion into one half of a register (Table 10-6): subtype 1 is the high half; the other half is kept. -/
def Frag.cvtHalf (u : Frag) (s : State) (f : RF) (t : FFmt) : Res :=
  u.vec s false f.a.toNat fun l =>
    let old := u.g.src u.m.modx.u false f.a.toNat l
    let y := cvtFloat t u.rnd (u.cvtIn f l)
    if f.c.toNat / 16 == 1 then old % 65536 + y * 65536 else old / 65536 * 65536 + y

/-- Width and signedness of a `cvt.small` subtype (Table 10-6). -/
def smallType (sub : Nat) : Nat × Bool :=
  match sub with
  | 0 => (8, true)
  | 1 => (8, false)
  | 2 => (16, true)
  | 3 => (16, false)
  | _ => (4, true)

/-! ## KB blocks -/

/-- Words of V[b] in block `j`, those of lanes outside the fragment as zero (R172, R173). -/
def Frag.block (u : Frag) (f : RF) (j : Nat) : List Word :=
  (List.range 16).map fun i => if laneIn u.x.mask (16 * j + i) then u.g.getV f.b.toNat (16 * j + i) else 0

/-- An instruction that turns the words of each block into at most sixteen words (R171). -/
def Frag.kbop (u : Frag) (s : State) (f : RF) (op : List Word → List Word) : Res :=
  let b0 := op (u.block f 0)
  let b1 := op (u.block f 1)
  u.vec s false f.a.toNat fun l => (((if l < 16 then b0 else b1)[l % 16]?).getD 0).toNat

/-- FADD_F32 (R161). -/
def execFaddF32 (m : Mods) (f : RF) (s : State) : Host.Outcome State Fault Refusal :=
  issue (.faddF32 m f) s fun u s => u.fop32 s f (fp32.fadd u.rnd)

/-- FADD_F16X2 (R162). -/
def execFaddF16x2 (m : Mods) (f : RF) (s : State) : Host.Outcome State Fault Refusal :=
  issue (.faddF16x2 m f) s fun u s => u.fop16 s f (fp16.fadd u.rnd)

/-- FSUB_F32 (R161). -/
def execFsubF32 (m : Mods) (f : RF) (s : State) : Host.Outcome State Fault Refusal :=
  issue (.fsubF32 m f) s fun u s => u.fop32 s f (fp32.fsub u.rnd)

/-- FSUB_F16X2 (R162). -/
def execFsubF16x2 (m : Mods) (f : RF) (s : State) : Host.Outcome State Fault Refusal :=
  issue (.fsubF16x2 m f) s fun u s => u.fop16 s f (fp16.fsub u.rnd)

/-- FMUL_F32 (R161). -/
def execFmulF32 (m : Mods) (f : RF) (s : State) : Host.Outcome State Fault Refusal :=
  issue (.fmulF32 m f) s fun u s => u.fop32 s f (fp32.fmul u.rnd)

/-- FMUL_F16X2 (R162). -/
def execFmulF16x2 (m : Mods) (f : RF) (s : State) : Host.Outcome State Fault Refusal :=
  issue (.fmulF16x2 m f) s fun u s => u.fop16 s f (fp16.fmul u.rnd)

/-- FFMA_F32 (R161). -/
def execFfmaF32 (m : Mods) (f : RF) (s : State) : Host.Outcome State Fault Refusal :=
  issue (.ffmaF32 m f) s fun u s =>
    u.vec s false f.a.toNat fun l =>
      fp32.ffma u.rnd (u.fb f l).toNat (u.g.fopnd u.m u.m.modx.u false f l).toNat (u.g.src u.m.modx.u false (d4Of m f) l)

/-- FFMA_F16X2 (R162). -/
def execFfmaF16x2 (m : Mods) (f : RF) (s : State) : Host.Outcome State Fault Refusal :=
  issue (.ffmaF16x2 m f) s fun u s =>
    u.vec s false f.a.toNat fun l =>
      (both16x3 (fp16.ffma u.rnd) (u.fb f l) (u.g.fopnd u.m u.m.modx.u true f l)
        (BitVec.ofNat 32 (u.g.src u.m.modx.u false (d4Of m f) l))).toNat

/-- FMIN_F32 (R163). -/
def execFminF32 (m : Mods) (f : RF) (s : State) : Host.Outcome State Fault Refusal :=
  issue (.fminF32 m f) s fun u s => u.fop32 s f (fp32.minmax false)

/-- FMIN_F16X2 (R163). -/
def execFminF16x2 (m : Mods) (f : RF) (s : State) : Host.Outcome State Fault Refusal :=
  issue (.fminF16x2 m f) s fun u s => u.fop16 s f (fp16.minmax false)

/-- FMAX_F32 (R163). -/
def execFmaxF32 (m : Mods) (f : RF) (s : State) : Host.Outcome State Fault Refusal :=
  issue (.fmaxF32 m f) s fun u s => u.fop32 s f (fp32.minmax true)

/-- FMAX_F16X2 (R163). -/
def execFmaxF16x2 (m : Mods) (f : RF) (s : State) : Host.Outcome State Fault Refusal :=
  issue (.fmaxF16x2 m f) s fun u s => u.fop16 s f (fp16.minmax true)

/-- FCMP (R164). -/
def execFcmp (m : Mods) (f : RF) (s : State) : Host.Outcome State Fault Refusal :=
  issue (.fcmp m f) s fun u s =>
    u.maskRes s (f.a.toNat % 16) fun l =>
      fp32.cond (f.a.toNat / 16) (u.fb f l).toNat (u.g.fopnd u.m false false f l).toNat

/-- FCLASS (R165). -/
def execFclass (m : Mods) (f : RF) (s : State) : Host.Outcome State Fault Refusal :=
  issue (.fclass m f) s fun u s =>
    u.fop1 s f fun x => match f.c.toNat with
      | 0 => fp32.cls x.toNat
      | 1 => fp16.cls (x.toNat % 65536)
      | _ => bf16.cls (x.toNat % 65536)

/-- FRCP (R167). -/
def execFrcp (m : Mods) (f : RF) (s : State) : Host.Outcome State Fault Refusal :=
  issue (.frcp m f) s fun u s => u.fop1 s f fun x => (specialFn 0 u.rnd x).toNat

/-- FRSQ (R167). -/
def execFrsq (m : Mods) (f : RF) (s : State) : Host.Outcome State Fault Refusal :=
  issue (.frsq m f) s fun u s => u.fop1 s f fun x => (specialFn 1 u.rnd x).toNat

/-- FSQRT (R166). -/
def execFsqrt (m : Mods) (f : RF) (s : State) : Host.Outcome State Fault Refusal :=
  issue (.fsqrt m f) s fun u s => u.fop1 s f fun x => fsqrt u.rnd x.toNat

/-- FEXP2 (R167). -/
def execFexp2 (m : Mods) (f : RF) (s : State) : Host.Outcome State Fault Refusal :=
  issue (.fexp2 m f) s fun u s => u.fop1 s f fun x => (specialFn 2 u.rnd x).toNat

/-- FLOG2 (R167). -/
def execFlog2 (m : Mods) (f : RF) (s : State) : Host.Outcome State Fault Refusal :=
  issue (.flog2 m f) s fun u s => u.fop1 s f fun x => (specialFn 3 u.rnd x).toNat

/-- FSIN (R167). -/
def execFsin (m : Mods) (f : RF) (s : State) : Host.Outcome State Fault Refusal :=
  issue (.fsin m f) s fun u s => u.fop1 s f fun x => (specialFn 4 u.rnd x).toNat

/-- FCOS (R167). -/
def execFcos (m : Mods) (f : RF) (s : State) : Host.Outcome State Fault Refusal :=
  issue (.fcos m f) s fun u s => u.fop1 s f fun x => (specialFn 5 u.rnd x).toNat

/-- CVT_F32 (R168, R170). -/
def execCvtF32 (m : Mods) (f : RF) (s : State) : Host.Outcome State Fault Refusal :=
  issue (.cvtF32 m f) s fun u s => u.vec s false f.a.toNat fun l => cvtFloat fp32 u.rnd (u.cvtIn f l)

/-- CVT_F16 (R168, R170). -/
def execCvtF16 (m : Mods) (f : RF) (s : State) : Host.Outcome State Fault Refusal :=
  issue (.cvtF16 m f) s fun u s => u.cvtHalf s f fp16

/-- CVT_BF16 (R168, R170). -/
def execCvtBf16 (m : Mods) (f : RF) (s : State) : Host.Outcome State Fault Refusal :=
  issue (.cvtBf16 m f) s fun u s => u.cvtHalf s f bf16

/-- CVT_INT32 (R168, R170). -/
def execCvtInt32 (m : Mods) (f : RF) (s : State) : Host.Outcome State Fault Refusal :=
  issue (.cvtInt32 m f) s fun u s =>
    u.vec s false f.a.toNat fun l =>
      (BitVec.ofInt 32 (cvtInt u.rnd (f.c.toNat / 16 == 0) 32 (u.cvtIn f l))).toNat

/-- CVT_INT64 (R168, R170). -/
def execCvtInt64 (m : Mods) (f : RF) (s : State) : Host.Outcome State Fault Refusal :=
  issue (.cvtInt64 m f) s fun u s =>
    u.vec s true f.a.toNat fun l =>
      (BitVec.ofInt 64 (cvtInt u.rnd (f.c.toNat / 16 == 0) 64 (u.cvtIn f l))).toNat

/-- CVT_SMALL (R168, R170). -/
def execCvtSmall (m : Mods) (f : RF) (s : State) : Host.Outcome State Fault Refusal :=
  issue (.cvtSmall m f) s fun u s =>
    let t := smallType (f.c.toNat / 16)
    u.vec s false f.a.toNat fun l => (BitVec.ofInt 32 (cvtInt u.rnd t.2 t.1 (u.cvtIn f l))).toNat

/-- KBPACK (R172). -/
def execKbpack (m : Mods) (f : RF) (s : State) : Host.Outcome State Fault Refusal :=
  issue (.kbpack m f) s fun u s => u.kbop s f (kbPackWords f.c.toNat)

/-- KBUNPACK (R173). -/
def execKbunpack (m : Mods) (f : RF) (s : State) : Host.Outcome State Fault Refusal :=
  issue (.kbunpack m f) s fun u s => u.kbop s f (kbUnpackWords f.c.toNat)

end Sys2Proof.Machine
end

