-- ==== Sys2Proof/Machine/Dispatch.lean ====
section
/-! DEFINITION. One arm per instruction and step. -/
namespace Sys2Proof.Machine

/-- What an instruction or step does. -/
def exec (i : Instr) (s : State) : Host.Outcome State Fault Refusal :=
  match i with
  | .acceptRead n => Sys2Proof.Machine.execAcceptRead n s
  | .jackWrite v => Sys2Proof.Machine.execJackWrite v s
  | .ctxCreate c => Sys2Proof.Machine.execCtxCreate c s
  | .ctxDestroy c => Sys2Proof.Machine.execCtxDestroy c s
  | .contextCloseComplete c => Sys2Proof.Machine.execContextCloseComplete c s
  | .load c => Sys2Proof.Machine.execLoad c s
  | .unload c => Sys2Proof.Machine.execUnload c s
  | .start c => Sys2Proof.Machine.execStart c s
  | .transfer c => Sys2Proof.Machine.execTransfer c s
  | .migrateOut c => Sys2Proof.Machine.execMigrateOut c s
  | .migrateIn c => Sys2Proof.Machine.execMigrateIn c s
  | .jsign c => Sys2Proof.Machine.execJsign c s
  | .attestReport c => Sys2Proof.Machine.execAttestReport c s
  | .attestKeyInstall c => Sys2Proof.Machine.execAttestKeyInstall c s
  | .xinvWrite v => Sys2Proof.Machine.execXinvWrite v s
  | .devnumWrite v => Sys2Proof.Machine.execDevnumWrite v s
  | .dbgHalt c => Sys2Proof.Machine.execDbgHalt c s
  | .dbgResume c => Sys2Proof.Machine.execDbgResume c s
  | .dbgSave c => Sys2Proof.Machine.execDbgSave c s
  | .bpWrite n high v => Sys2Proof.Machine.execBpWrite n high v s
  | .sampleTick core slot => Sys2Proof.Machine.execSampleTick core slot s
  | .trdWrite v => Sys2Proof.Machine.execTrdWrite v s
  | .linkRead p => Sys2Proof.Machine.execLinkRead p s
  | .registerWrite off data => Sys2Proof.Machine.execRegisterWrite off data s
  | .hostWindowBRead a n => Sys2Proof.Machine.execHostWindowBRead a n s
  | .hostWindowBWrite a data poison => Sys2Proof.Machine.execHostWindowBWrite a data poison s
  | .hostAtomicRequest k a n x y => Sys2Proof.Machine.execHostAtomicRequest k a n x y s
  | .workgroupPlace r cores => Sys2Proof.Machine.execWorkgroupPlace r cores s
  | .pipelineStart r cores => Sys2Proof.Machine.execPipelineStart r cores s
  | .seedPush r => Sys2Proof.Machine.execSeedPush r s
  | .qpushComplete r q => Sys2Proof.Machine.execQpushComplete r q s
  | .qpopComplete r q => Sys2Proof.Machine.execQpopComplete r q s
  | .dresserSample r core => Sys2Proof.Machine.execDresserSample r core s
  | .loadComplete o lanes => Sys2Proof.Machine.execLoadComplete o lanes s
  | .storePerform o lanes => Sys2Proof.Machine.execStorePerform o lanes s
  | .copySectorLand o k => Sys2Proof.Machine.execCopySectorLand o k s
  | .copySourceReadDone o => Sys2Proof.Machine.execCopySourceReadDone o s
  | .benchGrant cl => Sys2Proof.Machine.execBenchGrant cl s
  | .mmaPassComplete cl => Sys2Proof.Machine.execMmaPassComplete cl s
  | .dataFaultDetect o lanes cause => Sys2Proof.Machine.execDataFaultDetect o lanes cause s
  | .remoteAccessReceive q pa port => Sys2Proof.Machine.execRemoteAccessReceive q pa port s
  | .remoteAccessComplete o lane data poison => Sys2Proof.Machine.execRemoteAccessComplete o lane data poison s
  | .remoteTimeout o lane => Sys2Proof.Machine.execRemoteTimeout o lane s
  | .flitReceive p good => Sys2Proof.Machine.execFlitReceive p good s
  | .linkDown p => Sys2Proof.Machine.execLinkDown p s
  | .linkUp p enc admitted => Sys2Proof.Machine.execLinkUp p enc admitted s
  | .linkKeyRenewal p => Sys2Proof.Machine.execLinkKeyRenewal p s
  | .throttleNotification c => Sys2Proof.Machine.execThrottleNotification c s
  | .preempt why => Sys2Proof.Machine.execPreempt why s
  | .preemptSaveComplete w => Sys2Proof.Machine.execPreemptSaveComplete w s
  | .groupRestore w cores => Sys2Proof.Machine.execGroupRestore w cores s
  | .stallSample cl core n => Sys2Proof.Machine.execStallSample cl core n s
  | .levelChangeComplete isl => Sys2Proof.Machine.execLevelChangeComplete isl s
  | .boostRefill power => Sys2Proof.Machine.execBoostRefill power s
  | .withholdLevelUpdate cl n => Sys2Proof.Machine.execWithholdLevelUpdate cl n s
  | .junctionTemperatureChange die t => Sys2Proof.Machine.execJunctionTemperatureChange die t s
  | .telemetryFrame v => Sys2Proof.Machine.execTelemetryFrame v s
  | .unassignedOpcodeUnit code => Sys2Proof.Machine.execUnassignedOpcodeUnit code s
  | .engineOperandRead o k => Sys2Proof.Machine.execEngineOperandRead o k s
  | .softError w => Sys2Proof.Machine.execSoftError w s
  | .nop m f => Sys2Proof.Machine.execNop m f s
  | .bra m f => Sys2Proof.Machine.execBra m f s
  | .brc m f => Sys2Proof.Machine.execBrc m f s
  | .brcU m f => Sys2Proof.Machine.execBrcU m f s
  | .brm m f ts => Sys2Proof.Machine.execBrm m f ts s
  | .jset m f => Sys2Proof.Machine.execJset m f s
  | .join m f => Sys2Proof.Machine.execJoin m f s
  | .call m f => Sys2Proof.Machine.execCall m f s
  | .callU m f => Sys2Proof.Machine.execCallU m f s
  | .ret m f => Sys2Proof.Machine.execRet m f s
  | .retU m f => Sys2Proof.Machine.execRetU m f s
  | .jmpi m f => Sys2Proof.Machine.execJmpi m f s
  | .exit m f => Sys2Proof.Machine.execExit m f s
  | .sadd32 m f => Sys2Proof.Machine.execSadd32 m f s
  | .sadd64 m f => Sys2Proof.Machine.execSadd64 m f s
  | .ssub32 m f => Sys2Proof.Machine.execSsub32 m f s
  | .ssub64 m f => Sys2Proof.Machine.execSsub64 m f s
  | .smul32 m f => Sys2Proof.Machine.execSmul32 m f s
  | .smul64 m f => Sys2Proof.Machine.execSmul64 m f s
  | .smulhI32 m f => Sys2Proof.Machine.execSmulhI32 m f s
  | .smulhN32 m f => Sys2Proof.Machine.execSmulhN32 m f s
  | .sand m f => Sys2Proof.Machine.execSand m f s
  | .sor m f => Sys2Proof.Machine.execSor m f s
  | .sxor m f => Sys2Proof.Machine.execSxor m f s
  | .sshl m f => Sys2Proof.Machine.execSshl m f s
  | .sshr m f => Sys2Proof.Machine.execSshr m f s
  | .ssar m f => Sys2Proof.Machine.execSsar m f s
  | .sminI32 m f => Sys2Proof.Machine.execSminI32 m f s
  | .sminN32 m f => Sys2Proof.Machine.execSminN32 m f s
  | .smaxI32 m f => Sys2Proof.Machine.execSmaxI32 m f s
  | .smaxN32 m f => Sys2Proof.Machine.execSmaxN32 m f s
  | .scmpEq m f => Sys2Proof.Machine.execScmpEq m f s
  | .scmpNe m f => Sys2Proof.Machine.execScmpNe m f s
  | .scmpLtI32 m f => Sys2Proof.Machine.execScmpLtI32 m f s
  | .scmpLtN32 m f => Sys2Proof.Machine.execScmpLtN32 m f s
  | .scmpLeI32 m f => Sys2Proof.Machine.execScmpLeI32 m f s
  | .scmpLeN32 m f => Sys2Proof.Machine.execScmpLeN32 m f s
  | .scmpGtI32 m f => Sys2Proof.Machine.execScmpGtI32 m f s
  | .scmpGtN32 m f => Sys2Proof.Machine.execScmpGtN32 m f s
  | .scmpGeI32 m f => Sys2Proof.Machine.execScmpGeI32 m f s
  | .scmpGeN32 m f => Sys2Proof.Machine.execScmpGeN32 m f s
  | .ssel m f => Sys2Proof.Machine.execSsel m f s
  | .smovi m f => Sys2Proof.Machine.execSmovi m f s
  | .sldB32 m f => Sys2Proof.Machine.execSldB32 m f s
  | .sldB64 m f => Sys2Proof.Machine.execSldB64 m f s
  | .iadd32 m f => Sys2Proof.Machine.execIadd32 m f s
  | .iadd64 m f => Sys2Proof.Machine.execIadd64 m f s
  | .isub32 m f => Sys2Proof.Machine.execIsub32 m f s
  | .isub64 m f => Sys2Proof.Machine.execIsub64 m f s
  | .imul32 m f => Sys2Proof.Machine.execImul32 m f s
  | .imul64 m f => Sys2Proof.Machine.execImul64 m f s
  | .imad m f => Sys2Proof.Machine.execImad m f s
  | .imulhI32 m f => Sys2Proof.Machine.execImulhI32 m f s
  | .imulhN32 m f => Sys2Proof.Machine.execImulhN32 m f s
  | .iand m f => Sys2Proof.Machine.execIand m f s
  | .ior m f => Sys2Proof.Machine.execIor m f s
  | .ixor m f => Sys2Proof.Machine.execIxor m f s
  | .ishl32 m f => Sys2Proof.Machine.execIshl32 m f s
  | .ishl64 m f => Sys2Proof.Machine.execIshl64 m f s
  | .ishr32 m f => Sys2Proof.Machine.execIshr32 m f s
  | .ishr64 m f => Sys2Proof.Machine.execIshr64 m f s
  | .isar32 m f => Sys2Proof.Machine.execIsar32 m f s
  | .isar64 m f => Sys2Proof.Machine.execIsar64 m f s
  | .iminI32 m f => Sys2Proof.Machine.execIminI32 m f s
  | .iminN32 m f => Sys2Proof.Machine.execIminN32 m f s
  | .imaxI32 m f => Sys2Proof.Machine.execImaxI32 m f s
  | .imaxN32 m f => Sys2Proof.Machine.execImaxN32 m f s
  | .iabs m f => Sys2Proof.Machine.execIabs m f s
  | .popcB32 m f => Sys2Proof.Machine.execPopcB32 m f s
  | .popcB64 m f => Sys2Proof.Machine.execPopcB64 m f s
  | .clzB32 m f => Sys2Proof.Machine.execClzB32 m f s
  | .clzB64 m f => Sys2Proof.Machine.execClzB64 m f s
  | .brev m f => Sys2Proof.Machine.execBrev m f s
  | .bfeI32 m f => Sys2Proof.Machine.execBfeI32 m f s
  | .bfeN32 m f => Sys2Proof.Machine.execBfeN32 m f s
  | .bfi m f => Sys2Proof.Machine.execBfi m f s
  | .icmpI32 m f => Sys2Proof.Machine.execIcmpI32 m f s
  | .icmpN32 m f => Sys2Proof.Machine.execIcmpN32 m f s
  | .icmpI64 m f => Sys2Proof.Machine.execIcmpI64 m f s
  | .icmpN64 m f => Sys2Proof.Machine.execIcmpN64 m f s
  | .iselB32 m f => Sys2Proof.Machine.execIselB32 m f s
  | .iselB64 m f => Sys2Proof.Machine.execIselB64 m f s
  | .mand m f => Sys2Proof.Machine.execMand m f s
  | .mor m f => Sys2Proof.Machine.execMor m f s
  | .mxor m f => Sys2Proof.Machine.execMxor m f s
  | .mnot m f => Sys2Proof.Machine.execMnot m f s
  | .mpopc m f => Sys2Proof.Machine.execMpopc m f s
  | .mfirst m f => Sys2Proof.Machine.execMfirst m f s
  | .vote m f => Sys2Proof.Machine.execVote m f s
  | .shflIdx m f => Sys2Proof.Machine.execShflIdx m f s
  | .shflUp m f => Sys2Proof.Machine.execShflUp m f s
  | .shflDown m f => Sys2Proof.Machine.execShflDown m f s
  | .shflXor m f => Sys2Proof.Machine.execShflXor m f s
  | .rdlane m f => Sys2Proof.Machine.execRdlane m f s
  | .wrlane m f => Sys2Proof.Machine.execWrlane m f s
  | .bcast m f => Sys2Proof.Machine.execBcast m f s
  | .redux m f => Sys2Proof.Machine.execRedux m f s
  | .faddF32 m f => Sys2Proof.Machine.execFaddF32 m f s
  | .faddF16x2 m f => Sys2Proof.Machine.execFaddF16x2 m f s
  | .fsubF32 m f => Sys2Proof.Machine.execFsubF32 m f s
  | .fsubF16x2 m f => Sys2Proof.Machine.execFsubF16x2 m f s
  | .fmulF32 m f => Sys2Proof.Machine.execFmulF32 m f s
  | .fmulF16x2 m f => Sys2Proof.Machine.execFmulF16x2 m f s
  | .ffmaF32 m f => Sys2Proof.Machine.execFfmaF32 m f s
  | .ffmaF16x2 m f => Sys2Proof.Machine.execFfmaF16x2 m f s
  | .fminF32 m f => Sys2Proof.Machine.execFminF32 m f s
  | .fminF16x2 m f => Sys2Proof.Machine.execFminF16x2 m f s
  | .fmaxF32 m f => Sys2Proof.Machine.execFmaxF32 m f s
  | .fmaxF16x2 m f => Sys2Proof.Machine.execFmaxF16x2 m f s
  | .fcmp m f => Sys2Proof.Machine.execFcmp m f s
  | .fclass m f => Sys2Proof.Machine.execFclass m f s
  | .frcp m f => Sys2Proof.Machine.execFrcp m f s
  | .frsq m f => Sys2Proof.Machine.execFrsq m f s
  | .fsqrt m f => Sys2Proof.Machine.execFsqrt m f s
  | .fexp2 m f => Sys2Proof.Machine.execFexp2 m f s
  | .flog2 m f => Sys2Proof.Machine.execFlog2 m f s
  | .fsin m f => Sys2Proof.Machine.execFsin m f s
  | .fcos m f => Sys2Proof.Machine.execFcos m f s
  | .cvtF32 m f => Sys2Proof.Machine.execCvtF32 m f s
  | .cvtF16 m f => Sys2Proof.Machine.execCvtF16 m f s
  | .cvtBf16 m f => Sys2Proof.Machine.execCvtBf16 m f s
  | .cvtInt32 m f => Sys2Proof.Machine.execCvtInt32 m f s
  | .cvtInt64 m f => Sys2Proof.Machine.execCvtInt64 m f s
  | .cvtSmall m f => Sys2Proof.Machine.execCvtSmall m f s
  | .kbpack m f => Sys2Proof.Machine.execKbpack m f s
  | .kbunpack m f => Sys2Proof.Machine.execKbunpack m f s
  | .ldN8 m f => Sys2Proof.Machine.execLdN8 m f s
  | .ldI8 m f => Sys2Proof.Machine.execLdI8 m f s
  | .ldN16 m f => Sys2Proof.Machine.execLdN16 m f s
  | .ldI16 m f => Sys2Proof.Machine.execLdI16 m f s
  | .ldB32 m f => Sys2Proof.Machine.execLdB32 m f s
  | .ldB64 m f => Sys2Proof.Machine.execLdB64 m f s
  | .st8 m f => Sys2Proof.Machine.execSt8 m f s
  | .st16 m f => Sys2Proof.Machine.execSt16 m f s
  | .stB32 m f => Sys2Proof.Machine.execStB32 m f s
  | .stB64 m f => Sys2Proof.Machine.execStB64 m f s
  | .ldsB32 m f => Sys2Proof.Machine.execLdsB32 m f s
  | .ldsB64 m f => Sys2Proof.Machine.execLdsB64 m f s
  | .stsB32 m f => Sys2Proof.Machine.execStsB32 m f s
  | .stsB64 m f => Sys2Proof.Machine.execStsB64 m f s
  | .atom32 m f => Sys2Proof.Machine.execAtom32 m f s
  | .atom64 m f => Sys2Proof.Machine.execAtom64 m f s
  | .red32 m f => Sys2Proof.Machine.execRed32 m f s
  | .red64 m f => Sys2Proof.Machine.execRed64 m f s
  | .pref m f => Sys2Proof.Machine.execPref m f s
  | .cpyT m f => Sys2Proof.Machine.execCpyT m f s
  | .cpyLB32 m f => Sys2Proof.Machine.execCpyLB32 m f s
  | .cpyLB64 m f => Sys2Proof.Machine.execCpyLB64 m f s
  | .cpyLB128 m f => Sys2Proof.Machine.execCpyLB128 m f s
  | .txbInit m f => Sys2Proof.Machine.execTxbInit m f s
  | .txbArrive m f => Sys2Proof.Machine.execTxbArrive m f s
  | .txbExpect m f => Sys2Proof.Machine.execTxbExpect m f s
  | .txbWait m f => Sys2Proof.Machine.execTxbWait m f s
  | .sbq m f => Sys2Proof.Machine.execSbq m f s
  | .poisq m f => Sys2Proof.Machine.execPoisq m f s
  | .poisclr m f => Sys2Proof.Machine.execPoisclr m f s
  | .mma m f => Sys2Proof.Machine.execMma m f s
  | .mzero m f => Sys2Proof.Machine.execMzero m f s
  | .tset m f => Sys2Proof.Machine.execTset m f s
  | .tfield m f => Sys2Proof.Machine.execTfield m f s
  | .tget m f => Sys2Proof.Machine.execTget m f s
  | .benchq m f => Sys2Proof.Machine.execBenchq m f s
  | .wait m f => Sys2Proof.Machine.execWait m f s
  | .wgsync m f => Sys2Proof.Machine.execWgsync m f s
  | .fence m f => Sys2Proof.Machine.execFence m f s
  | .qpush m f => Sys2Proof.Machine.execQpush m f s
  | .qpop m f => Sys2Proof.Machine.execQpop m f s
  | .qtry m f => Sys2Proof.Machine.execQtry m f s
  | .tdone m f => Sys2Proof.Machine.execTdone m f s
  | .fetchw m f => Sys2Proof.Machine.execFetchw m f s
  | .launch m f => Sys2Proof.Machine.execLaunch m f s
  | .sleep m f => Sys2Proof.Machine.execSleep m f s
  | .trap m f => Sys2Proof.Machine.execTrap m f s
  | .rfe m f => Sys2Proof.Machine.execRfe m f s
  | .getsr m f => Sys2Proof.Machine.execGetsr m f s
  | .setsr m f => Sys2Proof.Machine.execSetsr m f s
  | .featq m f => Sys2Proof.Machine.execFeatq m f s
  | .setperf m f => Sys2Proof.Machine.execSetperf m f s
  | .xfer m f => Sys2Proof.Machine.execXfer m f s
  | .kill m f => Sys2Proof.Machine.execKill m f s
  | .brk m f => Sys2Proof.Machine.execBrk m f s
  | .trace m f => Sys2Proof.Machine.execTrace m f s
  | .time m f => Sys2Proof.Machine.execTime m f s
  | .sigq m f => Sys2Proof.Machine.execSigq m f s
  | .coldReset => Sys2Proof.Machine.execColdReset s
  | .warmReset => Sys2Proof.Machine.execWarmReset s
  | .msixHoldoffExpiry => Sys2Proof.Machine.execMsixHoldoffExpiry s
  | .fwUpdate => Sys2Proof.Machine.execFwUpdate s
  | .xinvComplete => Sys2Proof.Machine.execXinvComplete s
  | .debugSaveDeferred => Sys2Proof.Machine.execDebugSaveDeferred s
  | .sampleDump => Sys2Proof.Machine.execSampleDump s
  | .pstatRead => Sys2Proof.Machine.execPstatRead s
  | .sampRead => Sys2Proof.Machine.execSampRead s
  | .errsRead => Sys2Proof.Machine.execErrsRead s
  | .deadlockWindowExpiry => Sys2Proof.Machine.execDeadlockWindowExpiry s
  | .fetchwMailboxComplete => Sys2Proof.Machine.execFetchwMailboxComplete s
  | .sleepExpiry => Sys2Proof.Machine.execSleepExpiry s
  | .boostTokenCharge => Sys2Proof.Machine.execBoostTokenCharge s
  | .telemetryLoss => Sys2Proof.Machine.execTelemetryLoss s
  | .shedClass => Sys2Proof.Machine.execShedClass s
  | .shedPreemptTimeout => Sys2Proof.Machine.execShedPreemptTimeout s
  | .classRestore => Sys2Proof.Machine.execClassRestore s
  | .codeFetchFault => Sys2Proof.Machine.execCodeFetchFault s

end Sys2Proof.Machine
end

