-- ==== Sys2Proof/Machine/Step.lean ====
section
/-! DEFINITION. The step of the machine (log 1), and the placing of one instruction (log 2). -/
namespace Sys2Proof.Machine

/-- One step: a step of the device or its surroundings, or one unit of one fragment. -/
def step (s : State) : Host.Outcome State Fault Refusal := s.move exec

/-- `s` with an instruction placed as the unit that the next step fetches and issues (log 2). -/
def State.withFetchWord (s : State) (nbits w : Nat) : State :=
  s.probe ((List.range maxUnitWords).map fun k => BitVec.ofNat 32 (w % 2 ^ nbits / 2 ^ (32 * k)))

end Sys2Proof.Machine
end

