-- ==== Sys2Proof/Machine/Window.lean ====
section
/-! DEFINITION. What every 8-byte location of window A reads as (R35; Tables 03-2, 11-5, 20-1 to 20-4, 21-1, 26-1, 26-2; R303, R355,
R357, R359, R364). A read changes nothing, but for those that are steps of their own. -/
namespace Sys2Proof.Machine

/-- A bit at a place. -/
def bitAt (b : Bool) (n : Nat) : Nat := if b then 2 ^ n else 0

/-- Eight bytes of a list from a place on. -/
def wordOf (bs : List Byte) (at_ : Nat) : Nat := ofBytes ((bs.drop at_).take 8)

/-- JSTAT (Table 03-2); a head is signed with its record, so SIGNING reads 0. -/
def State.jstat (s : State) : Nat := bitAt s.jfull 0 + bitAt s.held 1

/-- ISL n (Table 20-2), as it reads at a moment. -/
def Island.word (i : Island) (n now : Nat) : Nat :=
  i.stall * 2 ^ 48 + i.vfloor * 2 ^ 40 + i.supply n now * 2 ^ 32 + i.freq * 2 ^ 20 + i.target * 4096 + i.level * 256 + bitAt i.nt 2 + bitAt i.chg 1 +
    bitAt (12 < i.level) 0

/-- CLU n (Table 20-3): CREDIT in two's complement. -/
def Cluster.word (c : Cluster) : Nat := c.rate * 2 ^ 48 + c.w * 2 ^ 24 + (c.credit % 2 ^ 24).toNat

/-- LVL L (R295). -/
def levelWord (l : Nat) : Nat := Config.levelFreq l * 256 + Config.vcode l

/-- PCTL (Table 20-4). -/
def Power.pctl (p : Power) : Nat := p.nomf * 2 ^ 44 + p.resthold * 2 ^ 28 + p.ntenter * 2 ^ 19 + p.ntexit * 1024 + p.tlfrac * 4

/-- DSTAT n (Table 21-1): live fragments not yet HALTED, groups whose every live fragment is HALTED, SAVED, QUIET, HALT; groups that a
save holds count as they stand (R313). -/
def State.dstat (s : State) (c : Nat) : Nat :=
  let gs := s.groups.filter fun g => g.ctx == c && (g.phase == .resident || g.phase == .saved) && !g.fragments.isEmpty
  let halted (g : Group) (e : Nat) : Bool := decide ((g.entry e).st = .halted)
  let pend := (gs.map fun g => (g.fragments.filter fun e => !halted g e).length).sum
  min 65535 pend * 2 ^ 32 + min 65535 (gs.filter fun g => g.fragments.all fun e => halted g e).length * 65536 + bitAt (s.ctx c).saved 2 +
    bitAt (s.quiet c) 1 + bitAt (s.ctx c).halt 0

/-- BP n + 8 (Table 21-1). -/
def Breakpoint.word (b : Breakpoint) : Nat := b.ord * 2 ^ 32 + b.ctx * 2 ^ 26 + b.hits * 1024 + b.action * 2 + bitAt b.en 0

/-- TRC (Table 21-1). -/
def Observe.trcWord (o : Observe) : Nat := o.trcCtx * 2 ^ 58 + o.blmin * 2 ^ 24 + o.tlog * 4 + bitAt o.trcEn 0

/-- The 8 bytes of the journal ring at an offset in it (R35, R44): the newest record of that place, which the ring holds. Model choice
(log 5): a place in which no record was written reads 0; Table 03-7 gives its reset as '—'. -/
def State.ringWord (s : State) (off : Nat) : Nat :=
  let i := off / 64
  let seq := s.jhead - (s.jhead + 524288 - i) % 524288
  if s.jhead < (s.jhead + 524288 - i) % 524288 then 0 else wordOf (s.recordBytes seq) (off % 64)

/-- Power and status registers, 0x300 to 0xFFF. -/
def State.readLow (s : State) (off : Nat) : Nat :=
  if off == 0x308 then s.xdone
  else if off == 0x400 then s.power.pstat
  else if off == 0x408 then s.power.pctl
  else if off == 0x410 then s.power.telem
  else if 0x440 ≤ off && off < 0x480 then s.power.curve[(off - 0x440) / 8]?.getD 0
  else if 0x500 ≤ off && off < 0x708 then s.intmap[(off - 0x500) / 8]?.getD 0
  else if 0x800 ≤ off && off < 0x1000 then
    let p := s.hostwin[(off - 0x800) / 16]?.getD (0, 0)
    if off % 16 == 8 then p.2 else p.1
  else 0

/-- Islands, clusters, levels, debug and link registers, 0x1000 to 0x61FF. -/
def State.readMid (s : State) (off : Nat) : Nat :=
  if off < 0x1000 + 8 * 480 then (s.power.isl[(off - 0x1000) / 8]?.map fun i => i.word ((off - 0x1000) / 8) s.time).getD 0
  else if 0x2000 ≤ off && off < 0x2000 + 8 * 96 then (s.power.clu[(off - 0x2000) / 8]?.map Cluster.word).getD 0
  else if 0x3000 ≤ off && off < 0x3080 then levelWord ((off - 0x3000) / 8)
  else if 0x4100 ≤ off && off < 0x4300 then s.dstat ((off - 0x4100) / 8)
  else if 0x4400 ≤ off && off < 0x4500 then
    let b := s.obs.bps[(off - 0x4400) / 16]?.getD Breakpoint.reset
    if off % 16 == 8 then b.word else b.tag
  else if off == 0x4600 then s.obs.sampWord
  else if off == 0x4608 then s.obs.sbuf
  else if off == 0x4700 then s.obs.trcWord
  else if off == 0x4708 then s.obs.tbase
  else if off == 0x4710 then s.obs.twr
  else if off == 0x4718 then s.obs.trd
  else if 0x5000 ≤ off && off < 0x5060 then (s.links[(off - 0x5000) / 8]?.map Link.word).getD 0
  else if off == 0x5100 then s.devnum
  else if off == 0x5108 then s.lto
  else if off == 0x5110 then s.errsCor * 2 ^ 32 + s.errsUnc
  else if 0x6000 ≤ off && off < 0x6200 then wordOf (Config.idCert ++ List.replicate 512 0) (off - 0x6000)
  else 0

/-- What the 8 bytes at an offset of window A read as; unlisted offsets and the intake slots read 0 (R35). -/
def State.windowA (s : State) (off : Nat) : Nat :=
  if off % 8 != 0 then 0
  else if off == 0 then s.jhead
  else if off == 8 then s.jold
  else if off == 0x10 then s.jack
  else if off == 0x18 then s.jstat
  else if off == 0x20 then s.boots
  else if off < 0x1000 then s.readLow off
  else if off < 0x10000 then s.readMid off
  else if 0x14000 ≤ off && off < 0x14800 then (s.accept[(off - 0x14000) / 8]?.map Accept.word).getD 0
  else if 0x18000 ≤ off && off < 0x18100 then wordOf (s.heads[(off - 0x18000) / 128]?.getD []) (off % 128)
  else if 0x1000000 ≤ off && off < 0x3000000 then s.ringWord (off - 0x1000000)
  else 0

end Sys2Proof.Machine
end

