-- ==== Sys2Proof/Safety.lean ====
section
/-! DEFINITION. What a safe run is, in the terms of the statements: the queue that never overflows, and the conditions on
state and operands under which nothing delays a unit. -/
namespace Sys2Proof.Safety
open Sys2Proof.Machine

/-- The on-die queue of R44 holds at most its 4,096 records. -/
def QueueOk (s : State) : Prop := s.jqueue.length ≤ 4096

/-- The unit after a fragment's unit (R97). -/
def nextPc (g : Group) (e : Nat) (p : Parts) : Word := (g.entry e).pc + BitVec.ofNat 32 (4 * p.words)

/-- The fragment's unit is in issue and nothing at its boundary delays it: group `g` and entry `e` issue `i`, whose parts
`p` are legal for the group (R115); no data fault (R200) waits at the boundary and it reads no place with an error (R364); no register
of it is busy (R202), and no acquire holds it (R245); it touches no unmatched `mma` (R231) and no register that a transfer has given
away (R341); and if it is a stop site, no breakpoint, halt or transfer is concerned with it (R98). -/
structure Clear (s : State) (i : Instr) (g : Group) (e : Nat) (p : Parts) : Prop where
  cur : s.cur = some (g.id, e)
  group : s.group? g.id = some g
  fragment : (g.entry e).isFragment = true
  parts : i.parts = some p
  legal : p.check = none
  noLate : (g.late.any fun f => (f.lanes g.live &&& (g.entry e).mask) != 0) = false
  noErr : g.softErr.contains (.entry e) = false
  free : s.unitHeld g e p = false
  noRead : g.softReads p = []
  untouched : g.touched p (execLanes g e p) = []
  unmoved : g.movedRegs p = []
  noStop : (p.mods.stop && s.stopMatters g e) = false

/-- The fragment as its unit sees it. -/
def frag (g : Group) (e : Nat) (p : Parts) : Frag := { g := g, e := e, x := g.entry e, m := p.mods, next := nextPc g e p }

/-- The state in which the fragment has moved past its unit, which has issued. -/
def past (s : State) (g : Group) (e : Nat) (p : Parts) : State := { s with issued := false }.begun g.id e (nextPc g e p)

/-- A unit whose whole effect is on its group: `upd` after the fragment has moved past it. -/
def retired (s : State) (g : Group) (e : Nat) (p : Parts) (upd : Group → Group) : State :=
  { (past s g e p).modGroup g.id upd with issued := true }

/-! ## What an answer says -/

/-- A unit whose whole effect is on registers of its group: when nothing delays it, it completes with `upd`, and everything
else is as it was, except that the fragment has moved past it. -/
def Does (i : Instr) (upd : Frag → Group → Group) : Prop :=
  ∀ s g e p, Clear s i g e p → exec i s = .next (retired s g e p (upd (frag g e p)))

/-- A unit that completes with an effect on more than its group. -/
def Completes (i : Instr) (P : Frag → State → Prop) (eff : Frag → State → State) : Prop :=
  ∀ s g e p, Clear s i g e p → P (frag g e p) (past s g e p) →
    exec i s = .next { eff (frag g e p) (past s g e p) with issued := true }

/-- A unit that completes and after which ends settle, while the on-die queue has room for what it posts (R44). -/
def Posts (i : Instr) (P : Frag → State → Prop) (eff : Frag → State → State) : Prop :=
  ∀ s g e p, Clear s i g e p → P (frag g e p) (past s g e p) →
    (eff (frag g e p) (past s g e p)).finish.jqueue.length ≤ max 4096 s.jqueue.length →
    exec i s = .next (eff (frag g e p) (past s g e p)).finish

/-- A unit that waits at its PC and changes nothing. -/
def Waits (i : Instr) (P : Frag → State → Prop) : Prop :=
  ∀ s g e p, Clear s i g e p → P (frag g e p) (past s g e p) → exec i s = .next { s with issued := false }

/-- A unit that takes a trap (R280), while the on-die queue has room for what that posts (R44). -/
def Traps (i : Instr) (P : Frag → State → Prop) (t : Frag → Trap) : Prop :=
  ∀ s g e p, Clear s i g e p → P (frag g e p) (past s g e p) →
    (State.trapped g.id e (g.entry e) (t (frag g e p)) (past s g e p) (past s g e p)).jqueue.length ≤ max 4096 s.jqueue.length →
    exec i s = .next (State.trapped g.id e (g.entry e) (t (frag g e p)) (past s g e p) (past s g e p))

/-- A step of the device that happens with effect `t`, after which ends settle, while the on-die queue has room (R44). -/
def Steps (i : Instr) (s t : State) : Prop :=
  t.settle.jqueue.length ≤ max 4096 s.jqueue.length → exec i s = .next t.settle

/-! ## Values in the spec's terms -/

/-- An S pair as one 64-bit value: the even register holds bits [31:0]. -/
def s64 (g : Group) (r : Nat) : Quad := pairOf (g.getS (r + 1)) (g.getS r)

/-- A V pair of a lane as one 64-bit value. -/
def v64 (g : Group) (r l : Nat) : Quad := pairOf (g.getV (r + 1) l) (g.getV r l)

/-- `imm7` or `imm31` of the second source, sign-extended (R101). -/
def immVal (w : Nat) (m : Mods) (f : RF) : BitVec w :=
  if f.k = 2 then f.c.signExtend w else (m.i.getD 0 ++ f.c).signExtend w

/-- The first source: an S register for a uniform unit or under U, else a V register of the lane. -/
def b32 (uni : Bool) (u : Frag) (f : RF) (l : Nat) : Word := if uni then u.g.getS f.b.toNat else u.g.getV f.b.toNat l

/-- The first source as a pair. -/
def b64 (uni : Bool) (u : Frag) (f : RF) (l : Nat) : Quad := if uni then s64 u.g f.b.toNat else v64 u.g f.b.toNat l

/-- The second source (R101). -/
def c32 (uni : Bool) (u : Frag) (f : RF) (l : Nat) : Word :=
  if f.k = 0 then (if uni then u.g.getS f.c.toNat else u.g.getV f.c.toNat l)
  else if f.k = 1 then u.g.getS f.c.toNat else immVal 32 u.m f

/-- The second source as a pair. -/
def c64 (uni : Bool) (u : Frag) (f : RF) (l : Nat) : Quad :=
  if f.k = 0 then (if uni then s64 u.g f.c.toNat else v64 u.g f.c.toNat l)
  else if f.k = 1 then s64 u.g f.c.toNat else immVal 64 u.m f

/-- The fourth operand: D4, or the destination without `modx` (R110). -/
def d32 (uni : Bool) (u : Frag) (f : RF) (l : Nat) : Word :=
  let r := match u.m.x with | some x => x.d4.toNat | none => f.a.toNat
  if uni then u.g.getS r else u.g.getV r l

/-- An exact integer narrowed by RND: 000 wraps, 001 saturates the value of the signed operands, 010 that of the unsigned
ones (R131, R134). -/
def rounded (w : Nat) (rnd : BitVec 3) (signed unsigned : Int) : BitVec w :=
  if rnd = 1 then BitVec.ofInt w (max (-(2 ^ (w - 1))) (min (2 ^ (w - 1) - 1) signed))
  else if rnd = 2 then BitVec.ofInt w (max 0 (min (2 ^ w - 1) unsigned))
  else BitVec.ofInt w signed

/-- The sum, difference and product of two values under RND. -/
def sumOf (w : Nat) (u : Frag) (b c : BitVec w) : BitVec w := rounded w u.m.modx.rnd (b.toInt + c.toInt) (b.toNat + c.toNat)
def diffOf (w : Nat) (u : Frag) (b c : BitVec w) : BitVec w :=
  rounded w u.m.modx.rnd (b.toInt - c.toInt) ((b.toNat : Int) - c.toNat)
def prodOf (w : Nat) (u : Frag) (b c : BitVec w) : BitVec w := rounded w u.m.modx.rnd (b.toInt * c.toInt) (b.toNat * c.toNat)

/-- A relation by its COND code on signed or unsigned values (Table 07-8): eq, ne, lt, le, gt, ge. -/
def condOf {w : Nat} (code : Nat) (signed : Bool) (b c : BitVec w) : Bool :=
  match code with
  | 0 => b == c
  | 1 => b != c
  | 2 => if signed then b.slt c else b.ult c
  | 3 => if signed then b.sle c else b.ule c
  | 4 => if signed then c.slt b else c.ult b
  | _ => if signed then c.sle b else c.ule b

/-- A word that is 1 when a condition holds, else 0. -/
def flag (b : Bool) : Word := if b then 1 else 0

/-- A result of a uniform unit in S registers: one, or a pair. -/
def toS (a : BitVec 7) (x : Word) (g : Group) : Group := g.setS a.toNat x
def toS64 (a : BitVec 7) (x : Quad) (g : Group) : Group := (g.setS a.toNat (loWord x)).setS (a.toNat + 1) (hiWord x)

/-- A result of a vector unit: V[a] in each executed lane, zero in each other lane of the fragment under Z (R71, R120); under
U one S register. -/
def toV (u : Frag) (a : BitVec 7) (x : Nat → Word) (g : Group) : Group :=
  if u.m.modx.u then g.setS a.toNat (x 0)
  else g.setV a.toNat (u.lanes ||| u.zeroed) fun l => if laneIn u.lanes l then x l else 0

/-- A 64-bit result of a vector unit. -/
def toV64 (u : Frag) (a : BitVec 7) (x : Nat → Quad) (g : Group) : Group :=
  if u.m.modx.u then (g.setS a.toNat (loWord (x 0))).setS (a.toNat + 1) (hiWord (x 0))
  else (g.setV a.toNat (u.lanes ||| u.zeroed) fun l => if laneIn u.lanes l then loWord (x l) else 0).setV (a.toNat + 1)
    (u.lanes ||| u.zeroed) fun l => if laneIn u.lanes l then hiWord (x l) else 0

/-- A result in a mask register: executed lanes by a test, zero in the unselected ones under Z (R136, R137). -/
def toM (u : Frag) (a : BitVec 7) (x : Nat → Bool) (g : Group) : Group :=
  g.setM (a.toNat % 16) (u.lanes ||| u.zeroed) (maskOf fun l => laneIn u.lanes l && x l)

/-- Set bits of a bit vector. -/
def bitCount {w : Nat} (x : BitVec w) : Nat := ((List.range w).filter fun i => x.getLsbD i).length

/-- Leading zero bits of a bit vector: how many of its top bits, from the highest down, are zero. -/
def leadingZeros {w : Nat} (x : BitVec w) : Nat := ((List.range w).takeWhile fun i => !x.getMsbD i).length

/-- Position and length of the field of `bfe` and `bfi` (R135). -/
def fieldPos (c : Word) : Nat := (c.extractLsb' 0 5).toNat
def fieldLen (c : Word) : Nat := min (c.extractLsb' 8 6).toNat (32 - fieldPos c)

/-- `n` ones. -/
def ones32 (n : Nat) : Word := BitVec.ofNat 32 (2 ^ n - 1)

/-! ## Collectives -/

/-- The live lanes that a collective names (R140). -/
def namedLanes (u : Frag) : Word := u.named &&& u.g.live

/-- The fragments whose wait a collective's arrival finds in mismatch (R142): waiting at another PC, each naming lanes of the
other. -/
def mismatched (u : Frag) : List Nat :=
  (u.g.waiting u.e).filter fun i =>
    (u.g.entry i).pc != u.x.pc && ((u.g.entry i).named &&& u.x.mask) != 0 && (u.named &&& (u.g.entry i).mask) != 0

/-- Whether the collective of a fragment is in mismatch: found so by another's arrival, or by its own. -/
def inMismatch (u : Frag) : Bool := u.x.clash == some u.x.pc || !(mismatched u).isEmpty

/-- The fragments that have arrived at a collective: those that hold a live lane that it names, and the one that issues it, if it
does or no lane named is live (R140). -/
def gathered (u : Frag) : List Nat :=
  entryIds.filter fun i =>
    (i == u.e && (namedLanes u == 0 || (u.x.mask &&& namedLanes u) != 0)) ||
      ((u.g.waiting u.e).contains i && (u.g.entry i).pc == u.x.pc && ((u.g.entry i).mask &&& namedLanes u) != 0)

/-- Their lanes. -/
def gatheredLanes (u : Frag) : Word := (gathered u).foldl (fun (m : Word) i => m ||| (u.g.entry i).mask) 0

/-- A collective that cannot complete yet waits, and every fragment that has arrived names what this one names; a fragment that
holds none of those lanes does not wait (R140). -/
def awaits (u : Frag) (g : Group) : Group :=
  let h := (gathered u).foldl (fun (h : Group) i => h.modEntry i fun y => { y with named := u.named }) g
  if (gathered u).contains u.e then h.chg u.e .collective fun y =>
    { y with pc := u.x.pc, seenB := u.x.seenB, seenT := u.x.seenT, seenO := u.x.seenO } else h

/-- A collective that completes for all its fragments (R81): they continue after it, fused when they have one PARENT and JOIN,
and a fusion of several drops the reuse latch (R74) and traces the new MASK (R315). -/
def togetherly (body : Frag → Word → Word → Group → Group) (u : Frag) (s : State) : State :=
  let s1 := s.modGroup u.g.id fun g => (body u (namedLanes u) (gatheredLanes u) g).afterCollective u.e (gathered u) (gatheredLanes u) u.next
  if (gathered u).length != 1 && ((s1.group? u.g.id).map fun g => (g.entry ((gathered u).headD u.e)).mask == gatheredLanes u).getD false
  then (s1.dropLatch u.g.id).maskPacket u.g.id ((gathered u).headD u.e) (gatheredLanes u) 3
  else s1

/-- What a collective does (R140 to R142) with `body` as its operation, of the lanes that execute and the lanes gathered: alone
without MSEL; else it traps in mismatch, waits for the lanes it names, or completes for all that have gathered. -/
def Gathers (i : Instr) (body : Frag → Word → Word → Group → Group) : Prop :=
  Completes i (fun u _ => u.m.modx.msel = 0) (fun u s => s.modGroup u.g.id (body u u.x.mask u.x.mask)) ∧
  Completes i (fun u _ => u.m.modx.msel ≠ 0 ∧ inMismatch u = false ∧ namedLanes u &&& ~~~gatheredLanes u ≠ 0)
    (fun u s => s.modGroup u.g.id (awaits u)) ∧
  Completes i (fun u _ => u.m.modx.msel ≠ 0 ∧ inMismatch u = false ∧ namedLanes u &&& ~~~gatheredLanes u = 0) (togetherly body) ∧
  ∀ s g e p, Clear s i g e p → p.mods.modx.msel ≠ 0 → inMismatch (frag g e p) = true →
    let t := State.trapped g.id e (g.entry e) (Trap.at_ trapCollective (g.entry e).pc)
      ((past s g e p).modGroup g.id fun h => (mismatched (frag g e p)).foldl Group.mismatch h) (past s g e p)
    t.jqueue.length ≤ max 4096 s.jqueue.length → exec i s = .next t

/-- What a lane reads from lane `k` (R141, R144): the word of an executed lane of the group, else its own. -/
def picked (u : Frag) (f : RF) (ex : Word) (l k : Nat) : Word :=
  if k < u.g.gw && laneIn ex k then u.g.getV f.b.toNat k else u.g.getV f.b.toNat l

/-- Lanes that a collective zeroes under Z. -/
def unread (u : Frag) (ex union : Word) : Word := if u.m.modx.z then union &&& ~~~ex else 0

/-- The operation of `redux` by its code (Table 07-8). -/
def reduxOp (code : Nat) (a b : Word) : Word :=
  match code with
  | 0 => a + b
  | 1 => if b.slt a then b else a
  | 2 => if b.ult a then b else a
  | 3 => if a.slt b then b else a
  | 4 => if a.ult b then b else a
  | 5 => a &&& b
  | 6 => a ||| b
  | _ => a ^^^ b

/-- Its identity (R144). -/
def reduxId (code : Nat) : Word :=
  match code with
  | 1 => 0x7FFFFFFF
  | 2 | 5 => 0xFFFFFFFF
  | 3 => 0x80000000
  | _ => 0

/-! ## Floating-point operands -/

/-- The second source of a floating-point instruction (R159). -/
def fc32 (uni half : Bool) (u : Frag) (f : RF) (l : Nat) : Word :=
  if f.k = 0 then (if uni then u.g.getS f.c.toNat else u.g.getV f.c.toNat l)
  else if f.k = 1 then u.g.getS f.c.toNat
  else if f.k = 2 then fimm half f.c.toInt
  else (u.m.i.getD 0 ++ f.c) ++ (0 : BitVec 1)

/-- The low and the high half of a word. -/
def half0 (x : Word) : Nat := (x.extractLsb' 0 16).toNat
def half1 (x : Word) : Nat := (x.extractLsb' 16 16).toNat

/-- A result of two FP16 elements (R162). -/
def twice (e0 e1 : Nat) : Word := BitVec.ofNat 16 e1 ++ BitVec.ofNat 16 e0

/-- Whether one value is below another, both exact: no NaN is, -infinity is below all else, and finite values compare as integers
at their lower exponent. -/
def valueLess : Machine.Num → Machine.Num → Bool
  | .inf s, .inf t => s && !t
  | .inf s, .fin _ _ _ => s
  | .fin _ _ _, .inf t => !t
  | .fin s m e, .fin t n k => decide (scaled s m e (min e k) < scaled t n k (min e k))
  | _, _ => false

/-- Whether two values are zeros of opposite sign. -/
def zerosApart : Machine.Num → Machine.Num → Bool
  | .fin s 0 _, .fin t 0 _ => s != t
  | _, _ => false

/-- R163: the smaller or, if `big`, the larger operand, exactly; a NaN hides no number; of zeros of opposite sign the one of the
asked sign. -/
def oneOf (f : FFmt) (big : Bool) (b c : Nat) : Nat :=
  if f.unpack b = .nan ∧ f.unpack c = .nan then f.nan
  else if f.unpack b = .nan then c
  else if f.unpack c = .nan then b
  else if zerosApart (f.unpack b) (f.unpack c) then f.sgn (!big)
  else if valueLess (f.unpack b) (f.unpack c) then (if big then c else b)
  else if big then b else c

/-- The source of a conversion by its code (R169, Table 07-8). -/
def cvtOf (u : Frag) (f : RF) (l : Nat) : CvtVal :=
  let b := b32 u.m.modx.u u f l
  let p := b64 u.m.modx.u u f l
  match f.c.toNat % 16 with
  | 0 => .int (b.setWidth 8).toInt
  | 1 => .int (b.setWidth 8).toNat
  | 2 => .int (b.setWidth 16).toInt
  | 3 => .int (b.setWidth 16).toNat
  | 4 => .int b.toInt
  | 5 => .int b.toNat
  | 6 => .int p.toInt
  | 7 => .int p.toNat
  | 8 => .float (fp16.unpack (half0 b))
  | 9 => .float (bf16.unpack (half0 b))
  | 10 => .float (fp32.unpack b.toNat)
  | _ => .int (b.setWidth 4).toInt

/-- One half of a register replaced, the other kept (Table 10-6): subtype 1 names the high half. -/
def intoHalf (f : RF) (old : Word) (y : Nat) : Word :=
  if f.c.toNat / 16 = 1 then BitVec.ofNat 16 y ++ old.extractLsb' 0 16 else old.extractLsb' 16 16 ++ BitVec.ofNat 16 y

/-- The words of a block that a fragment holds; others are zero (R172, R173). -/
def blockOf (u : Frag) (f : RF) (j : Nat) : List Word :=
  (List.range 16).map fun i => if laneIn u.x.mask (16 * j + i) then u.g.getV f.b.toNat (16 * j + i) else 0

/-! ## Control -/

/-- A change of the fragment's PC for all its lanes. -/
def goes (u : Frag) (pc : Word) (g : Group) : Group := g.modEntry u.e fun y => { y with pc := pc }

/-- How many entries a split into paths creates: one for each nonempty path but the first. -/
def created (ps : List BPath) : Nat := (ps.filter fun p => p.lanes != 0).length - 1

/-- The group after `split` over paths (R120), if it has the entries that this takes. -/
def splitInto (u : Frag) (s : State) (ps : List BPath) : Option Group :=
  (s.group? u.g.id).bind fun g => g.split u.e (ps.map fun p => (p.lanes, p.pc))

/-- What a branch over paths does: it splits the fragment, writes its packets, and then `after` acts on the group. -/
def branched (ps : Frag → State → List BPath) (after : Group → Group) (u : Frag) (s : State) : State :=
  match splitInto u s (ps u s) with
  | some g => (u.branchTrace (s.modGroup u.g.id fun _ => g) (ps u s)).modGroup u.g.id after
  | none => s

/-- A branch over paths completes while its split takes no more than 72 entries (R78). -/
def Branches (i : Instr) (ps : Frag → State → List BPath) (after : Group → Group) : Prop :=
  Completes i (fun u s => u.g.used + created (ps u s) ≤ 72) (branched ps after)

/-- Whether a `brc` is divergent and the KX2 may fold it (R82): a target within 16 words, no yield hint, and between the branch and
where its paths meet no word that stops, gathers lanes, parks, branches or ends lanes. -/
def mayFold (f : IF) (u : Frag) (s : State) : Bool := u.foldsBrc s f

/-- A folded branch (R82): the fragment keeps its entry. At a branch forward it runs the lanes that go on, and those of the target
wait for it there; at a branch backward the lanes of the target run first, and the others wait after the branch. -/
def foldedInto (f : IF) (u : Frag) (s : State) : State :=
  let taken := u.x.mask &&& u.g.mreg u.x.mask f.a.toNat
  let s1 := s.modGroup u.g.id fun g => g.modEntry u.e fun y =>
    if u.next.toNat ≤ (u.target f.imm).toNat then
      { y with mask := u.x.mask &&& ~~~taken, pc := u.next,
               fold := { meet := u.target f.imm, lanes := u.x.mask &&& ~~~(u.x.mask &&& ~~~taken), inH := y.inH } :: y.fold }
    else
      { y with mask := taken, pc := u.target f.imm,
               fold := { meet := u.next, lanes := u.x.mask &&& ~~~taken, inH := y.inH } :: y.fold }
  u.branchTrace s1 (u.brcPaths f)

/-- The paths of `brc` (R123). -/
def brcPaths (f : IF) (u : Frag) : List BPath :=
  let t := u.x.mask &&& u.g.mreg u.x.mask f.a.toNat
  [{ lanes := t, pc := u.target f.imm, tord := 0, tdw := 1 }, { lanes := u.x.mask &&& ~~~t, pc := u.next, tord := 0, tdw := 0 }]

/-- The paths of `jmpi` and `ret` (R126): one for each value of V[b]. -/
def indirectPaths (f : RF) (u : Frag) (s : State) : List BPath :=
  valuePaths (s.versionOf u.g) u.x.mask fun l => u.g.getV f.b.toNat l

/-! ## Loads, stores and atomics -/

/-- What an access does: it waits, it issues when every lane passes its checks, or it issues the lanes that pass and raises
ACCESS_FAULT for the others, with the masks and causes of its record (R198, R199). -/
def Accesses (i : Instr) (a : Frag → Acc) (pre : Frag → Group → Group) : Prop :=
  Waits i (fun u s => u.mustWait s (a u) = true) ∧
  Completes i (fun u s => u.mustWait s (a u) = false ∧ u.failing s (a u) = []) (fun u s => u.accessed s (a u) (pre u)) ∧
  ∀ s g e p, Clear s i g e p →
    let u := frag g e p
    let s0 := past s g e p
    u.mustWait s0 (a u) = false → ∀ l c rest, u.failing s0 (a u) = (l, c) :: rest →
      let t := State.trapped g.id e (g.entry e) (u.accessTrap s0 (a u) l) (u.accessed s0 (a u) (pre u)) s0
      t.jqueue.length ≤ max 4096 s.jqueue.length → exec i s = .next t

/-- The lane address of an M-format access (R103, R197): the pair plus the offset in units of the access's size. -/
def laneAddr (u : Frag) (f : MF) (unit l : Nat) : Nat :=
  ((if u.m.modx.u then s64 u.g f.addr.toNat else v64 u.g f.addr.toNat l) + BitVec.ofInt 64 (f.off.toInt * unit)).toNat

/-- A lane's data of an M-format access, from register `r` on. -/
def laneData (u : Frag) (wide : Bool) (r l : Nat) : Nat :=
  if wide then (if u.m.modx.u then s64 u.g r else v64 u.g r l).toNat else (if u.m.modx.u then u.g.getS r else u.g.getV r l).toNat

/-- A load of `size` bytes (R203), of scratchpad only for `lds`. -/
def loadAcc (f : MF) (size : Nat) (signed only : Bool) (u : Frag) : Acc :=
  { kind := .load f.data.toNat u.m.modx.u signed, size := size, lanes := u.accLanes u.m.modx.u, addr := laneAddr u f size,
    data := fun _ => 0, data2 := fun _ => 0, acq := u.isAcq, rel := false, store := false, uni := u.m.modx.u
    check := fun s l => if only then spadOnly (laneAddr u f size l) (s.resolve u.g (laneAddr u f size l) size size false)
                        else s.resolve u.g (laneAddr u f size l) size size false }

/-- A store of `size` bytes (R203), to scratchpad only for `sts`. -/
def storeAcc (f : MF) (size : Nat) (only : Bool) (u : Frag) : Acc :=
  { kind := .store, size := size, lanes := u.accLanes u.m.modx.u, addr := laneAddr u f size
    data := laneData u (size == 8) f.data.toNat, data2 := fun _ => 0, acq := false, rel := u.isRel, store := true, uni := u.m.modx.u
    check := fun s l => if only then spadOnly (laneAddr u f size l) (s.resolve u.g (laneAddr u f size l) size size true)
                        else s.resolve u.g (laneAddr u f size l) size size true }

/-- An atomic, with or without a result (R206, R207): its address is the pair, and space 0x3 carries only FetchAdd, Swap and
CAS. -/
def atomAcc (f : MF) (size : Nat) (result : Bool) (u : Frag) : Acc :=
  let aop := f.off.toNat / 32
  let p (l : Nat) : Nat := laneData u true f.addr.toNat l
  { kind := .atom aop f.data.toNat u.m.modx.u result, size := size, lanes := u.accLanes u.m.modx.u, addr := p
    data := laneData u (size == 8) f.data.toNat, data2 := laneData u (size == 8) (f.data.toNat + if size == 8 then 2 else 1)
    acq := u.isAcq, rel := u.isRel, store := !result, uni := u.m.modx.u
    check := fun s l => match s.resolveRmw u.g (p l) size size with
      | .error c => .error c
      | .ok t => if ptrTag (p l) == 3 && !(aop == 0 || aop == 9 || aop == 10) then .error causeHost else .ok t }

/-- A load of `size` bytes at the address of an S pair, into S registers or a T register (R133, R235). -/
def uniformAcc (f : MF) (size : Nat) (kind : OpKind) (acq : Frag → Bool) (u : Frag) : Acc :=
  let p := (s64 u.g f.addr.toNat + BitVec.ofInt 64 (f.off.toInt * size)).toNat
  { kind := kind, size := size, lanes := u.accLanes true, addr := fun _ => p, data := fun _ => 0, data2 := fun _ => 0
    acq := acq u, rel := false, store := false, uni := true, check := fun s _ => s.resolve u.g p size size false }

/-- The lanes of a result that Z zeroes (R203, R206). -/
def zeroing (wide : Bool) (r : Nat) (u : Frag) (g : Group) : Group := g.putV false wide r 0 u.accZero fun _ => 0

/-! ## Copies and barriers -/

/-- The operation of a tensor copy and its Sideboard entries, entered if every Sideboard has room (R190, R209). -/
def copyStarted (f : RF) (bar : Option Nat) (u : Frag) (s : State) : Option State :=
  let dt := u.g.getT f.a.toNat
  let st := u.g.getT f.b.toNat
  s.register { u.newOp s (.copyT dt st) with
      bar := bar, sectors := copySectors (shapeOf dt)
      privs := privSpans true ((shapeOf dt).dataSpan.toList ++ (shapeOf dt).scaleSpan.toList) ++
        privSpans false ((shapeOf st).dataSpan.toList ++ (shapeOf st).scaleSpan.toList) }
    (copyEntries u.g.core (shapeOf dt) (shapeOf st))

/-- Tensor copies of the fragment's core in flight (R201). -/
def inFlight (u : Frag) (s : State) : Nat := (s.ops.filter fun p => p.core == u.g.core && p.kind.akind == 1 && !p.saved).length

/-- The lanes of a lane copy, whether each may go on (R211). -/
def copyLanesFit (f : RF) (n : Nat) (u : Frag) (s : State) : Bool :=
  (lanesOf (u.accLanes false)).all fun l => (s.pairCheck u.g (v64 u.g f.a.toNat l).toNat (v64 u.g f.b.toNat l).toNat n).isNone

/-- The operation of a lane copy of `n` bytes and its Sideboard entries, entered if every Sideboard has room (R190, R211). -/
def laneCopyStarted (f : RF) (n : Nat) (bar : Option Nat) (u : Frag) (s : State) : Option State :=
  let ls := lanesOf (u.accLanes false)
  let dst (l : Nat) : Nat := (v64 u.g f.a.toNat l).toNat
  let src (l : Nat) : Nat := (v64 u.g f.b.toNat l).toNat
  let all (side : Nat → Nat) : List (Nat × Nat) := ls.map fun l => (side l, side l + n)
  let span (side : Nat → Nat) : List (Nat × Nat × Nat) := spanCover (spadSpans u.g.core (all side))
  if ls.isEmpty then some s
  else (s.register { u.newOp s .copyL with
      size := n, bar := bar, uni := false, privs := privSpans true (all dst) ++ privSpans false (all src)
      accs := ls.map fun l => { lane := l, addr := dst l, tgt := .bytes 0 none, data := [], data2 := bytesOf 8 (src l), st := .done, way := .none }
      sectors := ls.map fun l => { addr := dst l, scale := false, landed := false, lost := false, fail := none } }
    ((span dst).map (fun x => (x.1, x.2.1, x.2.2, true, 0)) ++ (span src).map fun x => (x.1, x.2.1, x.2.2, false, 1))).map fun s1 =>
      s1.modGroup u.g.id fun g => { g with cp := g.cp + 1 }

/-- What a lane copy does when every lane fits: it waits for room, or it is outstanding. -/
def LaneCopies (i : Instr) (f : RF) (n : Nat) : Prop :=
  ∀ bar, (Waits i fun u s => u.barCheck s f = .ok bar ∧ copyLanesFit f n u s = true ∧
      (127 ≤ u.g.cp ∨ laneCopyStarted f n bar u s = none)) ∧
    Completes i (fun u s => u.barCheck s f = .ok bar ∧ copyLanesFit f n u s = true ∧ u.g.cp < 127 ∧
      laneCopyStarted f n bar u s ≠ none) fun u s => (laneCopyStarted f n bar u s).getD s

/-- A barrier instruction reaches the barrier at key `k`: the pointer passes its checks, and no earlier access of the core to
its bytes is outstanding (R212, R241). -/
def Reaches (f : MF) (k : Nat) (u : Frag) (s : State) : Prop :=
  s.txbKey u.g (u.txbAddr f) = .ok k ∧ s.pendingAt u.g.core s.nextId (.bytes k none) 16 = false

/-- An event that a barrier can take: no ERR, and no overflow (Table 11-8). -/
def takes (e : TxbEvent) (w : Nat) : Bool := !txbBad w && (txbApply e w).isSome

/-- The lines of scratchpad that `poisq` and `poisclr` name (R216). -/
def poisLine (f : RF) (u : Frag) (l : Nat) : Bool :=
  (u.poisCores f).any fun x => x.1 * 8192 + x.2.1 / 64 ≤ l && l ≤ x.1 * 8192 + (x.2.2 - 1) / 64

/-! ## Matrix units -/

/-- A shape register with the `w` bits from `lo` on replaced by the low bits of a value. -/
def replaced (t : BitVec 512) (lo w v : Nat) : BitVec 512 :=
  let k : BitVec 512 := BitVec.ofNat 512 (2 ^ w - 1) <<< lo
  (t &&& ~~~k) ||| ((BitVec.ofNat 512 v <<< lo) &&& k)

/-- A field of a shape register by its code (Tables 13-1 and 13-6): BASE and SBASE whole, ORIG sign-extended, others zero-extended. -/
def fieldWord (t : BitVec 512) (code : Nat) : Word :=
  if 18 ≤ code then ((t >>> (shapeField code).1).setWidth 20).signExtend 32
  else BitVec.ofNat 32 ((t >>> (shapeField code).1).toNat % 2 ^ (shapeField code).2.1)

/-- The shapes of an `mma` are those of A and B, in registers that exist, and RND is 000 unless A is an integer format (steps 1
to 4 of R233). -/
structure MmaLegal (f : RF) (u : Frag) (s : State) : Prop where
  rnd : u.m.modx.rnd = 0 ∨ isInt (shapeOf (u.g.getT f.b.toNat)).fmt = true
  regs : f.a.toNat + 31 < (s.versionOf u.g).vregs
  shapes : mmaShapesOk (shapeOf (u.g.getT f.b.toNat)) (shapeOf (u.g.getT f.c.toNat)) = true
  bases : u.mmaBad s (shapeOf (u.g.getT f.b.toNat)) (shapeOf (u.g.getT f.c.toNat)) = none

/-- The operation of an `mma` and its four reads in the Sideboards, entered if every Sideboard has room (R190, R226). -/
def mmaStarted (f : RF) (u : Frag) (s : State) : Option State :=
  s.register (u.newOp s (.mma (u.g.getT f.b.toNat) (u.g.getT f.c.toNat) f.a.toNat u.m.modx.rnd.toNat u.x.mask))
    (mmaEntries u.g.core (shapeOf (u.g.getT f.b.toNat)) (shapeOf (u.g.getT f.c.toNat)))

/-- The record of an `mma` that has issued and that no `wait` has matched. -/
def mmaIssued (f : RF) (u : Frag) (op : Nat) : MmaRec :=
  { op := op, pc := u.x.pc, base := f.a.toNat, lanes := u.x.mask, poisoned := false, counted := false, matched := false }

/-! ## Synchronisation and tasks -/

/-- A `wait` holds: a class whose field is not all ones counts more than the field allows (R254). -/
def waitsFor (f : WF) (g : Group) : Prop :=
  (f.ld.toNat ≠ 63 ∧ f.ld.toNat < g.ld) ∨ (f.st.toNat ≠ 31 ∧ f.st.toNat < g.st) ∨ (f.cp.toNat ≠ 127 ∧ f.cp.toNat < g.cp) ∨
    (f.mx.toNat ≠ 15 ∧ f.mx.toNat < g.mx)

/-- A `wait` that names mx: the `mma`s that it matches, and the poison that it consumes for the fragment's lanes (R195, R230). -/
def matching (f : WF) (u : Frag) (g : Group) : Group := (g.matchMmas f.mx.toNat).afterWait u.x.mask

/-- Whether a fence is a release, and whether it is an acquire: ORD 00 is both (R258, Table 07-4). -/
def fenceRel (u : Frag) : Bool := u.m.modx.ord = 0 || 2 ≤ u.m.modx.ord.toNat
def fenceAcq (u : Frag) : Bool := u.m.modx.ord = 0 || u.m.modx.ord.toNat % 2 = 1

/-- What a fence waits for: a release for the fragment's accesses and, at system scope, its core's writes to peers, another for
the accesses. -/
def fenceHeld (u : Frag) (s : State) : Bool := if fenceRel u then u.unreleased s u.m.modx.scope.toNat else u.unperformed s

/-- The queue of a `qpush` (R260). -/
def queueOf (f : RF) (u : Frag) : Nat := if f.k = 1 then (u.g.getS f.c.toNat).toNat else f.c.toNat

/-- A `qpush` may go on in region `r`: a graph or pipeline with that queue, a pointer that passes its checks, and nothing
earlier that it must wait for (R260). -/
structure Pushes (f : RF) (r : Region) (u : Frag) (s : State) : Prop where
  region : s.region? u.g.region = some r
  kind : r.kind ≠ 1
  queue : queueOf f u < r.stages.length
  record : s.recordCheck u.g (s64 u.g f.b.toNat).toNat 64 = .ok ()
  after : u.unreleased s 0 = false
  free : s.sbHolds u.g (s64 u.g f.b.toNat).toNat 64 false = false

/-- A `qpop` or `qtry` may take a record in region `r` and write it at `t`: its class is not shed, the group has no task and no
other fragment, and its core does not move to another stage (R66, R261, R266). -/
structure Pops (f : RF) (r : Region) (t : Tgt) (u : Frag) (s : State) : Prop where
  live : s.isShed (s.prioOf u.g) = false
  region : s.region? u.g.region = some r
  kind : r.kind ≠ 1
  noTask : u.g.task = none
  alone : u.g.fragments = [u.e]
  buffer : s.popTgt u.g (s64 u.g f.b.toNat).toNat = .ok t
  stays : r.moving u.g = false

/-- A sound record is at the head of the group's queue, no earlier `qpop` waits for it, and nothing earlier holds its buffer. -/
structure Ready (f : RF) (r : Region) (t : Tgt) (bs : List Byte) (u : Frag) (s : State) : Prop where
  head : (r.queue u.g.stage).head? = some bs
  first : s.poppers r.id u.g.stage = []
  sound : s.headBad u.g.region u.g.stage = false
  free : s.sbHolds u.g (s64 u.g f.b.toNat).toNat 64 true = false
  done : s.pendingAt u.g.core s.nextId t 64 = false

/-- No record is there for this group. -/
def Empty (r : Region) (u : Frag) (s : State) : Prop := (r.queue u.g.stage).head? = none ∨ s.poppers r.id u.g.stage ≠ []

/-- What `qpop` and `qtry` do alike: they take a record that may run and go to its entry, trap on one that may not, and return 2
once the region has drained (R261, R262). A record that an error of memory has spoilt is another case (R364, log 53). -/
def Takes (i : Instr) (f : RF) : Prop :=
  ∀ r t,
    (∀ bs coff, Posts i (fun u s => Pops f r t u s ∧ Ready f r t bs u s ∧ s.taskEntry u.g bs = some coff)
      fun u s => (s.takeRecord u.g u.g.stage f.a.toNat t bs).modGroup u.g.id (goes u (BitVec.ofNat 32 coff))) ∧
    (∀ bs s g e p, Clear s i g e p → Pops f r t (frag g e p) (past s g e p) → Ready f r t bs (frag g e p) (past s g e p) →
      (past s g e p).taskEntry g bs = none →
      let s1 := (past s g e p).takeRecord g g.stage f.a.toNat t bs
      let z := State.trapped g.id e (g.entry e) { Trap.at_ trapTask (g.entry e).pc with resume := nextPc g e p } s1 s1
      z.jqueue.length ≤ max 4096 s.jqueue.length → exec i s = .next z) ∧
    Posts i (fun u s => Pops f r t u s ∧ Empty r u s ∧ s.drained r = true) fun u s => s.modGroup u.g.id (toS f.a 2)

/-- A `tdone` may end its task `k` in region `r`: of a graph or pipeline, by the group's one fragment, with nothing earlier to
wait for (R263). -/
structure Ends (r : Region) (k : Task) (u : Frag) (s : State) : Prop where
  region : s.region? u.g.region = some r
  task : u.g.task = some k
  kind : r.kind ≠ 1
  alone : u.g.fragments = [u.e]
  after : u.unreleased s 0 = false

/-- The successor counter's decrement: its old value and the state after its acquire (R63, R245). -/
def counted (k : Task) (w : Tgt) (u : Frag) (s : State) : Nat × State :=
  (((s.pastPeer w).release u.g.core 0).resolved u.g k.succ).decrement u.g w

/-- Task `k` has a successor counter, at target `w`, and its access does not fail at a peer (R263). -/
structure Counter (k : Task) (w : Tgt) (u : Frag) (s : State) : Prop where
  names : k.succ ≠ 0
  target : s.succCheck u.g k.succ = .ok w
  reached : s.peerFails w = false

/-- Nothing earlier holds the record that the counter names, if it can be read (R191, R263). -/
def recordFree (k : Task) (w : Tgt) (u : Frag) (s : State) : Prop :=
  ∀ d p z, (counted k w u s).2.counterNames u.g k.succ = some (d, p, z) → z.sbHolds u.g p 64 false = false

/-- A task has ended: its group holds none, an acquire crosses, and a group of a shed class stops (R263, R266). -/
def taskEnded (u : Frag) (s : State) : State := ((s.endTask u.g.id).acquireFree u.g.core []).stopIfShed u.g.id

/-- What a `tdone` leaves whose counter has reached zero (R263): the record that it names enters its queue, or the `tdone` parks while that
is full; one that cannot be read, or whose queue is none of the region's, is reported and discarded. -/
def recordReleased (r : Region) (k : Task) (w : Tgt) (u : Frag) (s : State) : State :=
  let c := (counted k w u s).2
  match c.counterNames u.g k.succ with
  | none => taskEnded u (({ c with free := c.free + 4 } : State).event 0x84 u.g.ctx 0x34 k.succ)
  | some (d, p, z) =>
    match z.released u.g r d p with
    | (none, t) => taskEnded u (t.event 0x84 u.g.ctx 0x34 k.succ)
    | (some (q, bs), t) =>
      if r.room q && (t.pushers r.id q).isEmpty then taskEnded u ((t.release u.g.core 0).enterQueue r.id q bs)
      else u.parked { t with nextId := t.nextId + 1 } (.tdone q t.nextId bs)

/-- A `qpush` or `tdone` parked at a queue, and a parked `qpop`, is the oldest of those: group `g`, entry `e`, what parked it. -/
def OldestPush (s : State) (r : Region) (q : Nat) (g : Group) (e : Nat) (k : Park) : Prop :=
  ∃ o, oldestParked (s.pushers r.id q) = some (o, g.id, e) ∧ s.group? g.id = some g ∧ (g.entry e).park = k
def OldestPop (s : State) (r : Region) (q : Nat) (g : Group) (e : Nat) (k : Park) : Prop :=
  ∃ o, oldestParked (s.poppers r.id q) = some (o, g.id, e) ∧ s.group? g.id = some g ∧ (g.entry e).park = k

/-- The pointer of a `fetchw` (R267, Table 07-3: the unit is 16 bytes). -/
def fetchPtr (f : MF) (u : Frag) : Nat := (s64 u.g f.addr.toNat + BitVec.ofInt 64 (f.off.toInt * 16)).toNat

/-- A `fetchw` reaches its mailbox at key `k` for region `r`, and nothing earlier holds its bytes. -/
structure Fetches (f : MF) (r : Region) (k : Nat) (u : Frag) (s : State) : Prop where
  mailbox : s.mailboxKey u.g (fetchPtr f u) = .ok k
  region : s.region? u.g.region = some r
  free : s.sbHolds u.g (fetchPtr f u) 16 true = false
  done : s.pendingAt u.g.core s.nextId (.bytes (k + 12) none) 4 = false

/-- STATUS is cleared at once, and the outcome of the withdrawal waits to be written (R58, R267). -/
def fetchStarted (k status x y z : Nat) (u : Frag) (s : State) : State :=
  let s1 := (s.performN u.g.core (k + 12) false none [0, 0, 0, 0]).spoilBarriers (.bytes (k + 12) none) 4
  { s1 with mailboxes := s1.mailboxes ++ [{ key := k, wg := u.g.wg, core := u.g.core, status := status, x := x, y := y, z := z }] }

/-! ## Special registers, requests and traps -/

/-- Whether a special register has 64 bits (Table 22-2). -/
def wideSr (n : Nat) : Bool := n = 0x10 || n = 0x12 || n = 0x14 || n = 0x30 || n = 0x32 || n = 0x40

/-- The register number and the bank bit of `getsr` and `setsr` (R319). -/
def srNo (f : IF) : Nat := f.imm.toNat % 32768
def srVector (f : IF) : Bool := 32768 ≤ f.imm.toNat

/-- The value that `getsr` writes: into S registers, or into every lane of the fragment (R320). -/
def srRead (f : IF) (v : Nat → Nat) (u : Frag) (g : Group) : Group :=
  if srVector f then
    (if wideSr (srNo f) then
      (g.setV f.a.toNat u.x.mask fun l => loWord (BitVec.ofNat 64 (v l))).setV (f.a.toNat + 1) u.x.mask
        fun l => hiWord (BitVec.ofNat 64 (v l))
    else g.setV f.a.toNat u.x.mask fun l => BitVec.ofNat 32 (v l))
  else if wideSr (srNo f) then toS64 f.a (BitVec.ofNat 64 (v 0)) g
  else toS f.a (BitVec.ofNat 32 (v 0)) g

/-- The level that `setperf` asks for (R328). -/
def levelAsked (f : RF) (u : Frag) : Nat :=
  if f.k = 0 then (u.g.getV f.c.toNat (lowLane u.x.mask)).toNat else if f.k = 1 then (u.g.getS f.c.toNat).toNat else f.c.toNat

/-- The version tag that `xfer` names (R329). -/
def tagAsked (f : RF) (u : Frag) : Nat := if f.k = 1 then (u.g.getS f.c.toNat).toNat else (f.c.signExtend 32).toNat

/-- A fragment is in issue, and neither a data fault nor an error of its entry waits at its boundary. -/
structure AtUnit (s : State) (g : Group) (e : Nat) : Prop where
  cur : s.cur = some (g.id, e)
  group : s.group? g.id = some g
  fragment : (g.entry e).isFragment = true
  noLate : (g.late.any fun f => (f.lanes g.live &&& (g.entry e).mask) != 0) = false
  noErr : g.softErr.contains (.entry e) = false

/-- A unit of `g` that traps with nothing of it done. -/
def TrapsAs (i : Instr) (s : State) (g : Group) (e : Nat) (t : Trap) : Prop :=
  let s0 : State := { s with issued := false }
  (State.trapped g.id e (g.entry e) t s0 s0).jqueue.length ≤ max 4096 s.jqueue.length →
    exec i s = .next (State.trapped g.id e (g.entry e) t s0 s0)

/-! ## Steps of the device -/

/-- An access that answers into registers (Table 12-1). -/
def answers : OpKind → Bool
  | .load .. | .tset _ | .atom _ _ _ true => true
  | _ => false

/-- A copy. -/
def isCopy : OpKind → Bool
  | .copyT _ _ | .copyL => true
  | _ => false

/-- Port `p` carries flits (R355, R358). -/
def OnPort (s : State) (p : Nat) : Prop := (s.links[p]?).any Link.live = true

/-- A peer can answer lane access `a` of operation `q` with `n` bytes: the access has been sent over a port that is up and has not
lost it, LTO has not passed (R357), nothing earlier of its core to that line has still to perform (R355), and an answer into registers
has the access's size and room at the core (R347, R356). -/
structure AwaitsPeer (s : State) (q : Op) (lane : Nat) (a : LaneAcc) (n : Nat) : Prop where
  lane : (q.accs.find? fun b => b.lane == lane) = some a
  sent : a.sent q = true
  kept : a.way.lost = false
  port : ∃ p l, a.way.port = some p ∧ s.links[p]? = some l ∧ l.up = true
  inTime : s.time ≤ a.way.at_ + 1000 * s.lto
  ready : s.laneReady q a = true
  size : q.kind.silent = false → n = q.size ∧ s.inFull q.core = false

/-- A peer's answer enters its lane, after a release has crossed (R205): a marker poisons what would be read, bytes are kept (R356), and
what is read comes through the inbound FIFO (R347). -/
def answered (q : Op) (lane : Nat) (data : List Byte) (poison : Bool) (s : State) : State :=
  (((s.cross q.id).respond q.core q.id (if q.kind.silent then 0 else 1)).modOp q.id fun p => p.setLane lane fun b =>
    { b with st := if poison && !q.kind.silent then .failed causePoison else .done,
             data := if q.kind.silent then b.data else data }).endAccess q.id

/-- A command of context `c` and code `opc` is the next to start (R40). -/
def Next (s : State) (c opc : Nat) (k : Cmd) : Prop := s.nextCmd c opc = some k

/-- The context of a CTX_CREATE or MIGRATE_IN after it opened: OPEN, with its root, reserve, confidentiality and defaults, and
with a key-exchange key of its own (R37, R361). -/
def openedWith (root reserve xkey : Nat) (conf : Bool) (d : Eff) (x : Context) : Context :=
  { x with st := .open_, root := root, reserve := reserve, conf := conf, deflt := d, xkey := xkey }

/-- A group at a HALT of its context: a fragment parked before a stop site that it has not begun halts in place, one that is halted
stays so, and every other becomes halt-pending (R311). -/
def haltsInPlace (s : State) (c : Nat) (g : Group) : Group :=
  if g.ctx == c && s.observable g then
    g.fragments.foldl (fun (h : Group) e =>
      if s.parkedAtStop g e then h.chg e .halted fun y => { y with park := .none, haltP := false, seenB := true }
      else if (g.entry e).st == .halted then h
      else h.modEntry e fun y => { y with haltP := true }) g
  else g

/-- A step of an island and the registers of the power controller. -/
def withPower (f : Power → Power) (s : State) : State := { s with power := f s.power }

/-- A step of a link port. -/
def withLink (p : Nat) (f : Link → Link) (s : State) : State := { s with links := s.links.modify p f }

end Sys2Proof.Safety
end

