-- ==== Sys2Proof/Certificates/Slice0/Obligations.lean ====
section
/-! DEFINITION. The statements for the provers. -/
open Sys2Proof Sys2Proof.Machine Sys2Proof.Safety

/-! ## Uniform and vector integers -/

/-- R131, Table 08-2: `sadd`, `ssub` and `smul` in both widths give S[a] the exact result narrowed by RND; every other
register is unchanged. -/
def Obligations.UniformArithmetic : Prop :=
  ∀ (m : Mods) (f : RF),
    Does (.sadd32 m f) (fun u => toS f.a (sumOf 32 u (b32 true u f 0) (c32 true u f 0))) ∧
    Does (.ssub32 m f) (fun u => toS f.a (diffOf 32 u (b32 true u f 0) (c32 true u f 0))) ∧
    Does (.smul32 m f) (fun u => toS f.a (prodOf 32 u (b32 true u f 0) (c32 true u f 0))) ∧
    Does (.sadd64 m f) (fun u => toS64 f.a (sumOf 64 u (b64 true u f 0) (c64 true u f 0))) ∧
    Does (.ssub64 m f) (fun u => toS64 f.a (diffOf 64 u (b64 true u f 0) (c64 true u f 0))) ∧
    Does (.smul64 m f) (fun u => toS64 f.a (prodOf 64 u (b64 true u f 0) (c64 true u f 0)))

/-- R131, Table 08-2: `smulh`, the bitwise instructions, the shifts, `smin` and `smax`. -/
def Obligations.UniformLogic : Prop :=
  ∀ (m : Mods) (f : RF),
    Does (.smulhI32 m f) (fun u => toS f.a (hiWord ((b32 true u f 0).signExtend 64 * (c32 true u f 0).signExtend 64))) ∧
    Does (.smulhN32 m f) (fun u => toS f.a (hiWord ((b32 true u f 0).setWidth 64 * (c32 true u f 0).setWidth 64))) ∧
    Does (.sand m f) (fun u => toS f.a (b32 true u f 0 &&& c32 true u f 0)) ∧
    Does (.sor m f) (fun u => toS f.a (b32 true u f 0 ||| c32 true u f 0)) ∧
    Does (.sxor m f) (fun u => toS f.a (b32 true u f 0 ^^^ c32 true u f 0)) ∧
    Does (.sshl m f) (fun u => toS f.a (b32 true u f 0 <<< (c32 true u f 0).toNat)) ∧
    Does (.sshr m f) (fun u => toS f.a (b32 true u f 0 >>> (c32 true u f 0).toNat)) ∧
    Does (.ssar m f) (fun u => toS f.a ((b32 true u f 0).sshiftRight (c32 true u f 0).toNat)) ∧
    Does (.sminI32 m f) (fun u => toS f.a (if (c32 true u f 0).slt (b32 true u f 0) then c32 true u f 0 else b32 true u f 0)) ∧
    Does (.sminN32 m f) (fun u => toS f.a (if (c32 true u f 0).ult (b32 true u f 0) then c32 true u f 0 else b32 true u f 0)) ∧
    Does (.smaxI32 m f) (fun u => toS f.a (if (b32 true u f 0).slt (c32 true u f 0) then c32 true u f 0 else b32 true u f 0)) ∧
    Does (.smaxN32 m f) (fun u => toS f.a (if (b32 true u f 0).ult (c32 true u f 0) then c32 true u f 0 else b32 true u f 0))

/-- R131, R132, R102, Table 08-2: `scmp` writes 1 where its relation holds and 0 elsewhere, `ssel` moves when S[b] is not
zero, and `smovi` writes its constant. -/
def Obligations.UniformCompareAndMove : Prop :=
  (∀ (m : Mods) (f : RF),
    Does (.scmpEq m f) (fun u => toS f.a (flag (b32 true u f 0 == c32 true u f 0))) ∧
    Does (.scmpNe m f) (fun u => toS f.a (flag (b32 true u f 0 != c32 true u f 0))) ∧
    Does (.scmpLtI32 m f) (fun u => toS f.a (flag ((b32 true u f 0).slt (c32 true u f 0)))) ∧
    Does (.scmpLtN32 m f) (fun u => toS f.a (flag ((b32 true u f 0).ult (c32 true u f 0)))) ∧
    Does (.scmpLeI32 m f) (fun u => toS f.a (flag ((b32 true u f 0).sle (c32 true u f 0)))) ∧
    Does (.scmpLeN32 m f) (fun u => toS f.a (flag ((b32 true u f 0).ule (c32 true u f 0)))) ∧
    Does (.scmpGtI32 m f) (fun u => toS f.a (flag ((c32 true u f 0).slt (b32 true u f 0)))) ∧
    Does (.scmpGtN32 m f) (fun u => toS f.a (flag ((c32 true u f 0).ult (b32 true u f 0)))) ∧
    Does (.scmpGeI32 m f) (fun u => toS f.a (flag ((c32 true u f 0).sle (b32 true u f 0)))) ∧
    Does (.scmpGeN32 m f) (fun u => toS f.a (flag ((c32 true u f 0).ule (b32 true u f 0)))) ∧
    Does (.ssel m f) (fun u => toS f.a (if b32 true u f 0 ≠ 0 then c32 true u f 0 else u.g.getS f.a.toNat))) ∧
  ∀ (m : Mods) (f : IF), Does (.smovi m f) fun u => toS f.a (match u.m.i with
    | some i => i.setWidth 16 ++ f.imm
    | none => f.imm.signExtend 32)

/-- R134, Table 08-3: the arithmetic of `iadd`, `isub`, `imul`, `imad`, `imulh` and `iabs` in every executed lane. -/
def Obligations.VectorArithmetic : Prop :=
  ∀ (m : Mods) (f : RF),
    Does (.iadd32 m f) (fun u => toV u f.a fun l => sumOf 32 u (b32 u.m.modx.u u f l) (c32 u.m.modx.u u f l)) ∧
    Does (.isub32 m f) (fun u => toV u f.a fun l => diffOf 32 u (b32 u.m.modx.u u f l) (c32 u.m.modx.u u f l)) ∧
    Does (.imul32 m f) (fun u => toV u f.a fun l => prodOf 32 u (b32 u.m.modx.u u f l) (c32 u.m.modx.u u f l)) ∧
    Does (.iadd64 m f) (fun u => toV64 u f.a fun l => sumOf 64 u (b64 u.m.modx.u u f l) (c64 u.m.modx.u u f l)) ∧
    Does (.isub64 m f) (fun u => toV64 u f.a fun l => diffOf 64 u (b64 u.m.modx.u u f l) (c64 u.m.modx.u u f l)) ∧
    Does (.imul64 m f) (fun u => toV64 u f.a fun l => prodOf 64 u (b64 u.m.modx.u u f l) (c64 u.m.modx.u u f l)) ∧
    Does (.imad m f) (fun u => toV u f.a fun l =>
      let b := b32 u.m.modx.u u f l
      let c := c32 u.m.modx.u u f l
      let d := d32 u.m.modx.u u f l
      rounded 32 u.m.modx.rnd (b.toInt * c.toInt + d.toInt) (b.toNat * c.toNat + d.toNat)) ∧
    Does (.imulhI32 m f) (fun u => toV u f.a fun l =>
      hiWord ((b32 u.m.modx.u u f l).signExtend 64 * (c32 u.m.modx.u u f l).signExtend 64)) ∧
    Does (.imulhN32 m f) (fun u => toV u f.a fun l =>
      hiWord ((b32 u.m.modx.u u f l).setWidth 64 * (c32 u.m.modx.u u f l).setWidth 64)) ∧
    Does (.iabs m f) (fun u => toV u f.a fun l =>
      let b := b32 u.m.modx.u u f l
      rounded 32 u.m.modx.rnd b.toInt.natAbs b.toInt.natAbs)

/-- R134, Table 08-3: the bitwise instructions, the shifts in both widths, `imin` and `imax`. -/
def Obligations.VectorLogic : Prop :=
  ∀ (m : Mods) (f : RF),
    Does (.iand m f) (fun u => toV u f.a fun l => b32 u.m.modx.u u f l &&& c32 u.m.modx.u u f l) ∧
    Does (.ior m f) (fun u => toV u f.a fun l => b32 u.m.modx.u u f l ||| c32 u.m.modx.u u f l) ∧
    Does (.ixor m f) (fun u => toV u f.a fun l => b32 u.m.modx.u u f l ^^^ c32 u.m.modx.u u f l) ∧
    Does (.ishl32 m f) (fun u => toV u f.a fun l => b32 u.m.modx.u u f l <<< (c32 u.m.modx.u u f l).toNat) ∧
    Does (.ishl64 m f) (fun u => toV64 u f.a fun l => b64 u.m.modx.u u f l <<< (c32 u.m.modx.u u f l).toNat) ∧
    Does (.ishr32 m f) (fun u => toV u f.a fun l => b32 u.m.modx.u u f l >>> (c32 u.m.modx.u u f l).toNat) ∧
    Does (.ishr64 m f) (fun u => toV64 u f.a fun l => b64 u.m.modx.u u f l >>> (c32 u.m.modx.u u f l).toNat) ∧
    Does (.isar32 m f) (fun u => toV u f.a fun l => (b32 u.m.modx.u u f l).sshiftRight (c32 u.m.modx.u u f l).toNat) ∧
    Does (.isar64 m f) (fun u => toV64 u f.a fun l => (b64 u.m.modx.u u f l).sshiftRight (c32 u.m.modx.u u f l).toNat) ∧
    Does (.iminI32 m f) (fun u => toV u f.a fun l =>
      let b := b32 u.m.modx.u u f l
      let c := c32 u.m.modx.u u f l
      if c.slt b then c else b) ∧
    Does (.iminN32 m f) (fun u => toV u f.a fun l =>
      let b := b32 u.m.modx.u u f l
      let c := c32 u.m.modx.u u f l
      if c.ult b then c else b) ∧
    Does (.imaxI32 m f) (fun u => toV u f.a fun l =>
      let b := b32 u.m.modx.u u f l
      let c := c32 u.m.modx.u u f l
      if b.slt c then c else b) ∧
    Does (.imaxN32 m f) (fun u => toV u f.a fun l =>
      let b := b32 u.m.modx.u u f l
      let c := c32 u.m.modx.u u f l
      if b.ult c then c else b)

/-- R134, R135, Table 08-3: the bit counts, `brev` and the field instructions, each bit of the result from bits of the
operands. -/
def Obligations.VectorBitFields : Prop :=
  ∀ (m : Mods) (f : RF),
    Does (.popcB32 m f) (fun u => toV u f.a fun l => BitVec.ofNat 32 (bitCount (b32 u.m.modx.u u f l))) ∧
    Does (.popcB64 m f) (fun u => toV u f.a fun l => BitVec.ofNat 32 (bitCount (b64 u.m.modx.u u f l))) ∧
    Does (.clzB32 m f) (fun u => toV u f.a fun l => BitVec.ofNat 32 (leadingZeros (b32 u.m.modx.u u f l))) ∧
    Does (.clzB64 m f) (fun u => toV u f.a fun l => BitVec.ofNat 32 (leadingZeros (b64 u.m.modx.u u f l))) ∧
    Does (.brev m f) (fun u => toV u f.a fun l => (b32 u.m.modx.u u f l).reverse) ∧
    Does (.bfeN32 m f) (fun u => toV u f.a fun l =>
      let c := c32 u.m.modx.u u f l
      (b32 u.m.modx.u u f l >>> fieldPos c) &&& ones32 (fieldLen c)) ∧
    Does (.bfeI32 m f) (fun u => toV u f.a fun l =>
      let c := c32 u.m.modx.u u f l
      let x := (b32 u.m.modx.u u f l >>> fieldPos c) &&& ones32 (fieldLen c)
      if 0 < fieldLen c && x.getLsbD (fieldLen c - 1) then x ||| ~~~ones32 (fieldLen c) else x) ∧
    Does (.bfi m f) (fun u => toV u f.a fun l =>
      let c := c32 u.m.modx.u u f l
      let a := if u.m.modx.u then u.g.getS f.a.toNat else u.g.getV f.a.toNat l
      let k := ones32 (fieldLen c) <<< fieldPos c
      (a &&& ~~~k) ||| ((b32 u.m.modx.u u f l <<< fieldPos c) &&& k))

/-- R136, R137, R138: `icmp` writes the destination mask in the executed lanes, zeroes the unselected ones under Z and keeps
the others; `isel` writes the executed lanes whose condition bit is set. -/
def Obligations.VectorCompareAndSelect : Prop :=
  ∀ (m : Mods) (f : RF),
    Does (.icmpI32 m f) (fun u => toM u f.a fun l => condOf (f.a.toNat / 16) true (b32 false u f l) (c32 false u f l)) ∧
    Does (.icmpN32 m f) (fun u => toM u f.a fun l => condOf (f.a.toNat / 16) false (b32 false u f l) (c32 false u f l)) ∧
    Does (.icmpI64 m f) (fun u => toM u f.a fun l => condOf (f.a.toNat / 16) true (b64 false u f l) (c64 false u f l)) ∧
    Does (.icmpN64 m f) (fun u => toM u f.a fun l => condOf (f.a.toNat / 16) false (b64 false u f l) (c64 false u f l)) ∧
    Does (.iselB32 m f) (fun u g =>
      let cond := u.g.mreg u.x.mask (f.b.toNat % 16)
      g.setV f.a.toNat ((u.lanes &&& cond) ||| u.zeroed) fun l => if laneIn (u.lanes &&& cond) l then c32 false u f l else 0) ∧
    Does (.iselB64 m f) (fun u g =>
      let cond := u.g.mreg u.x.mask (f.b.toNat % 16)
      let w := (u.lanes &&& cond) ||| u.zeroed
      (g.setV f.a.toNat w fun l => if laneIn (u.lanes &&& cond) l then loWord (c64 false u f l) else 0).setV (f.a.toNat + 1) w
        fun l => if laneIn (u.lanes &&& cond) l then hiWord (c64 false u f l) else 0)

/-- R139, R137, Table 08-4: the mask instructions write the fragment's lanes of a mask register, or an S register with the
number of set lanes or the lowest of them. -/
def Obligations.MaskUnits : Prop :=
  ∀ (m : Mods) (f : RF),
    Does (.mand m f) (fun u g => g.setM f.a.toNat u.x.mask (u.g.mreg u.x.mask f.b.toNat &&& u.g.mreg u.x.mask f.c.toNat)) ∧
    Does (.mor m f) (fun u g => g.setM f.a.toNat u.x.mask (u.g.mreg u.x.mask f.b.toNat ||| u.g.mreg u.x.mask f.c.toNat)) ∧
    Does (.mxor m f) (fun u g => g.setM f.a.toNat u.x.mask (u.g.mreg u.x.mask f.b.toNat ^^^ u.g.mreg u.x.mask f.c.toNat)) ∧
    Does (.mnot m f) (fun u g => g.setM f.a.toNat u.x.mask (~~~u.g.mreg u.x.mask f.b.toNat)) ∧
    Does (.mpopc m f) (fun u => toS f.a (BitVec.ofNat 32 (bitCount (u.x.mask &&& u.g.mreg u.x.mask f.b.toNat)))) ∧
    Does (.mfirst m f) (fun u => toS f.a (BitVec.ofNat 32
      (min u.g.gw (lowLane (u.x.mask &&& u.g.mreg u.x.mask f.b.toNat)))))

/-! ## Collectives -/

/-- R140 to R142, R144: every collective, alone, waiting, completing for all or in mismatch; `vote`, the shuffles and `bcast`.
Model choices: when the named lanes are read, and which fragment of a mismatch traps first (log 34). -/
def Obligations.VotesAndShuffles : Prop :=
  ∀ (m : Mods) (f : RF),
    Gathers (.vote m f) (fun u ex union =>
      let p := ex &&& u.g.mreg union f.b.toNat
      toS f.a (if f.c = 0 then flag (p != 0) else if f.c = 1 then flag (p == ex) else p)) ∧
    Gathers (.shflIdx m f) (fun u ex union g => g.setV f.a.toNat (ex ||| unread u ex union) fun l =>
      if laneIn ex l then picked u f ex l ((c32 false u f l).toNat % u.g.gw) else 0) ∧
    Gathers (.shflUp m f) (fun u ex union g => g.setV f.a.toNat (ex ||| unread u ex union) fun l =>
      if laneIn ex l then
        (if (c32 false u f l).toNat ≤ l then picked u f ex l (l - (c32 false u f l).toNat) else u.g.getV f.b.toNat l)
      else 0) ∧
    Gathers (.shflDown m f) (fun u ex union g => g.setV f.a.toNat (ex ||| unread u ex union) fun l =>
      if laneIn ex l then picked u f ex l (l + (c32 false u f l).toNat) else 0) ∧
    Gathers (.shflXor m f) (fun u ex union g => g.setV f.a.toNat (ex ||| unread u ex union) fun l =>
      if laneIn ex l then picked u f ex l (l ^^^ ((c32 false u f l).toNat % u.g.gw)) else 0) ∧
    Gathers (.bcast m f) (fun u ex union g => g.setV f.a.toNat (ex ||| unread u ex union) fun l =>
      if laneIn ex l then picked u f ex l ((c32 false u f l).toNat % u.g.gw) else 0)

/-- R140 to R142, R144: `rdlane`, `wrlane` and `redux`. Model choices: when the named lanes are read, and which fragment of a
mismatch traps first (log 34). -/
def Obligations.LaneReadsAndReduction : Prop :=
  ∀ (m : Mods) (f : RF),
    Gathers (.rdlane m f) (fun u ex _ g =>
      let k := (c32 false u f 0).toNat % u.g.gw
      if k < u.g.gw && laneIn ex k then toS f.a (u.g.getV f.b.toNat k) g else if u.m.modx.z then toS f.a 0 g else g) ∧
    Gathers (.wrlane m f) (fun u ex _ g =>
      let k := (c32 false u f 0).toNat % u.g.gw
      if k < u.g.gw && laneIn ex k then g.setV f.a.toNat (maskOf fun l => l == k) fun _ => u.g.getS f.b.toNat else g) ∧
    Gathers (.redux m f) (fun u ex _ => toS f.a
      ((lanesOf ex).foldl (fun (a : Word) l => reduxOp f.c.toNat a (u.g.getV f.b.toNat l)) (reduxId f.c.toNat)))

/-! ## Floating point and conversions -/

/-- R159 to R162: `fadd`, `fsub`, `fmul` and `ffma` in both types, in every executed lane, each element of an `.f16x2` on its
own. -/
def Obligations.FloatArithmetic : Prop :=
  ∀ (m : Mods) (f : RF),
    Does (.faddF32 m f) (fun u => toV u f.a fun l =>
      BitVec.ofNat 32 (fp32.fadd u.m.modx.rnd.toNat (b32 u.m.modx.u u f l).toNat (fc32 u.m.modx.u false u f l).toNat)) ∧
    Does (.faddF16x2 m f) (fun u => toV u f.a fun l =>
      let b := b32 u.m.modx.u u f l
      let c := fc32 u.m.modx.u true u f l
      twice (fp16.fadd u.m.modx.rnd.toNat (half0 b) (half0 c)) (fp16.fadd u.m.modx.rnd.toNat (half1 b) (half1 c))) ∧
    Does (.fsubF32 m f) (fun u => toV u f.a fun l =>
      BitVec.ofNat 32 (fp32.fsub u.m.modx.rnd.toNat (b32 u.m.modx.u u f l).toNat (fc32 u.m.modx.u false u f l).toNat)) ∧
    Does (.fsubF16x2 m f) (fun u => toV u f.a fun l =>
      let b := b32 u.m.modx.u u f l
      let c := fc32 u.m.modx.u true u f l
      twice (fp16.fsub u.m.modx.rnd.toNat (half0 b) (half0 c)) (fp16.fsub u.m.modx.rnd.toNat (half1 b) (half1 c))) ∧
    Does (.fmulF32 m f) (fun u => toV u f.a fun l =>
      BitVec.ofNat 32 (fp32.fmul u.m.modx.rnd.toNat (b32 u.m.modx.u u f l).toNat (fc32 u.m.modx.u false u f l).toNat)) ∧
    Does (.fmulF16x2 m f) (fun u => toV u f.a fun l =>
      let b := b32 u.m.modx.u u f l
      let c := fc32 u.m.modx.u true u f l
      twice (fp16.fmul u.m.modx.rnd.toNat (half0 b) (half0 c)) (fp16.fmul u.m.modx.rnd.toNat (half1 b) (half1 c))) ∧
    Does (.ffmaF32 m f) (fun u => toV u f.a fun l => BitVec.ofNat 32 (fp32.ffma u.m.modx.rnd.toNat (b32 u.m.modx.u u f l).toNat
      (fc32 u.m.modx.u false u f l).toNat (d32 u.m.modx.u u f l).toNat)) ∧
    Does (.ffmaF16x2 m f) (fun u => toV u f.a fun l =>
      let b := b32 u.m.modx.u u f l
      let c := fc32 u.m.modx.u true u f l
      let d := d32 u.m.modx.u u f l
      twice (fp16.ffma u.m.modx.rnd.toNat (half0 b) (half0 c) (half0 d)) (fp16.ffma u.m.modx.rnd.toNat (half1 b) (half1 c) (half1 d)))

/-- R164 to R167, Tables 10-3 to 10-5: `fcmp` writes lane masks, `fclass` a class word, and the root and the special functions
their results. Model choice: the special functions where Table 10-5 states no result (log 12). -/
def Obligations.FloatComparesAndFunctions : Prop :=
  ∀ (m : Mods) (f : RF),
    Does (.fcmp m f) (fun u => toM u f.a fun l =>
      fp32.cond (f.a.toNat / 16) (b32 u.m.modx.u u f l).toNat (fc32 false false u f l).toNat) ∧
    Does (.fclass m f) (fun u => toV u f.a fun l =>
      let b := b32 u.m.modx.u u f l
      BitVec.ofNat 32 (if f.c = 0 then fp32.cls b.toNat else if f.c = 1 then fp16.cls (half0 b) else bf16.cls (half0 b))) ∧
    Does (.fsqrt m f) (fun u => toV u f.a fun l => BitVec.ofNat 32 (fsqrt u.m.modx.rnd.toNat (b32 u.m.modx.u u f l).toNat)) ∧
    Does (.frcp m f) (fun u => toV u f.a fun l => specialFn 0 u.m.modx.rnd.toNat (b32 u.m.modx.u u f l)) ∧
    Does (.frsq m f) (fun u => toV u f.a fun l => specialFn 1 u.m.modx.rnd.toNat (b32 u.m.modx.u u f l)) ∧
    Does (.fexp2 m f) (fun u => toV u f.a fun l => specialFn 2 u.m.modx.rnd.toNat (b32 u.m.modx.u u f l)) ∧
    Does (.flog2 m f) (fun u => toV u f.a fun l => specialFn 3 u.m.modx.rnd.toNat (b32 u.m.modx.u u f l)) ∧
    Does (.fsin m f) (fun u => toV u f.a fun l => specialFn 4 u.m.modx.rnd.toNat (b32 u.m.modx.u u f l)) ∧
    Does (.fcos m f) (fun u => toV u f.a fun l => specialFn 5 u.m.modx.rnd.toNat (b32 u.m.modx.u u f l))

/-- R168 to R173: the conversions write the destination that their opcode and subtype name, and `kbpack` and `kbunpack` the
words of each block. -/
def Obligations.Conversions : Prop :=
  ∀ (m : Mods) (f : RF),
    Does (.cvtF32 m f) (fun u => toV u f.a fun l => BitVec.ofNat 32 (cvtFloat fp32 u.m.modx.rnd.toNat (cvtOf u f l))) ∧
    Does (.cvtF16 m f) (fun u => toV u f.a fun l =>
      intoHalf f (if u.m.modx.u then u.g.getS f.a.toNat else u.g.getV f.a.toNat l)
        (cvtFloat fp16 u.m.modx.rnd.toNat (cvtOf u f l))) ∧
    Does (.cvtBf16 m f) (fun u => toV u f.a fun l =>
      intoHalf f (if u.m.modx.u then u.g.getS f.a.toNat else u.g.getV f.a.toNat l)
        (cvtFloat bf16 u.m.modx.rnd.toNat (cvtOf u f l))) ∧
    Does (.cvtInt32 m f) (fun u => toV u f.a fun l =>
      BitVec.ofInt 32 (cvtInt u.m.modx.rnd.toNat (f.c.toNat / 16 == 0) 32 (cvtOf u f l))) ∧
    Does (.cvtInt64 m f) (fun u => toV64 u f.a fun l =>
      BitVec.ofInt 64 (cvtInt u.m.modx.rnd.toNat (f.c.toNat / 16 == 0) 64 (cvtOf u f l))) ∧
    Does (.cvtSmall m f) (fun u => toV u f.a fun l =>
      let t := smallType (f.c.toNat / 16)
      BitVec.ofInt 32 (cvtInt u.m.modx.rnd.toNat t.2 t.1 (cvtOf u f l))) ∧
    Does (.kbpack m f) (fun u => toV u f.a fun l =>
      ((kbPackWords f.c.toNat (blockOf u f (if l < 16 then 0 else 1)))[l % 16]?).getD 0) ∧
    Does (.kbunpack m f) (fun u => toV u f.a fun l =>
      ((kbUnpackWords f.c.toNat (blockOf u f (if l < 16 then 0 else 1)))[l % 16]?).getD 0)

/-! ## Control -/

/-- R122, R123, R126, R127: `nop`, and the branches, calls and returns that set one PC for all lanes of the fragment; a call
pushes its link, a return pops one. -/
def Obligations.StraightControl : Prop :=
  (∀ (m : Mods) (f : RF), Does (.nop m f) fun _ g => g) ∧
  (∀ (m : Mods) (f : BF), Does (.bra m f) fun u => goes u (u.next + 4 * f.off.signExtend 32)) ∧
  (∀ (m : Mods) (f : IF), Completes (.brcU m f) (fun _ _ => True) fun u s =>
    let t := if u.g.getS f.a.toNat = 0 then u.next else u.next + 4 * f.imm.signExtend 32
    u.branchTrace (s.modGroup u.g.id (goes u t))
      [{ lanes := u.x.mask, pc := t, tord := 0, tdw := if u.g.getS f.a.toNat = 0 then 0 else 1 }]) ∧
  (∀ (m : Mods) (f : IF), Does (.call m f) fun u g =>
    goes u (u.next + 4 * f.imm.signExtend 32) ((g.setV f.a.toNat u.x.mask fun _ => u.next).pushLink u.next)) ∧
  (∀ (m : Mods) (f : IF), Does (.callU m f) fun u g =>
    goes u (u.next + 4 * f.imm.signExtend 32) ((g.setS f.a.toNat u.next).pushLink u.next)) ∧
  (∀ (m : Mods) (f : RF), Completes (.retU m f) (fun _ _ => True) fun u s =>
    let t := u.g.getS f.b.toNat
    let b := (s.versionOf u.g).bin t.toNat
    u.branchTrace (s.modGroup u.g.id fun g => goes u t g.popLink)
      [{ lanes := u.x.mask, pc := t, tord := b.1, tdw := b.2 }])

/-- R82, R120, R123, R124, R126, R127: the branches that may split complete while the entries in use stay at or below 72, and
split their fragment into the paths of their targets; `ret` then pops the return stack. A `brc` that may be folded either keeps its
entry and runs its paths in turn, or splits. Model choice: which of the two is a free choice, and what may be folded (log 23). -/
def Obligations.DivergentBranches : Prop :=
  (∀ (m : Mods) (f : IF),
    Completes (.brc m f) (fun u s => mayFold f u s = false ∧ u.g.used + created (brcPaths f u) ≤ 72)
      (branched (fun u _ => brcPaths f u) id) ∧
    Completes (.brc m f) (fun u s => mayFold f u s = true ∧ u.g.used + created (brcPaths f u) ≤ 72)
      (fun u s => let s1 : State := { s with free := s.free + 1 }
        if Config.freeBit s.free then foldedInto f u s1 else branched (fun u _ => brcPaths f u) id u s1)) ∧
  (∀ (m : Mods) (f : RF) (ts : List Target), Branches (.brm m f ts) (fun u _ => brmPaths u ts 1 u.x.mask) id) ∧
  (∀ (m : Mods) (f : RF), Branches (.jmpi m f) (fun u s => indirectPaths f u s) id) ∧
  (∀ (m : Mods) (f : RF), Branches (.ret m f) (fun u s => indirectPaths f u s) Group.popLink)

/-- R78: a split or `jset` that would raise the number of entries in use above 72 raises SPLIT_OVERFLOW at its own unit, with
nothing of it done; a `brc` that is folded creates no entry. Model choices: what may be folded, and that a free choice folds it (log
23). -/
def Obligations.SplitOverflow : Prop :=
  (∀ (m : Mods) (f : IF), Traps (.brc m f) (fun u s => mayFold f u s = false ∧ 72 < u.g.used + created (brcPaths f u))
      (fun u => Trap.at_ trapSplit u.x.pc) ∧
    ∀ s g e p, Clear s (.brc m f) g e p → let u := frag g e p
      mayFold f u (past s g e p) = true → 72 < g.used + created (brcPaths f u) →
      let s1 : State := { past s g e p with free := s.free + 1 }
      let t := if Config.freeBit s.free then { foldedInto f u s1 with issued := true }
        else State.trapped g.id e (g.entry e) (Trap.at_ trapSplit (g.entry e).pc) s1 s1
      t.jqueue.length ≤ max 4096 s.jqueue.length → exec (.brc m f) s = .next t) ∧
  (∀ (m : Mods) (f : RF) (ts : List Target), Traps (.brm m f ts) (fun u _ => 72 < u.g.used + created (brmPaths u ts 1 u.x.mask))
    fun u => Trap.at_ trapSplit u.x.pc) ∧
  (∀ (m : Mods) (f : RF), Traps (.jmpi m f) (fun u s => 72 < u.g.used + created (indirectPaths f u s))
    fun u => Trap.at_ trapSplit u.x.pc) ∧
  (∀ (m : Mods) (f : RF), Traps (.ret m f) (fun u s => 72 < u.g.used + created (indirectPaths f u s))
    fun u => Trap.at_ trapSplit u.x.pc) ∧
  (∀ (m : Mods) (f : BF), Traps (.jset m f) (fun u _ => 72 < u.g.used + 1) fun u => Trap.at_ trapSplit u.x.pc)

/-- R125, R83, R129, R330, Table 05-3: `jset` with a free entry, `join` at the fragment's JOIN, after which a transfer no longer
awaits it (R288), and elsewhere, `exit`, and `kill` of no lane and of some. Model choice: how an exit settles the waits of others (log 34, log 36), with its records (log
19). -/
def Obligations.JoinsAndExits : Prop :=
  (∀ (m : Mods) (f : BF), Completes (.jset m f) (fun u _ => u.g.used + 1 ≤ 72) fun u s =>
    match (s.group? u.g.id).bind fun g => g.jset u.e (u.next + 4 * f.off.signExtend 32) u.next with
    | some p => s.modGroup u.g.id fun _ => p.1
    | none => s) ∧
  (∀ (m : Mods) (f : RF), Posts (.join m f) (fun u _ => u.x.pc = u.x.join ∧ u.x.parent < 72) fun u s =>
    ((s.modGroup u.g.id fun g => g.joinAt u.e).maskPacket u.g.id u.e 0 2).resumedTrace u.g) ∧
  (∀ (m : Mods) (f : RF), Completes (.join m f) (fun u _ => ¬(u.x.pc = u.x.join ∧ u.x.parent < 72)) fun _ s => s) ∧
  (∀ (m : Mods) (f : RF), Posts (.exit m f) (fun _ _ => True) fun u s =>
    ((s.maskPacket u.g.id u.e 0 0).loseLanes u.g.id u.x.mask true).resumedTrace u.g) ∧
  (∀ (m : Mods) (f : RF), Completes (.kill m f) (fun u _ => u.g.mreg u.x.mask f.b.toNat &&& u.x.mask = 0) fun _ s => s) ∧
  (∀ (m : Mods) (f : RF), Posts (.kill m f) (fun u _ => u.g.mreg u.x.mask f.b.toNat &&& u.x.mask ≠ 0) fun u s =>
    let k := u.g.mreg u.x.mask f.b.toNat &&& u.x.mask
    ((s.maskPacket u.g.id u.e (u.x.mask &&& ~~~k) 1).loseLanes u.g.id k true).resumedTrace u.g)

/-! ## Memory instructions -/

/-- R133, R197 to R204, R235: the loads, `sld` and `tset` wait, issue with every lane captured, or fault lane by lane; `pref`
changes nothing. Model choice: what waits for an overlapping Sideboard entry (log 35). -/
def Obligations.LoadsIssue : Prop :=
  ∀ (m : Mods) (f : MF),
    Accesses (.ldN8 m f) (loadAcc f 1 false false) (zeroing false f.data.toNat) ∧
    Accesses (.ldI8 m f) (loadAcc f 1 true false) (zeroing false f.data.toNat) ∧
    Accesses (.ldN16 m f) (loadAcc f 2 false false) (zeroing false f.data.toNat) ∧
    Accesses (.ldI16 m f) (loadAcc f 2 true false) (zeroing false f.data.toNat) ∧
    Accesses (.ldB32 m f) (loadAcc f 4 false false) (zeroing false f.data.toNat) ∧
    Accesses (.ldB64 m f) (loadAcc f 8 false false) (zeroing true f.data.toNat) ∧
    Accesses (.ldsB32 m f) (loadAcc f 4 false true) (zeroing false f.data.toNat) ∧
    Accesses (.ldsB64 m f) (loadAcc f 8 false true) (zeroing true f.data.toNat) ∧
    Accesses (.sldB32 m f) (uniformAcc f 4 (.load f.data.toNat true false) Frag.isAcq) (fun _ g => g) ∧
    Accesses (.sldB64 m f) (uniformAcc f 8 (.load f.data.toNat true false) Frag.isAcq) (fun _ g => g) ∧
    Accesses (.tset m f) (uniformAcc f 64 (.tset (f.data.toNat % 16)) fun _ => false) (fun _ g => g) ∧
    Does (.pref m f) (fun _ g => g)

/-- R197 to R207: the stores and the atomics wait, issue with every lane captured, or fault lane by lane. Model choices: what
waits for an overlapping Sideboard entry (log 35), and what a release waits for (log 43). -/
def Obligations.StoresAndAtomicsIssue : Prop :=
  ∀ (m : Mods) (f : MF),
    Accesses (.st8 m f) (storeAcc f 1 false) (fun _ g => g) ∧
    Accesses (.st16 m f) (storeAcc f 2 false) (fun _ g => g) ∧
    Accesses (.stB32 m f) (storeAcc f 4 false) (fun _ g => g) ∧
    Accesses (.stB64 m f) (storeAcc f 8 false) (fun _ g => g) ∧
    Accesses (.stsB32 m f) (storeAcc f 4 true) (fun _ g => g) ∧
    Accesses (.stsB64 m f) (storeAcc f 8 true) (fun _ g => g) ∧
    Accesses (.atom32 m f) (atomAcc f 4 true) (zeroing false f.data.toNat) ∧
    Accesses (.atom64 m f) (atomAcc f 8 true) (zeroing true f.data.toNat) ∧
    Accesses (.red32 m f) (atomAcc f 4 false) (fun _ g => g) ∧
    Accesses (.red64 m f) (atomAcc f 8 false) (fun _ g => g)

/-- R186, R190, R201, R209 to R211: a tensor copy and the lane copies become outstanding operations with their Sideboard
entries, and wait while their counter, their core or a Sideboard is full. Model choices: the order of the checks of a copy (log 55), and
that entries on another core's Sideboard are registered at issue (log 35). Lanes of a lane copy that fail, and a barrier or a base that
does, are other cases (R210, R211). -/
def Obligations.CopiesIssue : Prop :=
  ∀ (m : Mods) (f : RF),
    (∀ bar, (Waits (.cpyT m f) fun u s => copyAllowed (shapeOf (u.g.getT f.a.toNat)) (shapeOf (u.g.getT f.b.toNat)) = true ∧
        u.barCheck s f = .ok bar ∧ u.basesBad s (shapeOf (u.g.getT f.a.toNat)) (shapeOf (u.g.getT f.b.toNat)) = none ∧
        (127 ≤ u.g.cp ∨ 128 ≤ inFlight u s ∨ copyStarted f bar u s = none)) ∧
      Completes (.cpyT m f) (fun u s => copyAllowed (shapeOf (u.g.getT f.a.toNat)) (shapeOf (u.g.getT f.b.toNat)) = true ∧
        u.barCheck s f = .ok bar ∧ u.basesBad s (shapeOf (u.g.getT f.a.toNat)) (shapeOf (u.g.getT f.b.toNat)) = none ∧
        u.g.cp < 127 ∧ inFlight u s < 128 ∧ copyStarted f bar u s ≠ none) fun u s =>
          ((copyStarted f bar u s).getD s).modGroup u.g.id fun g => { g with cp := g.cp + 1 }) ∧
    Traps (.cpyT m f) (fun u _ => copyAllowed (shapeOf (u.g.getT f.a.toNat)) (shapeOf (u.g.getT f.b.toNat)) = false)
      (fun u => Trap.at_ trapShape u.x.pc) ∧
    LaneCopies (.cpyLB32 m f) f 4 ∧ LaneCopies (.cpyLB64 m f) f 8 ∧ LaneCopies (.cpyLB128 m f) f 16

/-- R187 to R189, R212, R213, Table 11-8: `txb.init` makes a barrier, `txb.arrive` and `txb.expect` post their event on one
without ERR, and `txb.wait` returns at once when its phase has passed, and parks when it has not. Model choices: barriers that
plain writes have spoilt (log 25), and what has not reached an acquire yet (log 7). -/
def Obligations.BarrierUnits : Prop :=
  ∀ (m : Mods) (f : MF) (k : Nat),
    Completes (.txbInit m f) (Reaches f k) (fun _ s =>
      (s.putN k (bytesOf 16 (txbWord f.data.toNat 0 f.data.toNat 0 0))).noteBarrier k) ∧
    Posts (.txbArrive m f) (fun u s => Reaches f k u s ∧ u.unreleased s 3 = false ∧
        takes (.arrive (max 1 f.data.toNat)) (s.barrier k) = true)
      (fun u s => ((s.release u.g.core 3).txbEvent k (.arrive (max 1 f.data.toNat))).1) ∧
    Posts (.txbExpect m f) (fun u s => Reaches f k u s ∧ takes (.expect (u.g.getS f.data.toNat).toNat) (s.barrier k) = true)
      (fun u s => (s.txbEvent k (.expect (u.g.getS f.data.toNat).toNat)).1) ∧
    Completes (.txbWait m f) (fun u s => Reaches f k u s ∧ txbBad (s.barrier k) = false ∧
        txbPhase (s.barrier k) ≠ (u.g.getS f.data.toNat).toNat % 16) (fun u s => s.acquireFree u.g.core (clusterCores u.g.core)) ∧
    Completes (.txbWait m f) (fun u s => Reaches f k u s ∧ txbBad (s.barrier k) = false ∧
        txbPhase (s.barrier k) = (u.g.getS f.data.toNat).toNat % 16)
      (fun u s => u.parked s (.txb k ((u.g.getS f.data.toNat).toNat % 16)))

/-- R215, R216, R237: the queries of the Sideboard, of poison marks and of the Bench, and the clearing of marks. -/
def Obligations.ScratchpadQueries : Prop :=
  ∀ (m : Mods) (f : RF),
    Completes (.sbq m f) (fun u _ => ptrTag (u.g.ptr f.b.toNat) = 1 ∧ spaceBad (u.g.ptr f.b.toNat) 0 = false) (fun u s =>
      let core := spadTarget u.g.core (u.g.ptr f.b.toNat)
      let off := bitsOf (u.g.ptr f.b.toNat) 18 0
      let len := if f.k = 1 then (u.g.getS f.c.toNat).toNat else (immVal 32 u.m f).toNat
      s.modGroup u.g.id (toS f.a (BitVec.ofNat 32 (if len = 0 then 256 - s.sbCount core else
        (s.sideboard.filter fun e => e.core == core && sbClash e.lo e.hi e.write off (min (off + len) 524288) true).length)))) ∧
    Completes (.poisq m f) (fun u s => u.poisBad s f = none ∧ u.poisWaits s f false = false) (fun u s =>
      s.modGroup u.g.id (toS f.a (BitVec.ofNat 32 (s.spoison.filter (poisLine f u)).length))) ∧
    Completes (.poisclr m f) (fun u s => u.poisBad s f = none ∧ u.poisWaits s f true = false) (fun u s =>
      { s with spoison := s.spoison.filter fun l => !poisLine f u l }) ∧
    Completes (.benchq m f) (fun _ _ => True) (fun u s =>
      s.modGroup u.g.id (toS f.a (BitVec.ofNat 32
        (if f.c = 0 then 32 - (s.bench (u.g.core / 4)).length
         else if f.c = 1 then ((s.bench (u.g.core / 4)).filter fun o => o.g == u.g.id).length
         else match (s.bench (u.g.core / 4)).find? fun o => o.g == u.g.id && o.grant == .waiting with
           | some o => ((s.arbiter (u.g.core / 4)).filter fun p => p.id != o.id && s.before (u.g.core / 4) p o).length
           | none => 0)))) ∧
    Waits (.poisq m f) (fun u s => u.poisBad s f = none ∧ u.poisWaits s f false = true) ∧
    Waits (.poisclr m f) (fun u s => u.poisBad s f = none ∧ u.poisWaits s f true = true)

/-! ## Matrix units -/

/-- R234 to R236, Tables 13-1 and 13-6: `tfield` replaces the bits of one field of a shape register and keeps the others,
`tget` reads one, and `mzero` zeroes 32 accumulator registers in the fragment's lanes. -/
def Obligations.ShapeRegistersAndZero : Prop :=
  ∀ (m : Mods) (f : RF),
    Does (.tfield m f) (fun u g => g.setT f.a.toNat (replaced (u.g.getT f.a.toNat) (shapeField f.c.toNat).1 (shapeField f.c.toNat).2.1
      (if f.c.toNat ≤ 1 then (s64 u.g f.b.toNat).toNat else (u.g.getS f.b.toNat).toNat))) ∧
    Does (.tget m f) (fun u => if f.c.toNat ≤ 1 then toS64 f.a ((u.g.getT f.b.toNat >>> (64 * f.c.toNat)).setWidth 64)
      else toS f.a (fieldWord (u.g.getT f.b.toNat) f.c.toNat)) ∧
    Completes (.mzero m f) (fun u s => f.a.toNat + 31 < (s.versionOf u.g).vregs) (fun u s =>
      s.modGroup u.g.id fun g => lanes32.foldl (fun (g : Group) j => g.setV (f.a.toNat + j) u.x.mask fun _ => 0) g) ∧
    Traps (.mzero m f) (fun u s => (s.versionOf u.g).vregs ≤ f.a.toNat + 31) fun u => Trap.at_ trapOperand u.x.pc

/-- R226, R233: a legal `mma` enters the Bench and raises mx, waits while mx is 15, the Bench full or a Sideboard full, and
traps on RND, on accumulators that do not exist and on its shapes, in that order. Model choices: what a matching wait reads of
the operation (log 37), and that its reads on another core's Sideboard are registered at issue (log 35). A base that fails is another
case (step 4 of R233). -/
def Obligations.MatrixMultiplyIssues : Prop :=
  ∀ (m : Mods) (f : RF),
    Completes (.mma m f) (fun u s => MmaLegal f u s ∧ u.g.mx < 15 ∧ (s.bench (u.g.core / 4)).length < 32 ∧ mmaStarted f u s ≠ none)
      (fun u s => ((mmaStarted f u s).getD s).modGroup u.g.id fun g =>
        { g with mx := g.mx + 1, mmas := g.mmas ++ [mmaIssued f u s.nextId] }) ∧
    Waits (.mma m f) (fun u s => MmaLegal f u s ∧ (15 ≤ u.g.mx ∨ 32 ≤ (s.bench (u.g.core / 4)).length ∨ mmaStarted f u s = none)) ∧
    Traps (.mma m f) (fun u _ => u.m.modx.rnd ≠ 0 ∧ isInt (shapeOf (u.g.getT f.b.toNat)).fmt = false)
      (fun u => Trap.at_ trapField u.x.pc) ∧
    Traps (.mma m f) (fun u s => (u.m.modx.rnd = 0 ∨ isInt (shapeOf (u.g.getT f.b.toNat)).fmt = true) ∧
      (s.versionOf u.g).vregs ≤ f.a.toNat + 31) (fun u => Trap.at_ trapOperand u.x.pc) ∧
    Traps (.mma m f) (fun u s => (u.m.modx.rnd = 0 ∨ isInt (shapeOf (u.g.getT f.b.toNat)).fmt = true) ∧
      f.a.toNat + 31 < (s.versionOf u.g).vregs ∧
      mmaShapesOk (shapeOf (u.g.getT f.b.toNat)) (shapeOf (u.g.getT f.c.toNat)) = false) (fun u => Trap.at_ trapShape u.x.pc)

/-- R190, R227 to R230, R302: a grant, at most one in an engine cycle, makes one pass of the arbiter's first entry and those that join
it, while granted work not yet done is less than 4 array cycles, which are 192 of the 48ths in which the work counts; each unit of it
spends allowance; the oldest pass completes for all its operations once the array has done its work; the engine's read of an operand
retires its Sideboard entry. Model choices: when the engine reads its operands (log 22), and the weights (log 16). -/
def Obligations.MatrixEngineSteps : Prop :=
  (∀ s cl, 192 ≤ s.engineWork cl → Steps (.benchGrant cl) s (s.markReady cl)) ∧
  (∀ s cl, (s.cluster cl).granted = some (s.engineCycle cl) → Steps (.benchGrant cl) s (s.markReady cl)) ∧
  (∀ s cl lead rest, s.engineWork cl < 192 → (s.cluster cl).granted ≠ some (s.engineCycle cl) →
    (s.markReady cl).arbiter cl = lead :: rest →
    let taken := rest.foldl (fun (t : List Op) o => if (s.markReady cl).joinsPass lead o t then t ++ [o] else t) [lead]
    let q := taken.foldl (fun (n : Nat) o => n + o.quarters) 0
    let pass : Pass := { id := s.nextId, cluster := cl, ops := taken.map Op.id, quarters := q, pairs := lead.pairs,
                         endAt := max (s.engineEnd cl) (48 * s.engineTime cl) + q * lead.pairs * 1000 }
    let paid : Power := { s.power with clu := s.power.clu.modify cl fun k =>
      { k with credit := clampCredit (k.credit - (taken.length * Config.passWeight lead.pairs : Nat)), granted := some (s.engineCycle cl) } }
    Steps (.benchGrant cl) s
      (({ s.markReady cl with power := paid, passes := s.passes ++ [pass], nextId := s.nextId + 1 } : State).mapOps fun o =>
        if taken.any fun p => p.id == o.id then { o with grant := .granted s.nextId } else o)) ∧
  (∀ s cl p, (s.passes.find? fun q => q.cluster == cl) = some p → 48 * s.engineTime cl < p.endAt → Steps (.mmaPassComplete cl) s s) ∧
  (∀ s cl p, (s.passes.find? fun q => q.cluster == cl) = some p → p.endAt ≤ 48 * s.engineTime cl → Steps (.mmaPassComplete cl) s
    (p.ops.foldl (fun (t : State) o => t.finishMma o) { s with passes := s.passes.filter fun q => q.id != p.id })) ∧
  ∀ s o k q n, s.op? o = some q → q.grant = .granted n → Steps (.engineOperandRead o k) s (s.readOperand q k)

/-! ## Synchronisation and tasks -/

/-- R195, R230, R245, R254, R258, R269: `wait` holds while a named class counts more than its field; then it completes, matching
`mma`s if it names mx, and raises POISON where one that it matches was poisoned; fences hold or cross; `sleep` parks; and while an
acquire of a fragment has not crossed its boundary, no unit of the fragment that accesses memory issues. Model
choices: what a wait matches and which poison counts (log 37), what a fence waits for (log 43), and what has not reached an acquire yet
(log 7). -/
def Obligations.WaitsAndFences : Prop :=
  (∀ (m : Mods) (f : WF),
    Waits (.wait m f) (fun u _ => waitsFor f u.g) ∧
    Completes (.wait m f) (fun u _ => ¬waitsFor f u.g ∧ f.mx.toNat = 15) (fun _ s => s) ∧
    Completes (.wait m f) (fun u _ => ¬waitsFor f u.g ∧ f.mx.toNat ≠ 15 ∧ (u.g.mmas.any fun r => r.hits u.x.mask) = false)
      (fun u s => s.modGroup u.g.id (matching f u)) ∧
    ∀ s g e p, Clear s (.wait m f) g e p → ¬waitsFor f g → f.mx.toNat ≠ 15 → (g.mmas.any fun r => r.hits (g.entry e).mask) = true →
      let t := State.trapped g.id e (g.entry e) (Trap.at_ trapPoison (g.entry e).pc)
        ((past s g e p).modGroup g.id (matching f (frag g e p))) (past s g e p)
      t.jqueue.length ≤ max 4096 s.jqueue.length → exec (.wait m f) s = .next t) ∧
  (∀ (m : Mods) (f : RF),
    Waits (.fence m f) (fun u s => fenceHeld u s = true) ∧
    Completes (.fence m f) (fun u s => fenceHeld u s = false) fun u s =>
      let s1 := if fenceRel u then s.release u.g.core u.m.modx.scope.toNat else s
      if fenceAcq u then s1.acquireFree u.g.core [] else s1) ∧
  (∀ (m : Mods) (f : IF),
    Completes (.sleep m f) (fun _ _ => f.imm = 0) (fun _ s => s) ∧
    Completes (.sleep m f) (fun _ _ => f.imm ≠ 0) fun u s => u.parked s (.sleep (s.time + 64 * f.imm.toNat))) ∧
  ∀ (m : Mods) (r : RF) (f : MF), ∀ i ∈ [Instr.ldN8 m f, .ldI8 m f, .ldN16 m f, .ldI16 m f, .ldB32 m f, .ldB64 m f, .ldsB32 m f,
      .ldsB64 m f, .st8 m f, .st16 m f, .stB32 m f, .stB64 m f, .stsB32 m f, .stsB64 m f, .atom32 m f, .atom64 m f, .red32 m f,
      .red64 m f, .sldB32 m f, .sldB64 m f, .tset m f, .cpyT m r, .cpyLB32 m r, .cpyLB64 m r, .cpyLB128 m r, .txbInit m f,
      .txbArrive m f, .txbExpect m f, .txbWait m f, .poisq m r, .poisclr m r, .mma m r, .qpush m r, .qpop m r, .qtry m r, .fetchw m f],
    ∀ s g e p, AtUnit s g e → i.parts = some p → p.check = none → (p.mods.stop && s.stopMatters g e) = false →
    (∃ o ∈ s.ops, o.g = g.id ∧ o.acq = true ∧ o.kind.isAccess = true ∧ (o.mask &&& (g.entry e).mask) ≠ 0) →
    exec i s = .next { s with issued := false }

/-- R256, R266, R269: `wgsync` waits for what a release waits for and then parks and may complete its workgroup's wait, and in
a shed class stops its group instead; a sleeping fragment whose time has come wakes at its next unit. Model choices: which
lanes a workgroup waits for (log 36), and a shed class at wgsync (log 38). -/
def Obligations.WorkgroupBarrierAndSleep : Prop :=
  (∀ (m : Mods) (f : RF),
    Waits (.wgsync m f) (fun u s => s.isShed (s.prioOf u.g) = false ∧ u.unreleased s 2 = true) ∧
    Posts (.wgsync m f) (fun u s => s.isShed (s.prioOf u.g) = false ∧ u.unreleased s 2 = false)
      (fun u s => (u.parked (s.release u.g.core 2) .wgsync).wgsyncDone u.g.wg) ∧
    ∀ s g e p, Clear s (.wgsync m f) g e p → (past s g e p).isShed ((past s g e p).prioOf g) = true →
      exec (.wgsync m f) s = .next (({ s with issued := false } : State).modGroup g.id fun h => { h with stopped := true })) ∧
  ∀ s, Steps .sleepExpiry s (s.mapGroups fun g => g.fragments.foldl (fun (h : Group) e =>
    match (h.entry e).st, (h.entry e).park with
    | .parked, .sleep t => if t ≤ s.time && h.phase == .resident then
      h.wake e fun y => { y with pc := y.next, seenB := false, seenT := false, seenO := false } else h
    | _, _ => h) g)

/-- R60, R66, R259 to R262, R266: `qpush` enters its record when its queue has room and no earlier push waits, and parks else;
`qpop` and `qtry` take the head record or return 2 once the region has drained; else `qpop` parks and `qtry` returns 0. Model
choices: later pushes and pops park behind earlier ones (log 39), a shed class (log 38), a poisoned record (log 55). -/
def Obligations.QueueUnits : Prop :=
  ∀ (m : Mods) (f : RF),
    (∀ r bs t, Posts (.qpush m f) (fun u s => Pushes f r u s ∧ r.room (queueOf f u) = true ∧ s.pushers r.id (queueOf f u) = [] ∧
        (s.release u.g.core 0).readRecord u.g (s64 u.g f.b.toNat).toNat = .ok (bs, t))
      fun u _ => t.enterQueue r.id (queueOf f u) bs) ∧
    (∀ r, Posts (.qpush m f) (fun u s => Pushes f r u s ∧ (r.room (queueOf f u) = false ∨ s.pushers r.id (queueOf f u) ≠ []))
      fun u s => u.parked { s with nextId := s.nextId + 1 } (.qpush (queueOf f u) (s64 u.g f.b.toNat).toNat s.nextId)) ∧
    (∀ r, Traps (.qpush m f) (fun u s => s.region? u.g.region = some r ∧ (r.kind = 1 ∨ r.stages.length ≤ queueOf f u))
      fun u => Trap.at_ trapQueue u.x.pc) ∧
    Takes (.qpop m f) f ∧ Takes (.qtry m f) f ∧
    (∀ r t, Posts (.qpop m f) (fun u s => Pops f r t u s ∧ Empty r u s ∧ s.drained r = false)
      fun u s => u.parked { s with nextId := s.nextId + 1 } (.qpop f.a.toNat (s64 u.g f.b.toNat).toNat s.nextId)) ∧
    ∀ r t, Completes (.qtry m f) (fun u s => Pops f r t u s ∧ Empty r u s ∧ s.drained r = false)
      fun u s => s.modGroup u.g.id (toS f.a 0)

/-- R63, R259, R263, R266: `tdone` ends its task, as a release first; a successor counter falls by one; a counter at 0 is a
TASK event, and one that reaches 0 enters its record as a `qpush` does, with a release of its own, or waits for room, or discards it with an
event; while earlier copies hold the record, it waits; a group without a task or with a second fragment traps. A counter that fails its
checks, or at a peer, is another case. Model choices: what a parked tdone keeps (log 39), a shed class (log 38), bytes and failures of a peer
(log 15), and what has not reached its acquire (log 7). -/
def Obligations.TaskEnds : Prop :=
  ∀ (m : Mods) (f : RF) (r : Region) (k : Task),
    Traps (.tdone m f) (fun u s => s.region? u.g.region = some r ∧ (u.g.task = none ∨ r.kind = 1 ∨ u.g.fragments ≠ [u.e]))
      (fun u => Trap.at_ trapQueue u.x.pc) ∧
    Posts (.tdone m f) (fun u s => Ends r k u s ∧ k.succ = 0)
      (fun u s => ((s.release u.g.core 0).endTask u.g.id).stopIfShed u.g.id) ∧
    ∀ w, Posts (.tdone m f) (fun u s => Ends r k u s ∧ Counter k w u s ∧ 1 < (counted k w u s).1)
        (fun u s => taskEnded u (counted k w u s).2) ∧
      Posts (.tdone m f) (fun u s => Ends r k u s ∧ Counter k w u s ∧ (counted k w u s).1 = 0)
        (fun u s => taskEnded u ((counted k w u s).2.event 0x84 u.g.ctx 0x33 k.succ)) ∧
      Posts (.tdone m f) (fun u s => Ends r k u s ∧ Counter k w u s ∧ (counted k w u s).1 = 1 ∧ recordFree k w u s)
        (fun u s => recordReleased r k w u s) ∧
      ∀ d p z, Waits (.tdone m f) fun u s => Ends r k u s ∧ Counter k w u s ∧ (counted k w u s).1 = 1 ∧
        (counted k w u s).2.counterNames u.g k.succ = some (d, p, z) ∧ z.sbHolds u.g p 64 false = true

/-- R58, R62, R260, R261, R263: the oldest parked push enters its record when its queue has room, or raises its fault; a
parked `tdone` ends its task; the oldest parked `qpop` takes the head record; a mailbox is written. Model choices: the order
and the late faults of parked units (log 39), when a mailbox is written (log 40), a record that an error of memory has spoilt (log 53),
and what has not reached an acquire (log 7). -/
def Obligations.QueueSteps : Prop :=
  (∀ s r q x g e p o bs t, s.region? r = some x → x.rstate = 1 → x.room q = true → OldestPush s x q g e (.qpush q p o) →
    s.sbHolds g p 64 false = false → (s.release g.core 0).readRecord g p = .ok (bs, t) →
    Steps (.qpushComplete r q) s ((t.enterQueue x.id q bs).wakeNext g.id e)) ∧
  (∀ s r q x g e p o c, s.region? r = some x → x.rstate = 1 → x.room q = true → OldestPush s x q g e (.qpush q p o) →
    s.sbHolds g p 64 false = false → (s.release g.core 0).readRecord g p = .error c →
    Steps (.qpushComplete r q) s ({ s with free := s.free + 2 }.wakeRaise g.id e (g.accessTrap e c p))) ∧
  (∀ s r q x g e o bs, s.region? r = some x → x.rstate = 1 → x.room q = true → OldestPush s x q g e (.tdone q o bs) →
    Steps (.qpushComplete r q) s
      ((((((s.release g.core 0).enterQueue x.id q bs).endTask g.id).acquireFree g.core []).wakeNext g.id e).stopIfShed g.id)) ∧
  (∀ s r q x g e reg p o t bs coff, s.region? r = some x → x.rstate = 1 → OldestPop s x q g e (.qpop reg p o) →
    (x.queue q).head? = some bs → s.isShed (s.prioOf g) = false → s.sbHolds g p 64 true = false → s.popTgt g p = .ok t →
    s.pendingAt g.core s.nextId t 64 = false → s.headBad x.id q = false → s.taskEntry g bs = some coff →
    Steps (.qpopComplete r q) s ((s.takeRecord g q reg t bs).modGroup g.id fun h =>
      h.wake e fun y => { y with pc := BitVec.ofNat 32 coff, seenB := false, seenT := false, seenO := false })) ∧
  (∀ (s : State) b rest, s.mailboxes = b :: rest → b.status ≠ 1 → Steps .fetchwMailboxComplete s
    ((({ s with mailboxes := rest } : State).release b.core 2).mailBytes b.core (b.key + 12) (bytesOf 4 b.status))) ∧
  ∀ (s : State) b rest, s.mailboxes = b :: rest → b.status = 1 → Steps .fetchwMailboxComplete s
    (((({ s with mailboxes := rest } : State).mailBytes b.core b.key (bytesOf 4 b.x ++ bytesOf 4 b.y ++ bytesOf 4 b.z)).release
      b.core 2).mailBytes b.core (b.key + 12) (bytesOf 4 1))

/-- R51, R58, R267: `fetchw` clears STATUS and withdraws: 3 where its region gives none, 2 when all workgroups have begun, 1
with the next workgroup's coordinates; it waits while a Sideboard entry holds the mailbox (R191) or an earlier access of its core to
STATUS is pending (R241). Model choices: fetchw withdraws at issue (log 40), and which lane performs when (log 8). A pointer that fails
its checks is another case. -/
def Obligations.WorkWithdrawal : Prop :=
  ∀ (m : Mods) (f : MF) (r : Region) (k : Nat),
    let gives := r.kind = 1 ∧ r.fetch = true ∧ r.cset ≤ 1
    Waits (.fetchw m f) (fun u s => s.mailboxKey u.g (fetchPtr f u) = .ok k ∧ s.region? u.g.region = some r ∧
      (s.sbHolds u.g (fetchPtr f u) 16 true || s.pendingAt u.g.core s.nextId (.bytes (k + 12) none) 4) = true) ∧
    Posts (.fetchw m f) (fun u s => Fetches f r k u s ∧ ¬gives) (fetchStarted k 3 0 0 0) ∧
    Posts (.fetchw m f) (fun u s => Fetches f r k u s ∧ gives ∧ r.count ≤ r.cursor) (fetchStarted k 2 0 0 0) ∧
    Posts (.fetchw m f) (fun u s => Fetches f r k u s ∧ gives ∧ r.cursor < r.count) (fun u s =>
      (fetchStarted k 1 (r.cursor % r.gx) (r.cursor / r.gx % r.gy) (r.cursor / (r.gx * r.gy)) u s).modRegion r.id fun x =>
        { x with cursor := x.cursor + 1, rstate := 1, begun := true })

/-- R268: `launch` waits for the fragment's accesses, and writes the code of a refused region, or 0 and adds the region. Model
choices: what launch writes and when it reads the region control block (log 29, log 41), and the order of its checks (log 31). -/
def Obligations.RegionLaunch : Prop :=
  ∀ (m : Mods) (f : RF),
    Waits (.launch m f) (fun u s => u.unreleased s 0 = true) ∧
    ∀ bs t r, (∀ c, Posts (.launch m f) (fun u s => u.unreleased s 0 = false ∧ s.region? u.g.region = some r ∧
        (s.release u.g.core 0).readRcb u.g (s64 u.g f.b.toNat).toNat 4 = .ok (bs, t) ∧
        t.checkRcb u.g.ctx r.eff (ofBytes bs) = .error c) fun u _ => t.modGroup u.g.id (toS f.a (BitVec.ofNat 32 c))) ∧
      ∀ o, Posts (.launch m f) (fun u s => u.unreleased s 0 = false ∧ s.region? u.g.region = some r ∧
        (s.release u.g.core 0).readRcb u.g (s64 u.g f.b.toNat).toNat 4 = .ok (bs, t) ∧
        t.checkRcb u.g.ctx r.eff (ofBytes bs) = .ok o) fun u _ =>
          if 4096 ≤ t.openRegions u.g.ctx then t.modGroup u.g.id (toS f.a (BitVec.ofNat 32 reasonLimit))
          else (t.addRegion (regionOf 0 u.g.ctx (s64 u.g f.b.toNat).toNat 0 (some r.id) r.eff o (ofBytes bs)) r.rcb).modGroup u.g.id
            (toS f.a 0)

/-! ## System units and traps -/

/-- R319 to R321, R325, Table 22-2: `getsr` reads a special register into S registers or every lane of its fragment; `setsr`
writes FRECP, and TRAPPC in a handler, and traps on TRAPPC elsewhere. -/
def Obligations.SpecialRegisters : Prop :=
  ∀ (m : Mods) (f : IF),
    Completes (.getsr m f) (fun _ _ => True) (fun u s => s.modGroup u.g.id (srRead f (s.special u.g (srNo f)) u)) ∧
    Completes (.setsr m f) (fun _ _ => srNo f = 0x40) (fun u s => s.modGroup u.g.id fun g =>
      { g with frecp := if srVector f then v64 u.g f.a.toNat (lowLane u.x.mask) else s64 u.g f.a.toNat }) ∧
    Completes (.setsr m f) (fun u _ => srNo f = 0x42 ∧ u.x.inH = true) (fun u s => s.modGroup u.g.id fun g =>
      { g with trappc := if srVector f then u.g.getV f.a.toNat (lowLane u.x.mask) else u.g.getS f.a.toNat }) ∧
    Traps (.setsr m f) (fun u _ => srNo f = 0x42 ∧ u.x.inH = false) fun u => Trap.at_ trapField u.x.pc

/-- R317, R327, R331 to R333: `featq` reads the feature word, `time` the time once the fragment's accesses have completed,
`sigq` a signal, and `trace` writes a USER packet. -/
def Obligations.SystemQueries : Prop :=
  (∀ (m : Mods) (f : RF),
    Does (.featq m f) (fun _ => toS64 f.a Config.featureWord) ∧
    Waits (.time m f) (fun u s => u.busy s = true) ∧
    Completes (.time m f) (fun u s => u.busy s = false) (fun u s => s.modGroup u.g.id (toS64 f.a (BitVec.ofNat 64 s.time))) ∧
    Completes (.sigq m f) (fun _ _ => True) fun u s => s.modGroup u.g.id (toS f.a (BitVec.ofNat 32
      (s.signalValue u.g ((s.group? u.g.id).getD u.g |>.entry u.e) f.c.toNat)))) ∧
  ∀ (m : Mods) (f : IF), Completes (.trace m f) (fun _ _ => True) fun u s =>
    s.emit u.g.id 5 (u.e + f.imm.toNat * 2 ^ 48 + (u.g.getS f.a.toNat).toNat * 2 ^ 64)

/-- R300, R328, R329: `setperf` records its context's request on the core's island, at most 15, and `xfer` asks for a transfer
of its own kernel from the version that it runs; both write their result. Model choice: the levels of a power request (log 49). -/
def Obligations.PerformanceAndTransferRequests : Prop :=
  ∀ (m : Mods) (f : RF),
    Completes (.setperf m f) (fun _ _ => True) (fun u s =>
      let r := s.requestLevel u.g.ctx u.g.core (min (levelAsked f u) 15)
      r.2.modGroup u.g.id (toS f.a (BitVec.ofNat 32 r.1))) ∧
    Posts (.xfer m f) (fun _ _ => True) fun u s =>
      let r := s.requestXfer u.g.ctx u.g.obj u.g.kidx (tagAsked f u) (some u.g) none
      r.2.modGroup u.g.id (toS f.a (BitVec.ofNat 32 r.1))

/-- R281, R314, R324 to R326: `trap` and an unabsorbed `brk` raise their traps, resuming after them, with their argument; an
absorbed `brk` halts at the breakpoint; `rfe` of the whole handler fragment leaves the handler, and any other traps. Model
choice: what halts at a breakpoint (log 51). -/
def Obligations.SoftwareTrapsAndReturn : Prop :=
  (∀ (m : Mods) (f : IF),
    Traps (.trap m f) (fun _ _ => True) (fun u => { Trap.at_ trapSoftware u.x.pc with resume := u.next, arg := f.imm.toNat }) ∧
    Traps (.brk m f) (fun u s => s.brkPoint u.g = none)
      (fun u => { Trap.at_ trapBreak u.x.pc with resume := u.next, arg := f.imm.toNat }) ∧
    ∀ n, Posts (.brk m f) (fun u s => s.brkPoint u.g = some n) fun u s =>
      (s.breakAct u.g u.e n).modEntry u.g.id u.e fun y => { y with seenB := false }) ∧
  ∀ (m : Mods) (f : RF),
    Completes (.rfe m f) (fun u _ => u.x.inH = true ∧ u.x.mask = u.g.hLanes) (fun u s =>
      s.modGroup u.g.id fun g => g.leaveHandler u.e) ∧
    Traps (.rfe m f) (fun u _ => ¬(u.x.inH = true ∧ u.x.mask = u.g.hLanes)) fun u => Trap.at_ trapField u.x.pc

/-- R97, R104, R112, R115, R184: a unit that is no instruction traps with the code of what it lacks, and a unit that cannot be
fetched with its cause and the first word that fails. Model choice: the order of what acts at the boundary of a unit (log 53).
-/
def Obligations.UnexecutableUnits : Prop :=
  (∀ s g e code, AtUnit s g e → TrapsAs (.unassignedOpcodeUnit code) s g e (Trap.at_ (rejectCode code) (g.entry e).pc)) ∧
  ∀ s g e, AtUnit s g e →
    let r := s.firstUnfetched g (g.entry e).pc.toNat maxUnitWords
    TrapsAs .codeFetchFault s g e { Trap.at_ trapFetch (g.entry e).pc with aux := r.2, addr := r.1 }

/-- R97, R115, R233, R321: every unit of which a check fails traps with the code of that check, and nothing of it is done; the checks
that need the group's state are among them, each in its place, while no load of what they read is outstanding (R235). Model choice:
what acts at the boundary of a unit before its legality (log 53). -/
def Obligations.IllegalUnits : Prop :=
  ∀ i s g e p r, AtUnit s g e → i.parts = some p → g.unitCheck e p = some r → s.checkWaits g p = false →
    TrapsAs i s g e (Trap.at_ (rejectCode r) (g.entry e).pc)

/-! ## Accesses and copies in flight -/

/-- R196, R200, R201, R205, R241, R356, R357: of the lanes named, those of an access that may perform do and it may end; a peer's
answer enters its lane, or its time runs out; a peer's own access is served; lanes, or commits that they owe to a replicated page,
fail after issue. Model choices: the lanes are the operand (log 8), what is not due changes nothing (log 18), the peer answers and asks
as the operand says, over a live port (log 15), which commits an acquire misses is a free choice (log 7), and responses enter the
inbound FIFO as a load's lanes perform (log 16). -/
def Obligations.AccessesPerform : Prop :=
  (∀ s o lanes q, s.op? o = some q → answers q.kind = true →
    (s.inFull q.core = true → Steps (.loadComplete o lanes) s s) ∧
    (s.inFull q.core = false → let t := s.performLanes o (lanesOf lanes)
      let back := ((s.awaited o).filter fun a => !(t.awaited o).contains a).map Prod.snd
      Steps (.loadComplete o lanes) s ((t.respond q.core o (sectorsOf back)).endAccess o))) ∧
  (∀ s o lanes q, s.op? o = some q → q.kind.silent = true →
    Steps (.storePerform o lanes) s ((s.performLanes o (lanesOf lanes)).endAccess o)) ∧
  (∀ s q lane a data poison, s.op? q.id = some q → AwaitsPeer s q lane a data.length →
    Steps (.remoteAccessComplete q.id lane data poison) s (answered q lane data poison s)) ∧
  (∀ s o lane q, s.op? o = some q → Steps (.remoteTimeout o lane) s
    (s.failLanes o (fun a => a.lane == lane && a.sent q && a.way.at_ + 1000 * s.lto ≤ s.time) causeRemote)) ∧
  (∀ s pa p (data : List Byte) poison, OnPort s p → data ≠ [] → pa + data.length ≤ Config.memTop →
    Steps (.remoteAccessReceive (.write data poison) pa p) s (((s.hostWrite pa data).hostMarks pa data.length poison).sendOver [some p])) ∧
  (∀ s pa p n, OnPort s p → n ≠ 0 → pa + n ≤ Config.memTop →
    (s.memPoisoned pa n = true →
      Steps (.remoteAccessReceive (.read n) pa p) s ({ s with reply := some (.poisoned (List.replicate n 0xFF)) }.sendOver [some p])) ∧
    (s.memPoisoned pa n = false →
      Steps (.remoteAccessReceive (.read n) pa p) s ({ s with reply := some (.data (s.peekN pa n)) }.sendOver [some p]))) ∧
  (∀ s pa p aop n v v2, OnPort s p → aop ≤ 10 → n = 4 ∨ (n = 8 ∧ aop ≠ 1) → pa % n = 0 → pa + n ≤ Config.memTop →
    s.memPoisoned pa n = false →
    let r := s.homeRmw pa n fun old => atomNew aop n old v v2
    Steps (.remoteAccessReceive (.atomic aop n v v2) pa p) s ({ r.2 with reply := some (.value r.1) }.sendOver [some p])) ∧
  (∀ s o lanes cause q, s.op? o = some q → q.kind.isAccess = true →
    Steps (.dataFaultDetect o lanes cause) s
      ((s.failLanes o (fun a => laneIn lanes a.lane) cause.toNat).doom o (if cause.toNat = causeRemote then lanes else 0))) ∧
  (∀ s o lanes, s.op? o = none → Steps (.dataFaultDetect o lanes (BitVec.ofNat 8 causeRemote)) s (s.doom o lanes)) ∧
  ∀ s o lanes q, s.op? o = some q → isCopy q.kind = true →
    Steps (.dataFaultDetect o lanes (BitVec.ofNat 8 causeRemote)) s (s.modOp o fun p =>
      { p with sectors := p.sectors.zipIdx.map fun (c : Sector × Nat) =>
          if c.1.landed || c.1.fail.isSome || !laneIn lanes (c.2 % 32) then c.1 else { c.1 with fail := s.sectorPeer p c.2 } })

/-- R186, R190, R285: a sector of a copy lands unless its copy is saved, not ready or stopped before it; a copy whose source
has been read holds what is left and its read entry retires. Model choice: a sector is read and written in one step (log 35).
-/
def Obligations.CopiesProgress : Prop :=
  (∀ s o k q, s.op? o = some q → isCopy q.kind = true → q.saved = false → s.asyncReady q = true → q.stoppedAt k = false →
    q.sectors ≠ [] → Steps (.copySectorLand o k) s (s.landSector q k)) ∧
  (∀ s o k q, s.op? o = some q → isCopy q.kind = true → q.saved = false → s.asyncReady q = true → q.stoppedAt k = false →
    q.sectors = [] → Steps (.copySectorLand o k) s (s.endCopy o)) ∧
  ∀ s o q, s.op? o = some q → isCopy q.kind = true → q.saved = false → s.asyncReady q = true → q.srcDone = false →
    (s.sideboard.any fun e => e.op == o && e.part == 1) = true → Steps (.copySourceReadDone o) s (s.captureSource q)

/-! ## The host's registers and memory -/

/-- R35, R36, R44, R183, R310, R317, R355, R357, Tables 11-5, 20-2, 20-4, 21-1, 26-1, 26-2: what a write of each register of
window A does, by its offset and the fields of the value. Model choice: the write of a register that the spec leaves open (log
49, log 50). -/
def Obligations.HostRegisterWrites : Prop :=
  (∀ s v, v < s.jack → Steps (.jackWrite v) s s) ∧
  (∀ s v, s.jack ≤ v → Steps (.jackWrite v) s (({ s with jack := min v s.jhead } : State).drainQueue s.jqueue)) ∧
  (∀ s off (data : List Byte), 0x10000 ≤ off → off + data.length ≤ 0x14000 →
    Steps (.registerWrite off data) s (s.writeSlots (off - 0x10000) data)) ∧
  (∀ s (data : List Byte), data.length = 8 → let v := ofBytes data
    Steps (.registerWrite 0x408 data) s (withPower (fun p =>
      { p with nomf := bitsOf v 63 44, resthold := max 1 (bitsOf v 43 28), ntenter := bitsOf v 27 19, ntexit := bitsOf v 18 10,
               tlfrac := bitsOf v 9 2 }) s) ∧
    (∀ n, n < 8 → Steps (.registerWrite (0x440 + 8 * n) data) s (withPower (fun p => { p with curve := p.curve.set n (curveWord v) }) s)) ∧
    (∀ n, n < 65 → Steps (.registerWrite (0x500 + 8 * n) data) s
      { s with intmap := s.intmap.set n ((if bitOf v 8 then 256 else 0) + bitsOf v 5 0) }) ∧
    (∀ n, n < 128 → Steps (.registerWrite (0x800 + 16 * n) data) s
        { s with hostwin := s.hostwin.modify n fun p => (bitsOf v 63 12 * 4096 + bitsOf v 1 0, p.2) } ∧
      Steps (.registerWrite (0x808 + 16 * n) data) s { s with hostwin := s.hostwin.modify n fun p => (p.1, bitsOf v 63 12 * 4096) }) ∧
    (∀ n, n < 480 → Steps (.registerWrite (0x1000 + 8 * n) data) s (s.modIsland n fun i => { i with vfloor := bitsOf v 47 40 })) ∧
    Steps (.registerWrite 0x4600 data) s (s.writeSamp v) ∧
    Steps (.registerWrite 0x4608 data) s { s with obs := { s.obs with sbuf := v } } ∧
    Steps (.registerWrite 0x4700 data) s { s with obs := s.obs.writeTrc v } ∧
    Steps (.registerWrite 0x4708 data) s { s with obs := { s.obs with tbase := v } } ∧
    (bitsOf v 15 0 ≠ 0 → Steps (.registerWrite 0x5108 data) s { s with lto := bitsOf v 15 0 })) ∧
  (∀ s v, v ≤ s.obs.twr → Steps (.trdWrite v) s
    (let t : State := { s with obs := { s.obs with trd := v } }
     if 0 < t.obs.ring then t.lossPacket else t)) ∧
  (∀ s v, s.devnumSet = false → Steps (.devnumWrite v) s { s with devnum := v % 8192, devnumSet := true }) ∧
  (∀ s v, s.devnumSet = true → Steps (.devnumWrite v) s s) ∧
  (∀ s v, ¬(10 ≤ bitsOf v 55 52 ∧ bitsOf v 55 52 ≤ 14) → Steps (.xinvWrite v) s { s with xinvq := s.xinvq ++ [v] }) ∧
  ∀ s n v,
    Steps (.bpWrite n false v) s { s with obs := { s.obs with bps := s.obs.bps.modify n fun b => { b with tag := v % 2 ^ 64, hits := 0 } } } ∧
    Steps (.bpWrite n true v) s { s with obs := { s.obs with bps := s.obs.bps.modify n fun b =>
      { b with ord := bitsOf v 63 32, ctx := bitsOf v 31 26, hits := 0, action := bitsOf v 2 1, en := bitOf v 0 } } }

/-- R38, R39, R303, R310, R355, R364: a read of ACCEPT n takes the command that its slot holds, unless it was taken, the
ring is full or a warm reset is under way (R45, log 61); PSTAT, ERRS, SAMP and LINK clear the counts that they return. Model choice: what a read of a register that the
spec leaves open answers (log 50). -/
def Obligations.HostRegisterReads : Prop :=
  (∀ s n, 256 ≤ n → Steps (.acceptRead n) s { s with reply := some (.value 0) }) ∧
  (∀ (s : State) n b a, n < 256 → s.intake[n]? = some b → s.accept[n]? = some a → s.resetting = true →
    Steps (.acceptRead n) s { s with reply := some (.value a.word) }) ∧
  (∀ (s : State) n b a, n < 256 → s.intake[n]? = some b → s.accept[n]? = some a → s.resetting = false →
    (argOf b 0 1 = 0 ∨ (a.outcome ≠ 0 ∧ argOf b 6 2 = a.ticket) → Steps (.acceptRead n) s { s with reply := some (.value a.word) }) ∧
    (argOf b 0 1 ≠ 0 → ¬(a.outcome ≠ 0 ∧ argOf b 6 2 = a.ticket) → s.jfull = true →
      Steps (.acceptRead n) s { s with reply := some (.value ({ a with outcome := 3 } : Accept).word) }) ∧
    (argOf b 0 1 ≠ 0 → ¬(a.outcome ≠ 0 ∧ argOf b 6 2 = a.ticket) → s.jfull = false →
      Steps (.acceptRead n) s { s.takeCmd n b with reply := some (.value (((s.takeCmd n b).accept[n]?).getD a).word) })) ∧
  (∀ s, Steps .pstatRead s (withPower (fun p => { p with crcerr := 0, gaps := 0 }) { s with reply := some (.value s.power.pstat) })) ∧
  (∀ s, Steps .errsRead s { s with reply := some (.value (s.errsCor * 2 ^ 32 + s.errsUnc)), errsCor := 0, errsUnc := 0 }) ∧
  (∀ s, Steps .sampRead s { s with reply := some (.value s.obs.sampWord), obs := { s.obs with sampLost := 0 } }) ∧
  ∀ (s : State) p l, s.links[p]? = some l →
    Steps (.linkRead p) s (withLink p (fun l => { l with crcerr := 0 }) { s with reply := some (.value l.word) })

/-- R248, R252, R352, R364: window B reads and writes installed memory, answers a read of a poisoned line with its marker and bytes of
0xFF, and marks or clears what a write touches; an AtomicOp adds, stores or compares on what is committed at device or system scope, and
returns the old value. Model choices: unwritten memory (log 4), the bytes that an encrypted line holds (log 57), and the marks of a
poisoned write (log 50). -/
def Obligations.HostMemory : Prop :=
  (∀ s a n, Config.memTop < a + n → Steps (.hostWindowBRead a n) s { s with reply := some .unsupported }) ∧
  (∀ s a n, a + n ≤ Config.memTop → 0 < n → s.memPoisoned a n = true →
    Steps (.hostWindowBRead a n) s { s with reply := some (.poisoned (List.replicate n 0xFF)) }) ∧
  (∀ s a n, a + n ≤ Config.memTop → 0 < n → s.memPoisoned a n = false →
    Steps (.hostWindowBRead a n) s { s with reply := some (.data (s.peekN a n)) }) ∧
  (∀ s a data poison, data ≠ [] → Config.memTop < a + data.length →
    Steps (.hostWindowBWrite a data poison) s { s with reply := some .unsupported }) ∧
  (∀ s a data, data ≠ [] → a + data.length ≤ Config.memTop →
    Steps (.hostWindowBWrite a data false) s ((s.hostWrite a data).wroteMem a data.length)) ∧
  (∀ s a data, data ≠ [] → a + data.length ≤ Config.memTop → Steps (.hostWindowBWrite a data true) s
    ((List.range ((a + data.length - 1) / 64 + 1 - a / 64)).foldl (fun (t : State) i => t.poisonMem (a / 64 + i)) (s.hostWrite a data))) ∧
  ∀ s k a n x y, n = 4 ∨ n = 8 → a % n = 0 → a + n ≤ Config.memTop → s.memPoisoned a n = false →
    let s1 := s.holdN a n none
    let old := ofBytes ((List.range n).map fun i => s1.shared (a + i))
    Steps (.hostAtomicRequest k a n x y) s { ({ s1 with mclock := s1.mclock + 1 } : State).homeBytes (s1.mclock + 1) a (bytesOf n (match k with
      | .fetchAdd => (old + x) % 2 ^ (8 * n)
      | .swap => x % 2 ^ (8 * n)
      | .cas => if old = x % 2 ^ (8 * n) then y % 2 ^ (8 * n) else old)) with reply := some (.value old) }

/-! ## Commands -/

/-- R33, R34, R37, R41, R45, R360: CTX_CREATE opens its context, CTX_DESTROY ends it, and it becomes FREE once nothing of it
is left; the resets, a warm one ending once no operation is outstanding (log 61), after which no context survives. Model choices:
the values at a boot (log 5), what a command does at acceptance (log 44), and what a warm reset and a closing clear (log 45). -/
def Obligations.ContextsAndResets : Prop :=
  (∀ s c k, Next s c 1 k →
    let t := s.beginCmd k
    let d : Eff := { cores := argOf k.bytes 32 2, vregs := argOf k.bytes 34 2, spad := argOf k.bytes 36 4, priv := argOf k.bytes 40 4,
                     prio := argOf k.bytes 44 1 % 8, weight := argOf k.bytes 46 2, fdom := false, fpin := false }
    Steps (.ctxCreate c) s (({ t.modCtx c (openedWith (argOf k.bytes 8 8) (argOf k.bytes 16 8) t.nextId (bitOf (argOf k.bytes 24 1) 0) d) with
      nextId := t.nextId + 1 } : State).completeCmd k 0)) ∧
  (∀ s c k, ((s.ctx c).accepted.find? fun d => d.opc == 2) = some k → s.resetting = false →
    Steps (.ctxDestroy c) s (((s.destroyCtx c k.seq 0x2E).beginCmd k).modCtx c fun x => { x with closing := some k })) ∧
  (∀ s c, s.closable c = false → Steps (.contextCloseComplete c) s s) ∧
  (∀ s c k, s.closable c = true → (s.ctx c).closing = some k → Steps (.contextCloseComplete c) s
    ((({ s.clearSpads with tlb := s.tlb.filter fun t => t.ctx != c } : State).completeCmd k 0).modCtx c fun _ => Context.free)) ∧
  (∀ s f, s.fwStaged = some f → exec .coldReset s = .next
    { State.boot (s.boots + 1) f (max s.fwMin (argOf f 4 2)) with agenda := s.agenda, free := s.free, nextId := s.nextId }) ∧
  (∀ s, s.fwStaged = none → exec .coldReset s = .next
    { State.boot (s.boots + 1) s.fwRunning s.fwMin with agenda := s.agenda, free := s.free, nextId := s.nextId }) ∧
  (∀ s, s.abandon.ops ≠ [] → Steps .warmReset s s.abandon) ∧
  (∀ s, s.abandon.ops = [] → Steps .warmReset s s.abandon.endReset) ∧
  ∀ s : State, let t := s.endReset
    t.resetting = false ∧ (∀ x ∈ t.ctxs, x.st = .free) ∧ t.objs = [] ∧ t.regions = [] ∧ t.groups = [] ∧ t.wgs = [] ∧ t.fwq = [] ∧
      t.devnum = s.devnum

/-- R17, R18, R32, R40, R43, R47, R288, R360, R367: LOAD makes an object resident or fails with its reason, UNLOAD releases
one, START adds its region, TRANSFER completes when no group is pending, JSIGN signs, and FW_UPDATE stages a signed image.
Model choices: the order of the checks (log 31, log 32), what a command does at acceptance (log 44), UNLOAD of a tag that is unknown
or draining and ARG 0 and the CTX byte of FW_UPDATE's records (log 60), that firmware is read without the host windows (log 45), and the
signature (log 13). -/
def Obligations.ObjectCommands : Prop :=
  (∀ s c k, Next s c 3 k →
    let t := s.beginCmd k
    (t.readGlobal c (argOf k.bytes 8 8) (argOf k.bytes 16 8) = none → Steps (.load c) s (t.failCmd k 0x01)) ∧
    ∀ img, t.readGlobal c (argOf k.bytes 8 8) (argOf k.bytes 16 8) = some img →
      (∀ r, t.makeResident c img (argOf k.bytes 8 8) = .error r → Steps (.load c) s (t.failCmd k r)) ∧
      ∀ tag z, t.makeResident c img (argOf k.bytes 8 8) = .ok (tag, z) → Steps (.load c) s (z.completeCmd k tag)) ∧
  (∀ s c k, Next s c 4 k →
    let t := s.beginCmd k
    (t.objByTag c (argOf k.bytes 8 8) = none → Steps (.unload c) s (t.failCmd k reasonUnknown)) ∧
    ∀ o, t.objByTag c (argOf k.bytes 8 8) = some o →
      (o.draining = true → Steps (.unload c) s (t.failCmd k reasonDraining)) ∧
      (o.draining = false → Steps (.unload c) s ((t.unref c o.id).completeCmd k 0))) ∧
  (∀ s c k, Next s c 5 k →
    let t := s.beginCmd k
    let x := ofBytes (k.bytes.drop 64)
    (∀ r, t.checkRcb c (t.ctx c).deflt x = .error r → Steps (.start c) s (t.failCmd k r)) ∧
    ∀ o, t.checkRcb c (t.ctx c).deflt x = .ok o → Steps (.start c) s
      (t.addRegion (regionOf 0 c (argOf k.bytes 8 8) k.seq none (t.ctx c).deflt o x) 0)) ∧
  (∀ s c k, Next s c 6 k →
    let t := s.beginCmd k
    ((t.xfers.find? fun x => x.ctx == c && x.cmd == some k.seq) = none → Steps (.transfer c) s (t.completeCmd k 0)) ∧
    ∀ x, (t.xfers.find? fun x => x.ctx == c && x.cmd == some k.seq) = some x →
      (x.active = true → Steps (.transfer c) s t) ∧
      (x.active = false → Steps (.transfer c) s (({ t with xfers := (t.xfers.map fun y =>
        if y == x then { y with cmd := none } else y).filter fun y => y.target != 0xFFFF } : State).completeCmd k x.moved))) ∧
  (∀ s c k, Next s c 9 k → Steps (.jsign c) s ((s.beginCmd k).signHead.completeCmd k (s.beginCmd k).jhead)) ∧
  ∀ (s : State) k rest, s.fwq = k :: rest → s.resetting = false →
    let n := argOf k.bytes 16 8
    let img := s.peekN (hostKey (argOf k.bytes 8 8)) n
    let t := ({ s with fwq := rest } : State).post (some k.seq) 11 k.ctx 3 0 0
    (n < 70 → Steps .fwUpdate s (t.post (some k.seq) 11 k.ctx 5 0x60 0)) ∧
    (70 ≤ n → Steps .fwUpdate s
      (if Config.firmwareSigned img = false then t.post (some k.seq) 11 k.ctx 5 0x60 0
       else if argOf img 4 2 < s.fwMin then t.post (some k.seq) 11 k.ctx 5 0x61 0
       else ({ t with fwStaged := some img } : State).post (some k.seq) 11 k.ctx 4 0 0))

/-- R290 to R292, R361 to R363: the attestation report reaches its buffer; a key that unwraps is installed; MIGRATE_OUT
starts, goes on while a group still runs, and ends when its context is saved; MIGRATE_IN opens a context from an image, sealed or not.
Model choices: the opaque keys and seals (log 13), what an image holds (log 27), and ARG 0 of the COMPLETED records of ATTEST and
MIGRATE_IN (log 60). -/
def Obligations.AttestationAndMigration : Prop :=
  (∀ s c k, Next s c 10 k → argOf k.bytes 24 1 = 0 →
    let t := s.beginCmd k
    let r := t.report c ((k.bytes.drop 32).take 32)
    (argOf k.bytes 16 8 < r.length ∨ t.hostAllowed c (argOf k.bytes 8 8) r.length true = false →
      Steps (.attestReport c) s (t.failCmd k 0x62)) ∧
    (r.length ≤ argOf k.bytes 16 8 → t.hostAllowed c (argOf k.bytes 8 8) r.length true = true →
      Steps (.attestReport c) s ((t.hostWrite (hostKey (argOf k.bytes 8 8)) r).completeCmd k 0))) ∧
  (∀ s c k, Next s c 10 k → argOf k.bytes 24 1 = 1 →
    let t := s.beginCmd k
    let a := argOf k.bytes 8 8
    ((t.ctx c).conf = false ∨ (t.ctx c).key ≠ none → Steps (.attestKeyInstall c) s (t.failCmd k 0x64)) ∧
    ((t.ctx c).conf = true → (t.ctx c).key = none → argOf k.bytes 16 8 < 124 ∨ t.hostAllowed c a 124 false = false →
      Steps (.attestKeyInstall c) s (t.failCmd k 0x62)) ∧
    ((t.ctx c).conf = true → (t.ctx c).key = none → 124 ≤ argOf k.bytes 16 8 → t.hostAllowed c a 124 false = true →
      Steps (.attestKeyInstall c) s (match Config.unwrapKey (t.ctx c).xkey (t.peekN (hostKey a) 124) with
        | none => t.failCmd k 0x63
        | some key =>
          let z := t.modCtx c fun y => { y with key := some key, sealed := none }
          match (t.ctx c).st, (t.ctx c).sealed with
          | .open_, some img => z.unseal k key img
          | _, _ => z.completeCmd k 0))) ∧
  (∀ s c k, (s.ctx c).migrating = none → Next s c 7 k → Steps (.migrateOut c) s ((s.beginCmd k).startOut k)) ∧
  (∀ s c seq n, (s.ctx c).migrating = some (seq, n) → let t := (s.releaseOut c).parkOut c
    (t.outReady c = false → Steps (.migrateOut c) s t) ∧
    ∀ k, t.outReady c = true → ((t.ctx c).started.find? fun k => k.seq == seq) = some k →
      Steps (.migrateOut c) s (t.finishOut k)) ∧
  ∀ s c k, Next s c 8 k →
    let t := s.beginCmd k
    let a := argOf k.bytes 24 8
    let n := argOf k.bytes 32 8
    let img := t.peekN (hostKey a) n
    let z := t.openCtx c (argOf k.bytes 8 8) (argOf k.bytes 16 8) (bitOf (rdImg img 24 1) 0) (defaultsOf ((img.drop 32).take 16))
    (n = 0 ∨ t.hostAllowed c a n false = false → Steps (.migrateIn c) s (t.failCmd k 0x62)) ∧
    (n ≠ 0 → t.hostAllowed c a n false = true → inHeaderOk img = false → Steps (.migrateIn c) s (t.failCmd k 0x01)) ∧
    (n ≠ 0 → t.hostAllowed c a n false = true → inHeaderOk img = true →
      (bitOf (rdImg img 24 1) 1 = true →
        Steps (.migrateIn c) s ((z.modCtx c fun x => { x with sealed := some img }).completeCmd k 0)) ∧
      (bitOf (rdImg img 24 1) 1 = false → ∀ y, z.bringIn c img = .ok y → Steps (.migrateIn c) s (y.completeCmd k 0)))

/-! ## Placing, pre-empting and the Dresser -/

/-- R51 to R56, R61, R62, R65 to R68: in its turn a region's next workgroups are placed on cores that fit, or it fails with
NO_FIT or NO_VERSION; a pipeline starts; a seed record is pushed; the Dresser moves or grants a core; a blocked pipeline is
reported, then fails. Model choices: the core is the operand (log 30), task pools (log 42), the samples and windows of the
Dresser (log 46), and NO_FIT before NO_VERSION (log 64). -/
def Obligations.WorkPlacement : Prop :=
  (∀ s r x cores, s.region? r = some x → s.turnOf x = true → x.kind = 1 → x.cursor < x.count →
    (x.begun = false → s.neverFits x = true → Steps (.workgroupPlace r cores) s (s.failRegion x.id 0x30)) ∧
    (x.begun = true ∨ s.neverFits x = false →
      (s.startVersion x.ctx x.obj x.kidx x.eff x.debug = none → Steps (.workgroupPlace r cores) s (s.failRegion x.id 0x04)) ∧
      ∀ v off, s.startVersion x.ctx x.obj x.kidx x.eff x.debug = some v → s.spadPick cores (s.spadNeed x x.kidx) = some off →
        s.gridFits x cores = true → (1 < x.cset ∨ (s.fewest (cores.headD 0) fun c => s.gridFits x [c]) = true) →
        Steps (.workgroupPlace r cores) s ((cores.zipIdx.foldl
          (fun (t : State) p => t.placeOne x v (x.cursor + p.2) p.2 p.1 off (s.spadNeed x x.kidx))
          ((s.openRegion x).modRegion x.id fun y => { y with cursor := y.cursor + y.cset })).unkeep x.id))) ∧
  (∀ s r x c k, s.region? r = some x → s.turnOf x = true → x.kind = 3 → x.stages = [k] → x.rstate = 1 → x.queue 0 ≠ [] →
    x.cores.length < k.maxc → s.coreFits x 0 c = true → (s.fewest c fun d => s.coreFits x 0 d) = true →
    Steps (.workgroupPlace r [c]) s ((s.startStage x.id 0 c).unkeep x.id)) ∧
  (∀ s r x cores, s.region? r = some x → x.kind ≠ 1 → x.rstate = 0 → s.turnOf x = true →
    (s.neverFits x = true → Steps (.pipelineStart r cores) s (s.failRegion r 0x30)) ∧
    (s.neverFits x = false → (x.stages.any fun t => (s.startVersion x.ctx x.obj t.kidx x.eff x.debug).isNone) = true →
      Steps (.pipelineStart r cores) s (s.failRegion r 0x04)) ∧
    (s.neverFits x = false → (x.stages.any fun t => (s.startVersion x.ctx x.obj t.kidx x.eff x.debug).isNone) = false →
      (x.kind ≠ 3 ∨ (s.fewest (cores.headD 0) fun c => s.coreFits x 0 c) = true) → ∀ t, s.startPipe x cores = some t →
      Steps (.pipelineStart r cores) s t)) ∧
  (∀ s r x, s.region? r = some x → x.kind ≠ 1 → x.rstate = 1 → x.seeded < x.seedN → x.room 0 = true →
    (s.seedRecord x = none → Steps (.seedPush r) s (s.failRegion r 0x45)) ∧
    ∀ bs, s.seedRecord x = some bs → Steps (.seedPush r) s (s.modRegion r fun y =>
      { y with queues := y.queues.modify 0 fun l => l ++ [bs], seeded := y.seeded + 1 })) ∧
  (∀ s r x core rcv, s.region? r = some x → x.kind = 2 → x.rstate = 1 → (s.ctx x.ctx).st = .open_ → s.isShed x.eff.prio = false →
    x.startedAt < s.time → (s.time - x.startedAt) % (1000 * x.rivl) = 0 → x.dressedAt ≠ some s.time →
    let t := s.modRegion r fun y => { y with dressedAt := some s.time }
    t.receiver x = some rcv →
    (∀ d, t.donor x rcv = some d → x.cores.contains (core, d) = true → Steps (.dresserSample r core) s
      ((t.modRegion x.id fun y => { y with moves := y.moves ++ [{
        core := core, donor := d, receiver := rcv,
        groups := (t.groups.filter fun g => g.region == x.id && g.core == core && g.stage == d).map Group.id }] }).vacate x.id d core)) ∧
    (t.donor x rcv = none → x.cores.length < x.eff.cores → t.coreFits x rcv core = true →
      Steps (.dresserSample r core) s (t.startStage x.id rcv core))) ∧
  (∀ s r x core, s.region? r = some x → x.dressedAt = some s.time → Steps (.dresserSample r core) s s) ∧
  (∀ s, Steps .deadlockWindowExpiry s (s.regions.foldl (fun (t : State) r => match t.region? r.id with
    | some x => t.checkWindow x
    | none => t) s)) ∧
  ∀ (s : State) (r : Region) t, r.blockedAt = some t → s.isShed r.eff.prio = false →
    (r.warned = false → t + 1000000 * r.dlwin ≤ s.time →
      s.checkWindow r = (s.event 0x81 r.ctx 0 r.rcb).modRegion r.id fun x => { x with warned := true }) ∧
    (r.warned = true → t + 2000000 * r.dlwin ≤ s.time → s.checkWindow r = s.failRegion r.id 0x31) ∧
    (s.time < t + 1000000 * r.dlwin → s.checkWindow r = s)

/-- R266, R284 to R287, R306, R323: a pre-emption for a region's work takes the first workgroup that it may; one for a shed
class a stopped workgroup; a drained set is saved; a saved set is restored where it fits; a class shed for 200 us is
pre-empted. Model choices: which workgroup is taken and how it is restored (log 47). -/
def Obligations.PreemptionSteps : Prop :=
  (∀ s r w x y, s.region? r = some x → s.wg? w = some y → s.mayPlace x = true → x.waits = true → s.neverFits x = false →
    s.ifSaved.fitsNow x = false → (s.preemptable x.eff.prio).contains y = true →
    ((s.preemptable x.eff.prio).all fun z => !s.preemptBefore z y) = true →
    Steps (.preempt (.room r w)) s (s.beginSave (s.setOf y) (8 + x.id))) ∧
  (∀ s w y, s.wg? w = some y → y.phase = .placed → s.isShed (s.wgPrio y) = true → s.allStopped y = true → s.imageFits y = true →
    Steps (.preempt (.shed w)) s (s.beginSave (s.setOf y) 1)) ∧
  (∀ s w x, s.wg? w = some x → x.phase = .saving → ((s.setOf x).all fun y => y.phase != .saving || s.wgDrained y) = true →
    Steps (.preemptSaveComplete w) s
      ((((s.setOf x).filter fun y => y.phase == .saving).foldl (fun (t : State) y => t.saveWg y) s).debugSaved x.ctx)) ∧
  (∀ s w x, s.wg? w = some x → x.phase = .saving → ((s.setOf x).all fun y => y.phase != .saving || s.wgDrained y) = false →
    Steps (.preemptSaveComplete w) s s) ∧
  (∀ s w cores x, s.wg? w = some x → ((s.setOf x).all fun y => s.mayRestore y) = true → s.restoreFits (s.setOf x) cores = true →
    (s.regions.any fun q => s.wgPrio x < q.eff.prio && s.fitsNow q) = false →
    (1 < (s.setOf x).length ∨ (s.fewest (cores.headD 0) fun c => s.restoreFits (s.setOf x) [c]) = true) →
    Steps (.groupRestore w cores) s
      (let t := ((s.setOf x).zip cores).foldl (fun (t : State) p => t.loadWg p.1 p.2) s
       ({ t with sideboard := (t.ops.map Op.id).flatMap fun o => t.sideboard.filter fun e => e.op == o } : State).deliverQueued x.ctx)) ∧
  ∀ s, Steps .shedPreemptTimeout s ((s.wgs.filter fun w => w.phase == .placed && s.shedLong (s.wgPrio w)).foldl
    (fun (t : State) w => match t.wg? w.id with
      | none => t
      | some x =>
        if x.phase != .placed then t
        else if t.imageFits x then t.beginSave (t.setOf x) 1
        else t.mapGroups fun g => if g.wg == x.id && g.phase == .resident then { g with stopped := true } else g) s)

/-! ## Power -/

/-- R296, R298 to R302, R348, Table 20-2: what each periodic step of the power controller does when it is due, and that one moment
gives one sample, refill, payment or decision. A sample is of the cycles counted on its island since the last one; mean power is in
microwatts, and a temperature in thousandths of a degree. Model choices: mean power and temperature are the operands (log 16), and the
roundings and moments of power (log 49, log 62). -/
def Obligations.PowerLevelSteps : Prop :=
  (∀ s cl core n, core < 4 → s.time = 10000 * n → (s.island (5 * cl + core)).sampAt < s.time →
    let isl := 5 * cl + core
    let a := (s.island isl).act
    let stall := if a = 0 then 0 else 256 * (s.island isl).stl / a
    Steps (.stallSample cl core n) s ((s.modIsland isl fun i =>
      { i.sampled stall (s.topLevel isl) s.power.ntenter s.power.exitThreshold with act := 0, stl := 0, sampAt := s.time }).retarget isl)) ∧
  (∀ s cl core n, s.time ≤ (s.island (5 * cl + core)).sampAt → Steps (.stallSample cl core n) s s) ∧
  (∀ s isl, Steps (.levelChangeComplete isl) s (s.modIsland isl fun i =>
    let goal := Config.vcode i.going
    if i.chg = true ∧ i.since + Config.relock isl i.since + 25 * (i.vcode - goal + (goal - i.vcode)) ≤ s.time then
      Island.start s.time { i with chg := false, level := i.going, freq := Config.levelFreq i.going, vcode := goal }
    else i)) ∧
  (∀ s power, s.time % 10000 = 0 → s.power.refilled < s.time →
    let total := (List.range 64).foldl (fun (n : Nat) c => n + s.weightOf c) 0
    let share (c : Nat) : Nat := (1500000000 - power) / 100000 * s.weightOf c / max 1 total
    Steps (.boostRefill power) s ((withPower (fun p => { p with refilled := s.time }) { s with ctxs := s.ctxs.zipIdx.map fun p =>
      { p.1 with share := share p.2, tokens := min (p.1.tokens + share p.2) (10 * share p.2) } }).retargetAll)) ∧
  (∀ s power, s.time ≤ s.power.refilled → Steps (.boostRefill power) s s) ∧
  (∀ s, s.time % 1000 = 0 → s.power.charged < s.time → Steps .boostTokenCharge s
    ((withPower (fun p => { p with charged := s.time })
      (s.charges.foldl (fun (t : State) p => t.modCtx p.1 fun x => { x with tokens := x.tokens - p.2 }) s)).retargetAll)) ∧
  (∀ s, s.time ≤ s.power.charged → Steps .boostTokenCharge s s) ∧
  (∀ s cl n, Steps (.withholdLevelUpdate cl n) s (withPower (fun p => { p with clu := p.clu.modify cl fun k =>
    if k.windows < n ∧ n ≤ s.time * 21 / 640 then
      { k with w := if k.credit < 0 then min 8 (k.w + 1) else if 4194304 ≤ k.credit then k.w - 1 else k.w, windows := n }
    else k }) s)) ∧
  ∀ s die t, Steps (.junctionTemperatureChange die t) s (withPower (fun p => ({ p with temp := p.temp.set die t } : Power).rates) s)

/-- R303 to R307, Table 20-4: a frame with a wrong CRC is counted, a repeated one ignored, another applied; 100 us without a
frame are a loss; the lowest class is shed while fewer are shed than asked, and the highest restored after the hold. Model
choices: what is due when (log 18) and the values at the limits (log 49). -/
def Obligations.TelemetryAndShedding : Prop :=
  (∀ s v, frameCrc v = false → Steps (.telemetryFrame v) s (withPower (fun p => { p with crcerr := min 65535 (p.crcerr + 1) }) s)) ∧
  (∀ s v t, frameCrc v = true → s.power.frameAt = some t → bitsOf v 23 16 = bitsOf s.power.telem 23 16 → Steps (.telemetryFrame v) s s) ∧
  (∀ s v, frameCrc v = true → s.power.frameAt = none ∨ bitsOf v 23 16 ≠ bitsOf s.power.telem 23 16 →
    Steps (.telemetryFrame v) s (withPower (fun p => p.frame v s.time) s)) ∧
  (∀ s t, s.power.frameAt = some t → s.power.tloss = false → t + 100000 ≤ s.time → Steps .telemetryLoss s
    (withPower (fun p => ({ p with tloss := true, frac := p.tlfrac } : Power).rates) s)) ∧
  (∀ s t, s.power.frameAt = some t → s.time < t + 100000 → Steps .telemetryLoss s s) ∧
  (∀ s, s.power.tloss = false → s.power.shedlvl < s.power.shedreq →
    let c := s.power.shedlvl
    Steps .shedClass s (((withPower (fun p => { p with shedlvl := c + 1, shedAt := (c, s.time) :: p.shedAt.filter fun q => q.1 != c }) s).event
      0x85 0xFF 0 c).mapGroups fun g =>
        if s.prioOf g == c && g.phase == .resident && g.atBoundary
        then { g with stopped := true } else g)) ∧
  (∀ s, s.power.tloss = true ∨ s.power.shedreq ≤ s.power.shedlvl → Steps .shedClass s s) ∧
  (∀ s, s.power.tloss = false → 0 < s.power.shedlvl → s.power.shedreq < s.power.shedlvl →
    s.power.holdFrom + 1000 * s.power.resthold ≤ s.time → Steps .classRestore s s.restoreClass) ∧
  ∀ s, s.power.tloss = true ∨ s.power.shedlvl ≤ s.power.shedreq ∨ s.time < s.power.holdFrom + 1000 * s.power.resthold →
    Steps .classRestore s s

/-! ## Debug, links and errors -/

/-- R284, R310 to R316, Tables 21-1, 21-2: HALT, RESUME and SAVE of a context, the deferred SAVE, a sample and the dump of the
bins. Model choices: what halts in place (log 51) and the class of a sample (log 17). -/
def Obligations.DebugSteps : Prop :=
  (∀ s c, Steps (.dbgHalt c) s ((s.modCtx c fun x => { x with halt := true }).mapGroups (haltsInPlace s c))) ∧
  (∀ s c, let gs := s.groups.filter fun g => g.ctx == c && s.observable g
    let woken := gs.filter fun g => g.phase == .resident && g.fragments.any fun e => (g.entry e).st == .halted
    Steps (.dbgResume c) s (woken.foldl (fun (t : State) g => t.sync g.id 4)
      ((s.modCtx c fun x => { x with halt := false }).mapGroups fun g => if gs.any fun h => h.id == g.id then g.resume else g))) ∧
  (∀ s c, s.quiet c = true → Steps (.dbgSave c) s (s.saveCtx c)) ∧
  (∀ s c, s.quiet c = false → Steps (.dbgSave c) s (s.modCtx c fun x => { x with saveReq := true, saved := false })) ∧
  (∀ s, Steps .debugSaveDeferred s
    ((List.range 64).foldl (fun (t : State) c => if (t.ctx c).saveReq && t.quiet c then t.saveCtx c else t) s)) ∧
  (∀ s core slot, s.obs.sampEn = false ∨ s.sampleDue core slot = false → Steps (.sampleTick core slot) s s) ∧
  (∀ s core slot, s.obs.sampEn = true → s.sampleDue core slot = true →
    let t := s.takeSample core slot
    Steps (.sampleTick core slot) s (t.setSlot { t.slotAt core slot with sampled := (s.island (coreIsland core)).mcyc })) ∧
  ∀ s, let t := s.writeVirt s.obs.sampCtx s.obs.sbuf (s.obs.bins.flatMap Bin.bytes)
    Steps .sampleDump s { t with obs := { t.obs with bins := [] } }

/-- R183, R308, R309, R353, R355, R357, R358, R364: flits, ports and keys of links; interrupts held off; the oldest
invalidation; a notification, delivered or queued for the classes of its groups; errors of memory, registers, entries and queues. Model
choices: the ninth failure of a flit and an encrypted port (log 52), keys by port and exchange (log 13), what is sent again (log 15), the
target of a notification (log 48), saturation (log 50), and where an error is read (log 53). -/
def Obligations.LinkAndErrorSteps : Prop :=
  (∀ s p good, Steps (.flitReceive p good) s (withLink p (fun l =>
    if !l.up || 9 ≤ l.retries || (l.enc && 2 ^ 32 ≤ l.rxNonce + 1) then l
    else if good then { l with retries := 0, rxNonce := if l.enc then l.rxNonce + 1 else 0 }
    else { l with crcerr := min 0xFFFFFFFF (l.crcerr + 1), retries := l.retries + 1 }) s)) ∧
  (∀ (s : State) p l, s.links[p]? = some l → (l.up = true ∧ 9 ≤ l.retries →
      Steps (.linkDown p) s ((withLink p (fun l => { l with
        up := false, enc := false, retries := 0, admitted := false, rxKey := [],
        txKey := [], rxNonce := 0, txNonce := 0 }) s).rePort (some p))) ∧
    (l.up = false ∨ l.retries < 9 → Steps (.linkDown p) s s)) ∧
  (∀ (s : State) p l enc admitted, s.links[p]? = some l → (l.up = true ∨ (enc = true ∧ admitted = false) →
      Steps (.linkUp p enc admitted) s s) ∧
    (l.up = false → enc = false ∨ admitted = true → Steps (.linkUp p enc admitted) s ((withLink p (fun l =>
      if enc then { l with
        up := true, enc := true, admitted := admitted, retries := 0, exch := l.exch + 1, rxNonce := 0, txNonce := 0,
        rxKey := Config.linkKey p (l.exch + 1) false, txKey := Config.linkKey p (l.exch + 1) true }
      else { l with up := true, enc := false, admitted := admitted, retries := 0, rxNonce := 0, txNonce := 0 }) s).rePort none))) ∧
  (∀ s p, Steps (.linkKeyRenewal p) s (withLink p (fun l => if l.up && l.enc then
    { l with exch := l.exch + 1, rxKey := Config.linkKey p (l.exch + 1) false, txKey := Config.linkKey p (l.exch + 1) true, rxNonce := 0,
             txNonce := 0 } else l) s)) ∧
  (∀ s, Steps .msixHoldoffExpiry s { s with msix := s.msix.map fun p => if p.2.2 && p.2.1 + 2000 ≤ s.time then (p.1, s.time, false) else p }) ∧
  (∀ (s : State) v rest, s.xinvq = v :: rest →
    let r := xinvRange v
    (s.xinvWaits r.1 r.2.1 r.2.2 = true → Steps .xinvComplete s s) ∧
    (s.xinvWaits r.1 r.2.1 r.2.2 = false → Steps .xinvComplete s { s with xinvq := rest, xdone := s.xdone + 1, tlb := s.tlb.filter fun t =>
      !(t.ctx == r.1 && r.2.1 < t.va + t.size && t.va < r.2.1 + r.2.2) })) ∧
  (∀ s c, (s.ctx c).notifyDue = false → s.notifyOwed c = false → Steps (.throttleNotification c) s s) ∧
  (∀ s c p, (s.ctx c).dying = false → (s.ctx c).notifyDue = false → (s.ctx c).queued = [] → s.notifyOwed c = true →
    ((s.notifiable c).all fun g => s.isShed (s.prioOf g)) = false →
    s.notifyTarget c = some p → Steps (.throttleNotification c) s (s.deliver c p.1 p.2)) ∧
  (∀ s c, (s.ctx c).dying = false → (s.ctx c).notifyDue = false → (s.ctx c).queued = [] → s.notifyOwed c = true →
    s.notifiable c ≠ [] → ((s.notifiable c).all fun g => s.isShed (s.prioOf g)) = true → Steps (.throttleNotification c) s
      ((s.event 0x83 c 0 ((s.notifiable c).foldl (fun (m : Nat) g => max m (s.prioOf g)) 0)).modCtx c fun x =>
        { x with queued := ((s.notifiable c).map s.prioOf).eraseDups, notified := some s.time })) ∧
  (∀ s, Steps (.softError .corrected) s { s with errsCor := min 0xFFFFFFFF (s.errsCor + 1) }) ∧
  (∀ s pa, pa < Config.memTop → Steps (.softError (.memory pa)) s ((s.poisonMem (pa / 64)).countError false)) ∧
  (∀ s core line, core < 384 → line < 8192 →
    Steps (.softError (.scratchpad core line)) s ((s.poisonSpad (core * 8192 + line)).countError false)) ∧
  (∀ (s : State) r x q k, s.region? r = some x → k < (x.queue q).length → Steps (.softError (.queue r q k)) s
    ((s.modRegion r fun y => { y with qbad := (q, k) :: y.qbad.filter (· != (q, k)) }).countError false)) ∧
  (∀ (s : State) g h file n, s.group? g = some h → Steps (.softError (.register g file n)) s (s.softAt g (.reg (regNameOf file n)))) ∧
  ∀ (s : State) g h e, s.group? g = some h → Steps (.softError (.entry g e)) s (s.softAt g (.entry e))

/-! ## The whole machine -/

/-- Reset (R33, R38, R41, R303, R355, R357, Tables 20-2 to 20-4): every context is FREE, every slot EMPTY, journal record 0 is
RESET with BOOTS and posted, and the registers hold the values that the spec gives. Model choices: BOOTS counts this boot as 1, JACK is 0
and DEVNUM is 0 (log 5), and memory lists nothing (log 4). -/
def Obligations.ResetState : Prop :=
  let s := State.reset
  s.mem = [] ∧ s.wlog = [] ∧ s.groups = [] ∧ s.ops = [] ∧ s.objs = [] ∧ s.regions = [] ∧ s.wgs = [] ∧ s.ctxs.length = 64 ∧
  (∀ x ∈ s.ctxs, x.st = .free) ∧ s.journal = [JRec.coldReset s.boots] ∧ s.jqueue = [] ∧ s.jhead = 0 ∧ s.jack = 0 ∧
  (∀ a ∈ s.accept, a.outcome = 0) ∧ s.accept.length = 256 ∧ s.windowA 0x308 = 0 ∧ s.windowA 0x410 = 0 ∧ s.windowA 0x5100 = 0 ∧
  s.windowA 0x5108 = 100 ∧ s.windowA 0x5110 = 0 ∧ (∀ l ∈ s.links, l.word = 0) ∧ s.links.length = 12 ∧
  (∀ i ∈ s.power.isl, i.level = 12 ∧ i.target = 12 ∧ i.nt = false ∧ i.chg = false ∧ i.stall = 0) ∧ s.power.isl.length = 480 ∧
  (∀ c ∈ s.power.clu, c.rate = 256 ∧ c.w = 0 ∧ c.credit = 0) ∧ s.power.clu.length = 96 ∧ s.power.frac = 256 ∧ s.power.shedlvl = 0 ∧
  s.power.tloss = false ∧ QueueOk s

/-- R44: the on-die queue holds at most its 4,096 records: every step keeps the bound. Model choice: a step that would
overfill the queue does not happen (log 19). -/
def Obligations.QueueBoundKept : Prop := ∀ s t, QueueOk s → step s = .next t → QueueOk t

/-- R97 to R114, Tables 07-1, 07-4: every legal unit's words decode to the unit and its length, whatever words follow. -/
def Obligations.EncodeDecode : Prop :=
  ∀ i p rest, i.parts = some p → WellFormed i → decode (encode i ++ rest) = .ok (i, p.words)

/-- R73, R86, R97, R112: a turn of an issue slot is `exec` of the instruction that the words at the chosen fragment's PC
decode to, in the state in which that fragment is in issue; so is a unit whose only failing check is of a register number, whose own
issue raises what its checks find in their order (R115); words that decode to none are the step of their failure; a turn
without a candidate is empty; a step of the device is `exec` of it. What BLAME packets, samples and the time to come need is noted first (log 17), the
paths of folded branches meet (R82) and groups of a shed class stop at their barrier boundary (R266, log 38), and the agenda says
who moves (log 1, log 3). -/
def Obligations.StepRunsUnit : Prop :=
  ∀ s dt rest,
    (∀ core slot, s.agenda = (dt, .slot core slot) :: rest →
      let s1 := (({ s.noteStalls exec dt with agenda := rest } : State).tick dt).meetFolds.stopBoundaries exec core slot
      let cands := s1.candidates exec core slot
      let k := s1.slotAt core slot
      (k.choose cands = none → step s = .next s1) ∧
      ∀ g e, k.choose cands = some (g, e) →
        let s2 := s1.giveSlot k (g, e)
        s2.cur = some (g.id, e) ∧ s2.mem = (s.noteStalls exec dt).mem ∧
        (∀ i n, decode (s1.fetchWords g (g.entry e).pc.toNat maxUnitWords) = .ok (i, n) → step s = exec i s2) ∧
        (decode (s1.fetchWords g (g.entry e).pc.toNat maxUnitWords) = .error .truncated → step s = exec .codeFetchFault s2) ∧
        (∀ i n, decode (s1.fetchWords g (g.entry e).pc.toNat maxUnitWords) = .error .illegalOperand →
          readUnit (s1.fetchWords g (g.entry e).pc.toNat maxUnitWords) = .ok (i, n) → step s = exec i s2) ∧
        ∀ r, r ≠ .truncated → r ≠ .illegalOperand → decode (s1.fetchWords g (g.entry e).pc.toNat maxUnitWords) = .error r →
          step s = exec (.unassignedOpcodeUnit r) s2) ∧
    ∀ i, i.parts = none → s.agenda = (dt, .event i) :: rest →
      step s = exec i (({ s.noteStalls exec dt with agenda := rest, cur := none } : State).tick dt)

/-- Tables 07-1, 07-4, 07-7: words written out bit by bit decode to the instructions that they stand for. -/
def Obligations.DecodeWords : Prop :=
  decode [0x07000000] = .ok (.join Mods.bare ⟨0, 0, 0, 0⟩, 1) ∧
  decode [0x02000005] = .ok (.bra { Mods.bare with stop := true } ⟨2⟩, 1) ∧
  decode [0x61040000] = .ok (.mor Mods.bare ⟨2, 0, 0, 0⟩, 1) ∧
  decode [0xF0400000, 0x6904040C] =
    .ok (.shflDown { Mods.bare with x := some { ModX.zero with msel := 2 } } ⟨2, 1, 1, 2⟩, 2) ∧
  decode [0xF27E0000, 0x74060C06] = .ok (.fmulF32 { Mods.bare with i := some 0x3F0000 } ⟨3, 3, 0, 3⟩, 2) ∧
  decode [0x0F000000] = .error .illegalOpcode ∧ decode [0xF6000000, 0x01000000] = .error .illegalModifier ∧
  decode [0x01000002] = .error .illegalField ∧ decode [0x61000000] = .error .illegalOperand

/-- R163: `fmin` and `fmax` of both types return one operand of each lane, or element, exactly. -/
def Obligations.FloatMinMax : Prop :=
  ∀ (m : Mods) (f : RF),
    Does (.fminF32 m f) (fun u => toV u f.a fun l =>
      BitVec.ofNat 32 (oneOf fp32 false (b32 u.m.modx.u u f l).toNat (fc32 u.m.modx.u false u f l).toNat)) ∧
    Does (.fmaxF32 m f) (fun u => toV u f.a fun l =>
      BitVec.ofNat 32 (oneOf fp32 true (b32 u.m.modx.u u f l).toNat (fc32 u.m.modx.u false u f l).toNat)) ∧
    Does (.fminF16x2 m f) (fun u => toV u f.a fun l =>
      let b := b32 u.m.modx.u u f l
      let c := fc32 u.m.modx.u true u f l
      twice (oneOf fp16 false (half0 b) (half0 c)) (oneOf fp16 false (half1 b) (half1 c))) ∧
    Does (.fmaxF16x2 m f) (fun u => toV u f.a fun l =>
      let b := b32 u.m.modx.u u f l
      let c := fc32 u.m.modx.u true u f l
      twice (oneOf fp16 true (half0 b) (half0 c)) (oneOf fp16 true (half1 b) (half1 c)))

/-- R280, R282, R283: taking a trap. In the handler it is a DOUBLE_TRAP; while another fragment is in it, the fragment is
held, without its reuse latch (R74); with a record that cannot be written it is a DOUBLE_TRAP; with a handler, TRAPPC, TRAPCODE and
TRAPARG are set, the fragment is marked and goes to entry 0xFFFF, no register of the group and no other fragment changes, and memory
holds what the record's store leaves; without a handler, or without a record, it is unhandled. Model choice: which write of a record
fails (log 6). -/
def Obligations.TrapEntry : Prop :=
  ∀ (s held : State) gid e (t : Trap) g, s.group? gid = some g → (g.entry e).isFragment = true → e < 72 →
    ((g.entry e).inH = true → s.raise held gid e t = (s.doubleTrap g e t).dropLatch gid) ∧
    ((g.entry e).inH = false → g.inHandler = true →
      s.raise held gid e t = (held.modEntry gid e fun y => { y with heldT := true }).dropLatch gid) ∧
    ((g.entry e).inH = false → g.inHandler = false →
      let r := s.writeRecord g 0 (s.faultBytes g (t.record e t.code))
      let s1 := r.1
      (∀ coff, s.frecpOk g = true → s.stageEntry g 0xFFFF = some coff →
        if r.2 = true then
          (s.raise held gid e t).mem = s1.mem ∧ (s.raise held gid e t).wlog = s1.wlog ∧
          ∃ h, (s.raise held gid e t).group? gid = some h ∧ h.trappc = t.resume ∧ h.trapcode = BitVec.ofNat 8 t.code ∧
            h.traparg = BitVec.ofNat 32 t.arg ∧ (h.entry e).pc = BitVec.ofNat 32 coff ∧ (h.entry e).inH = true ∧
            (h.entry e).mask = (g.entry e).mask ∧ h.hEntry = e ∧ h.v = g.v ∧ h.sr = g.sr ∧ h.mr = g.mr ∧ h.tr = g.tr ∧
            ∀ j, j ≠ e → h.entry j = g.entry j
        else s.raise held gid e t = (s1.doubleTrap g e t).dropLatch gid) ∧
      (s.frecpOk g = true → s.stageEntry g 0xFFFF = none →
        s.raise held gid e t =
        (if r.2 = true then s1.unhandled g t.code g.frecp.toNat else s1.doubleTrap g e t).dropLatch gid) ∧
      (s.frecpOk g = false → s.raise held gid e t = (s.unhandled g t.code 0).dropLatch gid))

/-- R189, R203, R241, R243: one lane of a relaxed store performs: its core then reads the stored bytes, no other byte changes
for any core or for the host, no other core's view of a byte outside scratchpad changes while every core sees a byte of scratchpad at
once, and memory keeps its canonical form (log 4). Model choices: which lane performs when (log 8), and the writes that not every
observer reads yet (log 7); bytes of an encrypted line (log 57) and those that a transfer gave away (log 54) are other cases. -/
def Obligations.StoreLands : Prop :=
  ∀ (s : State) q l a k, s.op? q.id = some q → q.kind = .store → q.rel = false → s.readyLane q l = some a → a.tgt = .bytes k none →
    a.data.length = q.size → (∀ n, k / 64 ≤ n → n ≤ (k + q.size - 1) / 64 → s.heldAs n = none) → k < 2 ^ 66 →
    (s.txbs.all fun b => k + q.size ≤ b || b + 16 ≤ k) = true → s.mem.wf = true →
    let t := s.performLanes q.id [l]
    t.observeN q.core k q.size = a.data ∧
    (∀ j, j < k ∨ k + q.size ≤ j → (∀ c, t.observe c j = s.observe c j) ∧ t.peek j = s.peek j) ∧
    ((∀ i, i < q.size → isSpadKey (k + i) = false) → ∀ c j, c ≠ q.core → t.observe c j = s.observe c j) ∧
    ((∀ i, i < q.size → isSpadKey (k + i) = true) → ∀ c, t.observeN c k q.size = a.data) ∧ t.mem.wf = true ∧ t.groups = s.groups
end

