-- ==== Sys2Proof/Laws/Memory.lean ====
section
/-! SUPPORT. Memory: read after write, the canonical form that every write keeps, and what the operations on memory and on the
trace ring leave unchanged. -/
namespace Sys2Proof.Laws
open Sys2Proof.Machine

/-! ## Bytes by key -/

/-- A canonical memory lists no key below its bound. -/
theorem get_below {lo k : Nat} {m : Memory} (h : Memory.wfFrom lo m = true) (hk : k < lo) : m.get k = 0 := by
  induction m generalizing lo with
  | nil => rfl
  | cons c m ih =>
    simp only [Memory.wfFrom, Bool.and_eq_true, decide_eq_true_eq] at h
    rw [Memory.get, if_neg (by omega)]
    exact ih h.2 (by omega)

/-- A bound may be lowered. -/
theorem wfFrom_mono {lo lo' : Nat} {m : Memory} (h : Memory.wfFrom lo m = true) (hl : lo' ≤ lo) : Memory.wfFrom lo' m = true := by
  cases m with
  | nil => rfl
  | cons c m =>
    simp only [Memory.wfFrom, Bool.and_eq_true, decide_eq_true_eq] at h ⊢
    exact ⟨⟨by omega, h.1.2⟩, h.2⟩

/-- A write keeps the canonical form. -/
theorem set_wfFrom {lo k : Nat} {b : Byte} {m : Memory} (h : Memory.wfFrom lo m = true) (hk : lo ≤ k) :
    Memory.wfFrom lo (m.set k b) = true := by
  induction m generalizing lo with
  | nil =>
    unfold Memory.set
    split <;> simp_all [Memory.wfFrom]
  | cons c m ih =>
    have h' := h
    simp only [Memory.wfFrom, Bool.and_eq_true, decide_eq_true_eq] at h
    obtain ⟨⟨h1, h2⟩, h3⟩ := h
    unfold Memory.set
    split
    · split
      · exact h'
      · rename_i hb
        simp only [Memory.wfFrom, Bool.and_eq_true, decide_eq_true_eq]
        exact ⟨⟨hk, hb⟩, ⟨by omega, h2⟩, h3⟩
    · split
      · split
        · exact wfFrom_mono h3 (by omega)
        · rename_i hc hb
          simp only [Memory.wfFrom, Bool.and_eq_true, decide_eq_true_eq]
          exact ⟨⟨hk, hb⟩, by rw [hc]; exact h3⟩
      · simp only [Memory.wfFrom, Bool.and_eq_true, decide_eq_true_eq]
        exact ⟨⟨h1, h2⟩, ih h3 (by omega)⟩
theorem set_wf {k : Nat} {b : Byte} {m : Memory} (h : m.wf = true) : Memory.wf (m.set k b) = true := set_wfFrom h (Nat.zero_le k)

/-- A key reads what was last written to it. -/
theorem get_set_same {lo k : Nat} {b : Byte} {m : Memory} (h : Memory.wfFrom lo m = true) : Memory.get (m.set k b) k = b := by
  induction m generalizing lo with
  | nil =>
    unfold Memory.set
    split <;> simp_all [Memory.get]
  | cons c m ih =>
    simp only [Memory.wfFrom, Bool.and_eq_true, decide_eq_true_eq] at h
    unfold Memory.set
    split
    · rename_i hc
      split
      · rename_i hb
        rw [Memory.get, if_neg (by omega), get_below h.2 (by omega), hb]
      · simp [Memory.get]
    · split
      · rename_i hc
        split
        · rename_i hb
          rw [get_below h.2 (by omega), hb]
        · simp [Memory.get]
      · rw [Memory.get, if_neg (by omega)]
        exact ih h.2

/-- Every other key reads as before. -/
theorem get_set_other {k j : Nat} {b : Byte} (m : Memory) (hj : j ≠ k) : Memory.get (m.set k b) j = m.get j := by
  induction m with
  | nil =>
    unfold Memory.set
    split
    · rfl
    · simp [Memory.get, hj.symm]
  | cons c m ih =>
    unfold Memory.set
    split
    · split
      · rfl
      · rw [Memory.get, if_neg (by simpa using hj.symm)]
    · split
      · rename_i hc
        split
        · simp only [Memory.get, if_neg (by omega : ¬c.1 = j)]
        · simp only [Memory.get, if_neg (by omega : ¬c.1 = j), if_neg hj.symm]
      · simp only [Memory.get, ih]

/-- Dropping keys keeps the canonical form. -/
theorem filter_wfFrom {lo : Nat} {m : Memory} (keep : Host.Cell → Bool) (h : Memory.wfFrom lo m = true) :
    Memory.wfFrom lo (m.filter keep) = true := by
  induction m generalizing lo with
  | nil => rfl
  | cons c m ih =>
    simp only [Memory.wfFrom, Bool.and_eq_true, decide_eq_true_eq] at h
    rw [List.filter_cons]
    split
    · simp only [Memory.wfFrom, Bool.and_eq_true, decide_eq_true_eq]
      exact ⟨h.1, ih h.2⟩
    · exact wfFrom_mono (ih h.2) (by omega)
theorem filter_wf {m : Memory} (keep : Host.Cell → Bool) (h : m.wf = true) : Memory.wf (m.filter keep) = true := filter_wfFrom keep h

/-- Memory after reset is canonical. -/
theorem reset_wf : State.reset.mem.wf = true := rfl

/-! ## Writes seen at once -/

/-- Everything but memory, its clock, and how its lines are held, is as it was. -/
def OnlyMem (a b : State) : Prop := ∃ m w e c, b = { a with mem := m, wlog := w, encs := e, mclock := c }

theorem OnlyMem.refl (a : State) : OnlyMem a a := ⟨a.mem, a.wlog, a.encs, a.mclock, rfl⟩
theorem OnlyMem.trans {a b c : State} (h : OnlyMem a b) (k : OnlyMem b c) : OnlyMem a c := by
  obtain ⟨m, w, e, i, rfl⟩ := h
  obtain ⟨n, x, f, j, rfl⟩ := k
  exact ⟨n, x, f, j, rfl⟩
theorem OnlyMem.foldl {α : Type} {f : State → α → State} (h : ∀ s x, OnlyMem s (f s x)) (l : List α) (s : State) :
    OnlyMem s (l.foldl f s) := by
  induction l generalizing s with
  | nil => exact .refl s
  | cons x l ih => exact (h s x).trans (ih _)

theorem put_onlyMem (s : State) (k : Nat) (b : Byte) : OnlyMem s (s.put k b) := by
  unfold State.put
  split <;> exact ⟨_, _, s.encs, s.mclock, rfl⟩
theorem putN_onlyMem (bs : List Byte) (s : State) (k : Nat) : OnlyMem s (s.putN k bs) := by
  induction bs generalizing s k with
  | nil => exact .refl s
  | cons b bs ih => exact (put_onlyMem s k b).trans (ih _ _)
theorem OnlyMem.setEncs {a b : State} (h : OnlyMem a b) (e : List EncLine) : OnlyMem a { b with encs := e } := by
  obtain ⟨m, w, f, c, rfl⟩ := h
  exact ⟨m, w, e, c, rfl⟩
theorem hold_onlyMem (s : State) (l : Nat) (w : Option (List Byte × Nat)) : OnlyMem s (s.hold l w) := by
  unfold State.hold
  split
  · exact .refl s
  · exact (putN_onlyMem _ s _).setEncs _
theorem holdN_onlyMem (s : State) (k n : Nat) (w : Option (List Byte × Nat)) : OnlyMem s (s.holdN k n w) :=
  OnlyMem.foldl (fun t _ => hold_onlyMem t _ _) _ s
theorem holdTgt_onlyMem (s : State) (t : Tgt) (n : Nat) : OnlyMem s (s.holdTgt t n) :=
  OnlyMem.foldl (fun u k => by
    split
    · exact .refl u
    · exact holdN_onlyMem u k _ _) t.localKeys s
theorem doneBytes_onlyMem (s : State) (core : Nat) (r : Reach) (mca : Bool) (k : Nat) (bs : List Byte) :
    OnlyMem s (s.doneBytes core r mca k bs) := ⟨s.mem, _, s.encs, _, rfl⟩
theorem putTgt_onlyMem (s : State) (t : Tgt) (bs : List Byte) : OnlyMem s (s.putTgt 384 t bs) := by
  have hf : s.flushOwn 384 t.localKeys bs.length = s := by simp [State.flushOwn]
  unfold State.putTgt
  rw [hf]
  exact (holdTgt_onlyMem s t bs.length).trans (OnlyMem.foldl (fun u _ => doneBytes_onlyMem u _ _ _ _ _) _ _)
theorem writeVirt_onlyMem (bs : List Byte) (s : State) (c va : Nat) : OnlyMem s (s.writeVirt c va bs) := by
  induction bs generalizing s va with
  | nil => exact .refl s
  | cons b bs ih =>
    unfold State.writeVirt
    refine OnlyMem.trans ?_ (ih _ _)
    split
    · exact putTgt_onlyMem _ _ _
    · exact .refl s

/-! ## The trace ring -/

/-- Everything but memory, its clock, how its lines are held, and the observation registers is as it was. -/
def OnlyObs (a b : State) : Prop := ∃ m w e c o, b = { a with mem := m, wlog := w, encs := e, mclock := c, obs := o }

theorem OnlyObs.refl (a : State) : OnlyObs a a := ⟨a.mem, a.wlog, a.encs, a.mclock, a.obs, rfl⟩
theorem OnlyObs.trans {a b c : State} (h : OnlyObs a b) (k : OnlyObs b c) : OnlyObs a c := by
  obtain ⟨m, w, e, i, o, rfl⟩ := h
  obtain ⟨n, x, f, j, p, rfl⟩ := k
  exact ⟨n, x, f, j, p, rfl⟩
theorem OnlyObs.of {a b : State} (h : OnlyMem a b) (o : Observe) : OnlyObs a { b with obs := o } := by
  obtain ⟨m, w, e, c, rfl⟩ := h
  exact ⟨m, w, e, c, o, rfl⟩
theorem OnlyObs.set {a b : State} (h : OnlyObs a b) (o : Observe) : OnlyObs a { b with obs := o } := by
  obtain ⟨m, w, e, c, p, rfl⟩ := h
  exact ⟨m, w, e, c, o, rfl⟩
theorem OnlyObs.foldl {α : Type} {f : State → α → State} (h : ∀ s x, OnlyObs s (f s x)) (l : List α) (s : State) :
    OnlyObs s (l.foldl f s) := by
  induction l generalizing s with
  | nil => exact .refl s
  | cons x l ih => exact (h s x).trans (ih _)

theorem ringWrite_onlyObs (s : State) (bs : List Byte) : OnlyObs s (s.ringWrite bs) :=
  OnlyObs.of (OnlyMem.foldl (fun t _ => writeVirt_onlyMem _ t _ _) _ _) _
theorem lossPacket_onlyObs (s : State) : OnlyObs s s.lossPacket := by
  unfold State.lossPacket
  simp only
  split
  · exact (ringWrite_onlyObs _ _).set _
  · exact .refl s
theorem putPacket_onlyObs (s : State) (bs : List Byte) : OnlyObs s (s.putPacket bs) := by
  unfold State.putPacket
  simp only
  split
  · exact (lossPacket_onlyObs s).trans (ringWrite_onlyObs _ _)
  · exact (lossPacket_onlyObs s).set _
theorem syncWith_onlyObs (s : State) (g r : Nat) : OnlyObs s (s.syncWith g r) := by
  unfold State.syncWith
  split
  · exact .refl s
  · split
    · exact .refl s
    · exact (OnlyObs.foldl (fun t _ => putPacket_onlyObs t _) _ _).set _
theorem sync_onlyObs (s : State) (g r : Nat) : OnlyObs s (s.sync g r) := by
  unfold State.sync
  split
  · exact (syncWith_onlyObs _ _ _).trans (syncWith_onlyObs _ _ _)
  · exact syncWith_onlyObs _ _ _
theorem OnlyObs.ite {s a b : State} {p : Prop} [Decidable p] (h : OnlyObs s a) (k : OnlyObs s b) : OnlyObs s (if p then a else b) := by
  split
  · exact h
  · exact k
theorem emit_onlyObs (s : State) (g t r : Nat) : OnlyObs s (s.emit g t r) := by
  unfold State.emit
  split
  · exact .refl s
  · refine OnlyObs.ite (.refl s) ?_
    have h1 (x : Option TStream) : OnlyObs s (match x with
        | some t =>
          if t.lossy then s.sync g 3
          else if t.since + (if 4095 < s.time - t.last then 2 else 1) < 4096 then s
          else s.sync g 1
        | none => s.sync g 0) := by
      cases x
      · exact sync_onlyObs _ _ _
      · exact OnlyObs.ite (sync_onlyObs _ _ _) (OnlyObs.ite (.refl s) (sync_onlyObs _ _ _))
    exact ((OnlyObs.ite ((h1 _).trans (putPacket_onlyObs _ _)) (h1 _)).trans (putPacket_onlyObs _ _)).set _
theorem maskPacket_onlyObs (s : State) (g e : Nat) (m : Word) (v : Nat) : OnlyObs s (s.maskPacket g e m v) := emit_onlyObs _ _ _ _
theorem branchPacket_onlyObs (s : State) (g e : Nat) (m : Word) (a b c : Nat) : OnlyObs s (s.branchPacket g e m a b c) :=
  emit_onlyObs _ _ _ _

/-- Nothing posts a record. -/
theorem OnlyMem.queue {a b : State} (h : OnlyMem a b) : b.jqueue = a.jqueue := by obtain ⟨_, _, _, _, rfl⟩ := h; rfl
theorem OnlyObs.queue {a b : State} (h : OnlyObs a b) : b.jqueue = a.jqueue := by obtain ⟨_, _, _, _, _, rfl⟩ := h; rfl

end Sys2Proof.Laws
end

