-- ==== Sys2Proof/Laws/State.lean ====
section
/-! SUPPORT. What the updates of the state and of a group leave unchanged, field by field, and what they write. -/
namespace Sys2Proof.Laws
open Sys2Proof.Machine

/-! ## `State.modGroup` -/

@[simp] theorem modGroup_agenda (s : State) (g : Nat) (f : Group → Group) : (s.modGroup g f).agenda = s.agenda := rfl
@[simp] theorem modGroup_cur (s : State) (g : Nat) (f : Group → Group) : (s.modGroup g f).cur = s.cur := rfl
@[simp] theorem modGroup_issued (s : State) (g : Nat) (f : Group → Group) : (s.modGroup g f).issued = s.issued := rfl
@[simp] theorem modGroup_free (s : State) (g : Nat) (f : Group → Group) : (s.modGroup g f).free = s.free := rfl
@[simp] theorem modGroup_nextId (s : State) (g : Nat) (f : Group → Group) : (s.modGroup g f).nextId = s.nextId := rfl
@[simp] theorem modGroup_time (s : State) (g : Nat) (f : Group → Group) : (s.modGroup g f).time = s.time := rfl
@[simp] theorem modGroup_mem (s : State) (g : Nat) (f : Group → Group) : (s.modGroup g f).mem = s.mem := rfl
@[simp] theorem modGroup_wlog (s : State) (g : Nat) (f : Group → Group) : (s.modGroup g f).wlog = s.wlog := rfl
@[simp] theorem modGroup_mclock (s : State) (g : Nat) (f : Group → Group) : (s.modGroup g f).mclock = s.mclock := rfl
@[simp] theorem modGroup_acqs (s : State) (g : Nat) (f : Group → Group) : (s.modGroup g f).acqs = s.acqs := rfl
@[simp] theorem modGroup_encs (s : State) (g : Nat) (f : Group → Group) : (s.modGroup g f).encs = s.encs := rfl
@[simp] theorem modGroup_landed (s : State) (g : Nat) (f : Group → Group) : (s.modGroup g f).landed = s.landed := rfl
@[simp] theorem modGroup_spoison (s : State) (g : Nat) (f : Group → Group) : (s.modGroup g f).spoison = s.spoison := rfl
@[simp] theorem modGroup_mpoison (s : State) (g : Nat) (f : Group → Group) : (s.modGroup g f).mpoison = s.mpoison := rfl
@[simp] theorem modGroup_sideboard (s : State) (g : Nat) (f : Group → Group) : (s.modGroup g f).sideboard = s.sideboard := rfl
@[simp] theorem modGroup_inq (s : State) (g : Nat) (f : Group → Group) : (s.modGroup g f).inq = s.inq := rfl
@[simp] theorem modGroup_outq (s : State) (g : Nat) (f : Group → Group) : (s.modGroup g f).outq = s.outq := rfl
@[simp] theorem modGroup_txbs (s : State) (g : Nat) (f : Group → Group) : (s.modGroup g f).txbs = s.txbs := rfl
@[simp] theorem modGroup_tlb (s : State) (g : Nat) (f : Group → Group) : (s.modGroup g f).tlb = s.tlb := rfl
@[simp] theorem modGroup_xinvq (s : State) (g : Nat) (f : Group → Group) : (s.modGroup g f).xinvq = s.xinvq := rfl
@[simp] theorem modGroup_xdone (s : State) (g : Nat) (f : Group → Group) : (s.modGroup g f).xdone = s.xdone := rfl
@[simp] theorem modGroup_ops (s : State) (g : Nat) (f : Group → Group) : (s.modGroup g f).ops = s.ops := rfl
@[simp] theorem modGroup_passes (s : State) (g : Nat) (f : Group → Group) : (s.modGroup g f).passes = s.passes := rfl
@[simp] theorem modGroup_slots (s : State) (g : Nat) (f : Group → Group) : (s.modGroup g f).slots = s.slots := rfl
@[simp] theorem modGroup_objs (s : State) (g : Nat) (f : Group → Group) : (s.modGroup g f).objs = s.objs := rfl
@[simp] theorem modGroup_regions (s : State) (g : Nat) (f : Group → Group) : (s.modGroup g f).regions = s.regions := rfl
@[simp] theorem modGroup_wgs (s : State) (g : Nat) (f : Group → Group) : (s.modGroup g f).wgs = s.wgs := rfl
@[simp] theorem modGroup_mailboxes (s : State) (g : Nat) (f : Group → Group) : (s.modGroup g f).mailboxes = s.mailboxes := rfl
@[simp] theorem modGroup_xfers (s : State) (g : Nat) (f : Group → Group) : (s.modGroup g f).xfers = s.xfers := rfl
@[simp] theorem modGroup_ctxs (s : State) (g : Nat) (f : Group → Group) : (s.modGroup g f).ctxs = s.ctxs := rfl
@[simp] theorem modGroup_boots (s : State) (g : Nat) (f : Group → Group) : (s.modGroup g f).boots = s.boots := rfl
@[simp] theorem modGroup_journal (s : State) (g : Nat) (f : Group → Group) : (s.modGroup g f).journal = s.journal := rfl
@[simp] theorem modGroup_jqueue (s : State) (g : Nat) (f : Group → Group) : (s.modGroup g f).jqueue = s.jqueue := rfl
@[simp] theorem modGroup_jack (s : State) (g : Nat) (f : Group → Group) : (s.modGroup g f).jack = s.jack := rfl
@[simp] theorem modGroup_intake (s : State) (g : Nat) (f : Group → Group) : (s.modGroup g f).intake = s.intake := rfl
@[simp] theorem modGroup_accept (s : State) (g : Nat) (f : Group → Group) : (s.modGroup g f).accept = s.accept := rfl
@[simp] theorem modGroup_heads (s : State) (g : Nat) (f : Group → Group) : (s.modGroup g f).heads = s.heads := rfl
@[simp] theorem modGroup_headNext (s : State) (g : Nat) (f : Group → Group) : (s.modGroup g f).headNext = s.headNext := rfl
@[simp] theorem modGroup_fwq (s : State) (g : Nat) (f : Group → Group) : (s.modGroup g f).fwq = s.fwq := rfl
@[simp] theorem modGroup_fwStaged (s : State) (g : Nat) (f : Group → Group) : (s.modGroup g f).fwStaged = s.fwStaged := rfl
@[simp] theorem modGroup_fwRunning (s : State) (g : Nat) (f : Group → Group) : (s.modGroup g f).fwRunning = s.fwRunning := rfl
@[simp] theorem modGroup_fwMin (s : State) (g : Nat) (f : Group → Group) : (s.modGroup g f).fwMin = s.fwMin := rfl
@[simp] theorem modGroup_msix (s : State) (g : Nat) (f : Group → Group) : (s.modGroup g f).msix = s.msix := rfl
@[simp] theorem modGroup_intmap (s : State) (g : Nat) (f : Group → Group) : (s.modGroup g f).intmap = s.intmap := rfl
@[simp] theorem modGroup_hostwin (s : State) (g : Nat) (f : Group → Group) : (s.modGroup g f).hostwin = s.hostwin := rfl
@[simp] theorem modGroup_errsCor (s : State) (g : Nat) (f : Group → Group) : (s.modGroup g f).errsCor = s.errsCor := rfl
@[simp] theorem modGroup_errsUnc (s : State) (g : Nat) (f : Group → Group) : (s.modGroup g f).errsUnc = s.errsUnc := rfl
@[simp] theorem modGroup_links (s : State) (g : Nat) (f : Group → Group) : (s.modGroup g f).links = s.links := rfl
@[simp] theorem modGroup_devnum (s : State) (g : Nat) (f : Group → Group) : (s.modGroup g f).devnum = s.devnum := rfl
@[simp] theorem modGroup_devnumSet (s : State) (g : Nat) (f : Group → Group) : (s.modGroup g f).devnumSet = s.devnumSet := rfl
@[simp] theorem modGroup_lto (s : State) (g : Nat) (f : Group → Group) : (s.modGroup g f).lto = s.lto := rfl
@[simp] theorem modGroup_power (s : State) (g : Nat) (f : Group → Group) : (s.modGroup g f).power = s.power := rfl
@[simp] theorem modGroup_obs (s : State) (g : Nat) (f : Group → Group) : (s.modGroup g f).obs = s.obs := rfl
@[simp] theorem modGroup_reply (s : State) (g : Nat) (f : Group → Group) : (s.modGroup g f).reply = s.reply := rfl
@[simp] theorem modGroup_resetting (s : State) (g : Nat) (f : Group → Group) : (s.modGroup g f).resetting = s.resetting := rfl

/-! ## `State.modOp` -/

@[simp] theorem modOp_agenda (s : State) (o : Nat) (f : Op → Op) : (s.modOp o f).agenda = s.agenda := rfl
@[simp] theorem modOp_cur (s : State) (o : Nat) (f : Op → Op) : (s.modOp o f).cur = s.cur := rfl
@[simp] theorem modOp_issued (s : State) (o : Nat) (f : Op → Op) : (s.modOp o f).issued = s.issued := rfl
@[simp] theorem modOp_free (s : State) (o : Nat) (f : Op → Op) : (s.modOp o f).free = s.free := rfl
@[simp] theorem modOp_nextId (s : State) (o : Nat) (f : Op → Op) : (s.modOp o f).nextId = s.nextId := rfl
@[simp] theorem modOp_time (s : State) (o : Nat) (f : Op → Op) : (s.modOp o f).time = s.time := rfl
@[simp] theorem modOp_mem (s : State) (o : Nat) (f : Op → Op) : (s.modOp o f).mem = s.mem := rfl
@[simp] theorem modOp_wlog (s : State) (o : Nat) (f : Op → Op) : (s.modOp o f).wlog = s.wlog := rfl
@[simp] theorem modOp_mclock (s : State) (o : Nat) (f : Op → Op) : (s.modOp o f).mclock = s.mclock := rfl
@[simp] theorem modOp_acqs (s : State) (o : Nat) (f : Op → Op) : (s.modOp o f).acqs = s.acqs := rfl
@[simp] theorem modOp_encs (s : State) (o : Nat) (f : Op → Op) : (s.modOp o f).encs = s.encs := rfl
@[simp] theorem modOp_landed (s : State) (o : Nat) (f : Op → Op) : (s.modOp o f).landed = s.landed := rfl
@[simp] theorem modOp_spoison (s : State) (o : Nat) (f : Op → Op) : (s.modOp o f).spoison = s.spoison := rfl
@[simp] theorem modOp_mpoison (s : State) (o : Nat) (f : Op → Op) : (s.modOp o f).mpoison = s.mpoison := rfl
@[simp] theorem modOp_sideboard (s : State) (o : Nat) (f : Op → Op) : (s.modOp o f).sideboard = s.sideboard := rfl
@[simp] theorem modOp_inq (s : State) (o : Nat) (f : Op → Op) : (s.modOp o f).inq = s.inq := rfl
@[simp] theorem modOp_outq (s : State) (o : Nat) (f : Op → Op) : (s.modOp o f).outq = s.outq := rfl
@[simp] theorem modOp_txbs (s : State) (o : Nat) (f : Op → Op) : (s.modOp o f).txbs = s.txbs := rfl
@[simp] theorem modOp_tlb (s : State) (o : Nat) (f : Op → Op) : (s.modOp o f).tlb = s.tlb := rfl
@[simp] theorem modOp_xinvq (s : State) (o : Nat) (f : Op → Op) : (s.modOp o f).xinvq = s.xinvq := rfl
@[simp] theorem modOp_xdone (s : State) (o : Nat) (f : Op → Op) : (s.modOp o f).xdone = s.xdone := rfl
@[simp] theorem modOp_groups (s : State) (o : Nat) (f : Op → Op) : (s.modOp o f).groups = s.groups := rfl
@[simp] theorem modOp_passes (s : State) (o : Nat) (f : Op → Op) : (s.modOp o f).passes = s.passes := rfl
@[simp] theorem modOp_slots (s : State) (o : Nat) (f : Op → Op) : (s.modOp o f).slots = s.slots := rfl
@[simp] theorem modOp_objs (s : State) (o : Nat) (f : Op → Op) : (s.modOp o f).objs = s.objs := rfl
@[simp] theorem modOp_regions (s : State) (o : Nat) (f : Op → Op) : (s.modOp o f).regions = s.regions := rfl
@[simp] theorem modOp_wgs (s : State) (o : Nat) (f : Op → Op) : (s.modOp o f).wgs = s.wgs := rfl
@[simp] theorem modOp_mailboxes (s : State) (o : Nat) (f : Op → Op) : (s.modOp o f).mailboxes = s.mailboxes := rfl
@[simp] theorem modOp_xfers (s : State) (o : Nat) (f : Op → Op) : (s.modOp o f).xfers = s.xfers := rfl
@[simp] theorem modOp_ctxs (s : State) (o : Nat) (f : Op → Op) : (s.modOp o f).ctxs = s.ctxs := rfl
@[simp] theorem modOp_boots (s : State) (o : Nat) (f : Op → Op) : (s.modOp o f).boots = s.boots := rfl
@[simp] theorem modOp_journal (s : State) (o : Nat) (f : Op → Op) : (s.modOp o f).journal = s.journal := rfl
@[simp] theorem modOp_jqueue (s : State) (o : Nat) (f : Op → Op) : (s.modOp o f).jqueue = s.jqueue := rfl
@[simp] theorem modOp_jack (s : State) (o : Nat) (f : Op → Op) : (s.modOp o f).jack = s.jack := rfl
@[simp] theorem modOp_intake (s : State) (o : Nat) (f : Op → Op) : (s.modOp o f).intake = s.intake := rfl
@[simp] theorem modOp_accept (s : State) (o : Nat) (f : Op → Op) : (s.modOp o f).accept = s.accept := rfl
@[simp] theorem modOp_heads (s : State) (o : Nat) (f : Op → Op) : (s.modOp o f).heads = s.heads := rfl
@[simp] theorem modOp_headNext (s : State) (o : Nat) (f : Op → Op) : (s.modOp o f).headNext = s.headNext := rfl
@[simp] theorem modOp_fwq (s : State) (o : Nat) (f : Op → Op) : (s.modOp o f).fwq = s.fwq := rfl
@[simp] theorem modOp_fwStaged (s : State) (o : Nat) (f : Op → Op) : (s.modOp o f).fwStaged = s.fwStaged := rfl
@[simp] theorem modOp_fwRunning (s : State) (o : Nat) (f : Op → Op) : (s.modOp o f).fwRunning = s.fwRunning := rfl
@[simp] theorem modOp_fwMin (s : State) (o : Nat) (f : Op → Op) : (s.modOp o f).fwMin = s.fwMin := rfl
@[simp] theorem modOp_msix (s : State) (o : Nat) (f : Op → Op) : (s.modOp o f).msix = s.msix := rfl
@[simp] theorem modOp_intmap (s : State) (o : Nat) (f : Op → Op) : (s.modOp o f).intmap = s.intmap := rfl
@[simp] theorem modOp_hostwin (s : State) (o : Nat) (f : Op → Op) : (s.modOp o f).hostwin = s.hostwin := rfl
@[simp] theorem modOp_errsCor (s : State) (o : Nat) (f : Op → Op) : (s.modOp o f).errsCor = s.errsCor := rfl
@[simp] theorem modOp_errsUnc (s : State) (o : Nat) (f : Op → Op) : (s.modOp o f).errsUnc = s.errsUnc := rfl
@[simp] theorem modOp_links (s : State) (o : Nat) (f : Op → Op) : (s.modOp o f).links = s.links := rfl
@[simp] theorem modOp_devnum (s : State) (o : Nat) (f : Op → Op) : (s.modOp o f).devnum = s.devnum := rfl
@[simp] theorem modOp_devnumSet (s : State) (o : Nat) (f : Op → Op) : (s.modOp o f).devnumSet = s.devnumSet := rfl
@[simp] theorem modOp_lto (s : State) (o : Nat) (f : Op → Op) : (s.modOp o f).lto = s.lto := rfl
@[simp] theorem modOp_power (s : State) (o : Nat) (f : Op → Op) : (s.modOp o f).power = s.power := rfl
@[simp] theorem modOp_obs (s : State) (o : Nat) (f : Op → Op) : (s.modOp o f).obs = s.obs := rfl
@[simp] theorem modOp_reply (s : State) (o : Nat) (f : Op → Op) : (s.modOp o f).reply = s.reply := rfl
@[simp] theorem modOp_resetting (s : State) (o : Nat) (f : Op → Op) : (s.modOp o f).resetting = s.resetting := rfl

/-! ## `State.modRegion` -/

@[simp] theorem modRegion_agenda (s : State) (r : Nat) (f : Region → Region) : (s.modRegion r f).agenda = s.agenda := rfl
@[simp] theorem modRegion_cur (s : State) (r : Nat) (f : Region → Region) : (s.modRegion r f).cur = s.cur := rfl
@[simp] theorem modRegion_issued (s : State) (r : Nat) (f : Region → Region) : (s.modRegion r f).issued = s.issued := rfl
@[simp] theorem modRegion_free (s : State) (r : Nat) (f : Region → Region) : (s.modRegion r f).free = s.free := rfl
@[simp] theorem modRegion_nextId (s : State) (r : Nat) (f : Region → Region) : (s.modRegion r f).nextId = s.nextId := rfl
@[simp] theorem modRegion_time (s : State) (r : Nat) (f : Region → Region) : (s.modRegion r f).time = s.time := rfl
@[simp] theorem modRegion_mem (s : State) (r : Nat) (f : Region → Region) : (s.modRegion r f).mem = s.mem := rfl
@[simp] theorem modRegion_wlog (s : State) (r : Nat) (f : Region → Region) : (s.modRegion r f).wlog = s.wlog := rfl
@[simp] theorem modRegion_mclock (s : State) (r : Nat) (f : Region → Region) : (s.modRegion r f).mclock = s.mclock := rfl
@[simp] theorem modRegion_acqs (s : State) (r : Nat) (f : Region → Region) : (s.modRegion r f).acqs = s.acqs := rfl
@[simp] theorem modRegion_encs (s : State) (r : Nat) (f : Region → Region) : (s.modRegion r f).encs = s.encs := rfl
@[simp] theorem modRegion_landed (s : State) (r : Nat) (f : Region → Region) : (s.modRegion r f).landed = s.landed := rfl
@[simp] theorem modRegion_spoison (s : State) (r : Nat) (f : Region → Region) : (s.modRegion r f).spoison = s.spoison := rfl
@[simp] theorem modRegion_mpoison (s : State) (r : Nat) (f : Region → Region) : (s.modRegion r f).mpoison = s.mpoison := rfl
@[simp] theorem modRegion_sideboard (s : State) (r : Nat) (f : Region → Region) : (s.modRegion r f).sideboard = s.sideboard := rfl
@[simp] theorem modRegion_inq (s : State) (r : Nat) (f : Region → Region) : (s.modRegion r f).inq = s.inq := rfl
@[simp] theorem modRegion_outq (s : State) (r : Nat) (f : Region → Region) : (s.modRegion r f).outq = s.outq := rfl
@[simp] theorem modRegion_txbs (s : State) (r : Nat) (f : Region → Region) : (s.modRegion r f).txbs = s.txbs := rfl
@[simp] theorem modRegion_tlb (s : State) (r : Nat) (f : Region → Region) : (s.modRegion r f).tlb = s.tlb := rfl
@[simp] theorem modRegion_xinvq (s : State) (r : Nat) (f : Region → Region) : (s.modRegion r f).xinvq = s.xinvq := rfl
@[simp] theorem modRegion_xdone (s : State) (r : Nat) (f : Region → Region) : (s.modRegion r f).xdone = s.xdone := rfl
@[simp] theorem modRegion_groups (s : State) (r : Nat) (f : Region → Region) : (s.modRegion r f).groups = s.groups := rfl
@[simp] theorem modRegion_ops (s : State) (r : Nat) (f : Region → Region) : (s.modRegion r f).ops = s.ops := rfl
@[simp] theorem modRegion_passes (s : State) (r : Nat) (f : Region → Region) : (s.modRegion r f).passes = s.passes := rfl
@[simp] theorem modRegion_slots (s : State) (r : Nat) (f : Region → Region) : (s.modRegion r f).slots = s.slots := rfl
@[simp] theorem modRegion_objs (s : State) (r : Nat) (f : Region → Region) : (s.modRegion r f).objs = s.objs := rfl
@[simp] theorem modRegion_wgs (s : State) (r : Nat) (f : Region → Region) : (s.modRegion r f).wgs = s.wgs := rfl
@[simp] theorem modRegion_mailboxes (s : State) (r : Nat) (f : Region → Region) : (s.modRegion r f).mailboxes = s.mailboxes := rfl
@[simp] theorem modRegion_xfers (s : State) (r : Nat) (f : Region → Region) : (s.modRegion r f).xfers = s.xfers := rfl
@[simp] theorem modRegion_ctxs (s : State) (r : Nat) (f : Region → Region) : (s.modRegion r f).ctxs = s.ctxs := rfl
@[simp] theorem modRegion_boots (s : State) (r : Nat) (f : Region → Region) : (s.modRegion r f).boots = s.boots := rfl
@[simp] theorem modRegion_journal (s : State) (r : Nat) (f : Region → Region) : (s.modRegion r f).journal = s.journal := rfl
@[simp] theorem modRegion_jqueue (s : State) (r : Nat) (f : Region → Region) : (s.modRegion r f).jqueue = s.jqueue := rfl
@[simp] theorem modRegion_jack (s : State) (r : Nat) (f : Region → Region) : (s.modRegion r f).jack = s.jack := rfl
@[simp] theorem modRegion_intake (s : State) (r : Nat) (f : Region → Region) : (s.modRegion r f).intake = s.intake := rfl
@[simp] theorem modRegion_accept (s : State) (r : Nat) (f : Region → Region) : (s.modRegion r f).accept = s.accept := rfl
@[simp] theorem modRegion_heads (s : State) (r : Nat) (f : Region → Region) : (s.modRegion r f).heads = s.heads := rfl
@[simp] theorem modRegion_headNext (s : State) (r : Nat) (f : Region → Region) : (s.modRegion r f).headNext = s.headNext := rfl
@[simp] theorem modRegion_fwq (s : State) (r : Nat) (f : Region → Region) : (s.modRegion r f).fwq = s.fwq := rfl
@[simp] theorem modRegion_fwStaged (s : State) (r : Nat) (f : Region → Region) : (s.modRegion r f).fwStaged = s.fwStaged := rfl
@[simp] theorem modRegion_fwRunning (s : State) (r : Nat) (f : Region → Region) : (s.modRegion r f).fwRunning = s.fwRunning := rfl
@[simp] theorem modRegion_fwMin (s : State) (r : Nat) (f : Region → Region) : (s.modRegion r f).fwMin = s.fwMin := rfl
@[simp] theorem modRegion_msix (s : State) (r : Nat) (f : Region → Region) : (s.modRegion r f).msix = s.msix := rfl
@[simp] theorem modRegion_intmap (s : State) (r : Nat) (f : Region → Region) : (s.modRegion r f).intmap = s.intmap := rfl
@[simp] theorem modRegion_hostwin (s : State) (r : Nat) (f : Region → Region) : (s.modRegion r f).hostwin = s.hostwin := rfl
@[simp] theorem modRegion_errsCor (s : State) (r : Nat) (f : Region → Region) : (s.modRegion r f).errsCor = s.errsCor := rfl
@[simp] theorem modRegion_errsUnc (s : State) (r : Nat) (f : Region → Region) : (s.modRegion r f).errsUnc = s.errsUnc := rfl
@[simp] theorem modRegion_links (s : State) (r : Nat) (f : Region → Region) : (s.modRegion r f).links = s.links := rfl
@[simp] theorem modRegion_devnum (s : State) (r : Nat) (f : Region → Region) : (s.modRegion r f).devnum = s.devnum := rfl
@[simp] theorem modRegion_devnumSet (s : State) (r : Nat) (f : Region → Region) : (s.modRegion r f).devnumSet = s.devnumSet := rfl
@[simp] theorem modRegion_lto (s : State) (r : Nat) (f : Region → Region) : (s.modRegion r f).lto = s.lto := rfl
@[simp] theorem modRegion_power (s : State) (r : Nat) (f : Region → Region) : (s.modRegion r f).power = s.power := rfl
@[simp] theorem modRegion_obs (s : State) (r : Nat) (f : Region → Region) : (s.modRegion r f).obs = s.obs := rfl
@[simp] theorem modRegion_reply (s : State) (r : Nat) (f : Region → Region) : (s.modRegion r f).reply = s.reply := rfl
@[simp] theorem modRegion_resetting (s : State) (r : Nat) (f : Region → Region) : (s.modRegion r f).resetting = s.resetting := rfl

/-! ## `State.modWg` -/

@[simp] theorem modWg_agenda (s : State) (w : Nat) (f : Workgroup → Workgroup) : (s.modWg w f).agenda = s.agenda := rfl
@[simp] theorem modWg_cur (s : State) (w : Nat) (f : Workgroup → Workgroup) : (s.modWg w f).cur = s.cur := rfl
@[simp] theorem modWg_issued (s : State) (w : Nat) (f : Workgroup → Workgroup) : (s.modWg w f).issued = s.issued := rfl
@[simp] theorem modWg_free (s : State) (w : Nat) (f : Workgroup → Workgroup) : (s.modWg w f).free = s.free := rfl
@[simp] theorem modWg_nextId (s : State) (w : Nat) (f : Workgroup → Workgroup) : (s.modWg w f).nextId = s.nextId := rfl
@[simp] theorem modWg_time (s : State) (w : Nat) (f : Workgroup → Workgroup) : (s.modWg w f).time = s.time := rfl
@[simp] theorem modWg_mem (s : State) (w : Nat) (f : Workgroup → Workgroup) : (s.modWg w f).mem = s.mem := rfl
@[simp] theorem modWg_wlog (s : State) (w : Nat) (f : Workgroup → Workgroup) : (s.modWg w f).wlog = s.wlog := rfl
@[simp] theorem modWg_mclock (s : State) (w : Nat) (f : Workgroup → Workgroup) : (s.modWg w f).mclock = s.mclock := rfl
@[simp] theorem modWg_acqs (s : State) (w : Nat) (f : Workgroup → Workgroup) : (s.modWg w f).acqs = s.acqs := rfl
@[simp] theorem modWg_encs (s : State) (w : Nat) (f : Workgroup → Workgroup) : (s.modWg w f).encs = s.encs := rfl
@[simp] theorem modWg_landed (s : State) (w : Nat) (f : Workgroup → Workgroup) : (s.modWg w f).landed = s.landed := rfl
@[simp] theorem modWg_spoison (s : State) (w : Nat) (f : Workgroup → Workgroup) : (s.modWg w f).spoison = s.spoison := rfl
@[simp] theorem modWg_mpoison (s : State) (w : Nat) (f : Workgroup → Workgroup) : (s.modWg w f).mpoison = s.mpoison := rfl
@[simp] theorem modWg_sideboard (s : State) (w : Nat) (f : Workgroup → Workgroup) : (s.modWg w f).sideboard = s.sideboard := rfl
@[simp] theorem modWg_inq (s : State) (w : Nat) (f : Workgroup → Workgroup) : (s.modWg w f).inq = s.inq := rfl
@[simp] theorem modWg_outq (s : State) (w : Nat) (f : Workgroup → Workgroup) : (s.modWg w f).outq = s.outq := rfl
@[simp] theorem modWg_txbs (s : State) (w : Nat) (f : Workgroup → Workgroup) : (s.modWg w f).txbs = s.txbs := rfl
@[simp] theorem modWg_tlb (s : State) (w : Nat) (f : Workgroup → Workgroup) : (s.modWg w f).tlb = s.tlb := rfl
@[simp] theorem modWg_xinvq (s : State) (w : Nat) (f : Workgroup → Workgroup) : (s.modWg w f).xinvq = s.xinvq := rfl
@[simp] theorem modWg_xdone (s : State) (w : Nat) (f : Workgroup → Workgroup) : (s.modWg w f).xdone = s.xdone := rfl
@[simp] theorem modWg_groups (s : State) (w : Nat) (f : Workgroup → Workgroup) : (s.modWg w f).groups = s.groups := rfl
@[simp] theorem modWg_ops (s : State) (w : Nat) (f : Workgroup → Workgroup) : (s.modWg w f).ops = s.ops := rfl
@[simp] theorem modWg_passes (s : State) (w : Nat) (f : Workgroup → Workgroup) : (s.modWg w f).passes = s.passes := rfl
@[simp] theorem modWg_slots (s : State) (w : Nat) (f : Workgroup → Workgroup) : (s.modWg w f).slots = s.slots := rfl
@[simp] theorem modWg_objs (s : State) (w : Nat) (f : Workgroup → Workgroup) : (s.modWg w f).objs = s.objs := rfl
@[simp] theorem modWg_regions (s : State) (w : Nat) (f : Workgroup → Workgroup) : (s.modWg w f).regions = s.regions := rfl
@[simp] theorem modWg_mailboxes (s : State) (w : Nat) (f : Workgroup → Workgroup) : (s.modWg w f).mailboxes = s.mailboxes := rfl
@[simp] theorem modWg_xfers (s : State) (w : Nat) (f : Workgroup → Workgroup) : (s.modWg w f).xfers = s.xfers := rfl
@[simp] theorem modWg_ctxs (s : State) (w : Nat) (f : Workgroup → Workgroup) : (s.modWg w f).ctxs = s.ctxs := rfl
@[simp] theorem modWg_boots (s : State) (w : Nat) (f : Workgroup → Workgroup) : (s.modWg w f).boots = s.boots := rfl
@[simp] theorem modWg_journal (s : State) (w : Nat) (f : Workgroup → Workgroup) : (s.modWg w f).journal = s.journal := rfl
@[simp] theorem modWg_jqueue (s : State) (w : Nat) (f : Workgroup → Workgroup) : (s.modWg w f).jqueue = s.jqueue := rfl
@[simp] theorem modWg_jack (s : State) (w : Nat) (f : Workgroup → Workgroup) : (s.modWg w f).jack = s.jack := rfl
@[simp] theorem modWg_intake (s : State) (w : Nat) (f : Workgroup → Workgroup) : (s.modWg w f).intake = s.intake := rfl
@[simp] theorem modWg_accept (s : State) (w : Nat) (f : Workgroup → Workgroup) : (s.modWg w f).accept = s.accept := rfl
@[simp] theorem modWg_heads (s : State) (w : Nat) (f : Workgroup → Workgroup) : (s.modWg w f).heads = s.heads := rfl
@[simp] theorem modWg_headNext (s : State) (w : Nat) (f : Workgroup → Workgroup) : (s.modWg w f).headNext = s.headNext := rfl
@[simp] theorem modWg_fwq (s : State) (w : Nat) (f : Workgroup → Workgroup) : (s.modWg w f).fwq = s.fwq := rfl
@[simp] theorem modWg_fwStaged (s : State) (w : Nat) (f : Workgroup → Workgroup) : (s.modWg w f).fwStaged = s.fwStaged := rfl
@[simp] theorem modWg_fwRunning (s : State) (w : Nat) (f : Workgroup → Workgroup) : (s.modWg w f).fwRunning = s.fwRunning := rfl
@[simp] theorem modWg_fwMin (s : State) (w : Nat) (f : Workgroup → Workgroup) : (s.modWg w f).fwMin = s.fwMin := rfl
@[simp] theorem modWg_msix (s : State) (w : Nat) (f : Workgroup → Workgroup) : (s.modWg w f).msix = s.msix := rfl
@[simp] theorem modWg_intmap (s : State) (w : Nat) (f : Workgroup → Workgroup) : (s.modWg w f).intmap = s.intmap := rfl
@[simp] theorem modWg_hostwin (s : State) (w : Nat) (f : Workgroup → Workgroup) : (s.modWg w f).hostwin = s.hostwin := rfl
@[simp] theorem modWg_errsCor (s : State) (w : Nat) (f : Workgroup → Workgroup) : (s.modWg w f).errsCor = s.errsCor := rfl
@[simp] theorem modWg_errsUnc (s : State) (w : Nat) (f : Workgroup → Workgroup) : (s.modWg w f).errsUnc = s.errsUnc := rfl
@[simp] theorem modWg_links (s : State) (w : Nat) (f : Workgroup → Workgroup) : (s.modWg w f).links = s.links := rfl
@[simp] theorem modWg_devnum (s : State) (w : Nat) (f : Workgroup → Workgroup) : (s.modWg w f).devnum = s.devnum := rfl
@[simp] theorem modWg_devnumSet (s : State) (w : Nat) (f : Workgroup → Workgroup) : (s.modWg w f).devnumSet = s.devnumSet := rfl
@[simp] theorem modWg_lto (s : State) (w : Nat) (f : Workgroup → Workgroup) : (s.modWg w f).lto = s.lto := rfl
@[simp] theorem modWg_power (s : State) (w : Nat) (f : Workgroup → Workgroup) : (s.modWg w f).power = s.power := rfl
@[simp] theorem modWg_obs (s : State) (w : Nat) (f : Workgroup → Workgroup) : (s.modWg w f).obs = s.obs := rfl
@[simp] theorem modWg_reply (s : State) (w : Nat) (f : Workgroup → Workgroup) : (s.modWg w f).reply = s.reply := rfl
@[simp] theorem modWg_resetting (s : State) (w : Nat) (f : Workgroup → Workgroup) : (s.modWg w f).resetting = s.resetting := rfl

/-! ## `State.modCtx` -/

@[simp] theorem modCtx_agenda (s : State) (c : Nat) (f : Context → Context) : (s.modCtx c f).agenda = s.agenda := rfl
@[simp] theorem modCtx_cur (s : State) (c : Nat) (f : Context → Context) : (s.modCtx c f).cur = s.cur := rfl
@[simp] theorem modCtx_issued (s : State) (c : Nat) (f : Context → Context) : (s.modCtx c f).issued = s.issued := rfl
@[simp] theorem modCtx_free (s : State) (c : Nat) (f : Context → Context) : (s.modCtx c f).free = s.free := rfl
@[simp] theorem modCtx_nextId (s : State) (c : Nat) (f : Context → Context) : (s.modCtx c f).nextId = s.nextId := rfl
@[simp] theorem modCtx_time (s : State) (c : Nat) (f : Context → Context) : (s.modCtx c f).time = s.time := rfl
@[simp] theorem modCtx_mem (s : State) (c : Nat) (f : Context → Context) : (s.modCtx c f).mem = s.mem := rfl
@[simp] theorem modCtx_wlog (s : State) (c : Nat) (f : Context → Context) : (s.modCtx c f).wlog = s.wlog := rfl
@[simp] theorem modCtx_mclock (s : State) (c : Nat) (f : Context → Context) : (s.modCtx c f).mclock = s.mclock := rfl
@[simp] theorem modCtx_acqs (s : State) (c : Nat) (f : Context → Context) : (s.modCtx c f).acqs = s.acqs := rfl
@[simp] theorem modCtx_encs (s : State) (c : Nat) (f : Context → Context) : (s.modCtx c f).encs = s.encs := rfl
@[simp] theorem modCtx_landed (s : State) (c : Nat) (f : Context → Context) : (s.modCtx c f).landed = s.landed := rfl
@[simp] theorem modCtx_spoison (s : State) (c : Nat) (f : Context → Context) : (s.modCtx c f).spoison = s.spoison := rfl
@[simp] theorem modCtx_mpoison (s : State) (c : Nat) (f : Context → Context) : (s.modCtx c f).mpoison = s.mpoison := rfl
@[simp] theorem modCtx_sideboard (s : State) (c : Nat) (f : Context → Context) : (s.modCtx c f).sideboard = s.sideboard := rfl
@[simp] theorem modCtx_inq (s : State) (c : Nat) (f : Context → Context) : (s.modCtx c f).inq = s.inq := rfl
@[simp] theorem modCtx_outq (s : State) (c : Nat) (f : Context → Context) : (s.modCtx c f).outq = s.outq := rfl
@[simp] theorem modCtx_txbs (s : State) (c : Nat) (f : Context → Context) : (s.modCtx c f).txbs = s.txbs := rfl
@[simp] theorem modCtx_tlb (s : State) (c : Nat) (f : Context → Context) : (s.modCtx c f).tlb = s.tlb := rfl
@[simp] theorem modCtx_xinvq (s : State) (c : Nat) (f : Context → Context) : (s.modCtx c f).xinvq = s.xinvq := rfl
@[simp] theorem modCtx_xdone (s : State) (c : Nat) (f : Context → Context) : (s.modCtx c f).xdone = s.xdone := rfl
@[simp] theorem modCtx_groups (s : State) (c : Nat) (f : Context → Context) : (s.modCtx c f).groups = s.groups := rfl
@[simp] theorem modCtx_ops (s : State) (c : Nat) (f : Context → Context) : (s.modCtx c f).ops = s.ops := rfl
@[simp] theorem modCtx_passes (s : State) (c : Nat) (f : Context → Context) : (s.modCtx c f).passes = s.passes := rfl
@[simp] theorem modCtx_slots (s : State) (c : Nat) (f : Context → Context) : (s.modCtx c f).slots = s.slots := rfl
@[simp] theorem modCtx_objs (s : State) (c : Nat) (f : Context → Context) : (s.modCtx c f).objs = s.objs := rfl
@[simp] theorem modCtx_regions (s : State) (c : Nat) (f : Context → Context) : (s.modCtx c f).regions = s.regions := rfl
@[simp] theorem modCtx_wgs (s : State) (c : Nat) (f : Context → Context) : (s.modCtx c f).wgs = s.wgs := rfl
@[simp] theorem modCtx_mailboxes (s : State) (c : Nat) (f : Context → Context) : (s.modCtx c f).mailboxes = s.mailboxes := rfl
@[simp] theorem modCtx_xfers (s : State) (c : Nat) (f : Context → Context) : (s.modCtx c f).xfers = s.xfers := rfl
@[simp] theorem modCtx_boots (s : State) (c : Nat) (f : Context → Context) : (s.modCtx c f).boots = s.boots := rfl
@[simp] theorem modCtx_journal (s : State) (c : Nat) (f : Context → Context) : (s.modCtx c f).journal = s.journal := rfl
@[simp] theorem modCtx_jqueue (s : State) (c : Nat) (f : Context → Context) : (s.modCtx c f).jqueue = s.jqueue := rfl
@[simp] theorem modCtx_jack (s : State) (c : Nat) (f : Context → Context) : (s.modCtx c f).jack = s.jack := rfl
@[simp] theorem modCtx_intake (s : State) (c : Nat) (f : Context → Context) : (s.modCtx c f).intake = s.intake := rfl
@[simp] theorem modCtx_accept (s : State) (c : Nat) (f : Context → Context) : (s.modCtx c f).accept = s.accept := rfl
@[simp] theorem modCtx_heads (s : State) (c : Nat) (f : Context → Context) : (s.modCtx c f).heads = s.heads := rfl
@[simp] theorem modCtx_headNext (s : State) (c : Nat) (f : Context → Context) : (s.modCtx c f).headNext = s.headNext := rfl
@[simp] theorem modCtx_fwq (s : State) (c : Nat) (f : Context → Context) : (s.modCtx c f).fwq = s.fwq := rfl
@[simp] theorem modCtx_fwStaged (s : State) (c : Nat) (f : Context → Context) : (s.modCtx c f).fwStaged = s.fwStaged := rfl
@[simp] theorem modCtx_fwRunning (s : State) (c : Nat) (f : Context → Context) : (s.modCtx c f).fwRunning = s.fwRunning := rfl
@[simp] theorem modCtx_fwMin (s : State) (c : Nat) (f : Context → Context) : (s.modCtx c f).fwMin = s.fwMin := rfl
@[simp] theorem modCtx_msix (s : State) (c : Nat) (f : Context → Context) : (s.modCtx c f).msix = s.msix := rfl
@[simp] theorem modCtx_intmap (s : State) (c : Nat) (f : Context → Context) : (s.modCtx c f).intmap = s.intmap := rfl
@[simp] theorem modCtx_hostwin (s : State) (c : Nat) (f : Context → Context) : (s.modCtx c f).hostwin = s.hostwin := rfl
@[simp] theorem modCtx_errsCor (s : State) (c : Nat) (f : Context → Context) : (s.modCtx c f).errsCor = s.errsCor := rfl
@[simp] theorem modCtx_errsUnc (s : State) (c : Nat) (f : Context → Context) : (s.modCtx c f).errsUnc = s.errsUnc := rfl
@[simp] theorem modCtx_links (s : State) (c : Nat) (f : Context → Context) : (s.modCtx c f).links = s.links := rfl
@[simp] theorem modCtx_devnum (s : State) (c : Nat) (f : Context → Context) : (s.modCtx c f).devnum = s.devnum := rfl
@[simp] theorem modCtx_devnumSet (s : State) (c : Nat) (f : Context → Context) : (s.modCtx c f).devnumSet = s.devnumSet := rfl
@[simp] theorem modCtx_lto (s : State) (c : Nat) (f : Context → Context) : (s.modCtx c f).lto = s.lto := rfl
@[simp] theorem modCtx_power (s : State) (c : Nat) (f : Context → Context) : (s.modCtx c f).power = s.power := rfl
@[simp] theorem modCtx_obs (s : State) (c : Nat) (f : Context → Context) : (s.modCtx c f).obs = s.obs := rfl
@[simp] theorem modCtx_reply (s : State) (c : Nat) (f : Context → Context) : (s.modCtx c f).reply = s.reply := rfl
@[simp] theorem modCtx_resetting (s : State) (c : Nat) (f : Context → Context) : (s.modCtx c f).resetting = s.resetting := rfl

/-! ## `State.setSlot` -/

@[simp] theorem setSlot_agenda (s : State) (x : Slot) : (s.setSlot x).agenda = s.agenda := rfl
@[simp] theorem setSlot_cur (s : State) (x : Slot) : (s.setSlot x).cur = s.cur := rfl
@[simp] theorem setSlot_issued (s : State) (x : Slot) : (s.setSlot x).issued = s.issued := rfl
@[simp] theorem setSlot_free (s : State) (x : Slot) : (s.setSlot x).free = s.free := rfl
@[simp] theorem setSlot_nextId (s : State) (x : Slot) : (s.setSlot x).nextId = s.nextId := rfl
@[simp] theorem setSlot_time (s : State) (x : Slot) : (s.setSlot x).time = s.time := rfl
@[simp] theorem setSlot_mem (s : State) (x : Slot) : (s.setSlot x).mem = s.mem := rfl
@[simp] theorem setSlot_wlog (s : State) (x : Slot) : (s.setSlot x).wlog = s.wlog := rfl
@[simp] theorem setSlot_mclock (s : State) (x : Slot) : (s.setSlot x).mclock = s.mclock := rfl
@[simp] theorem setSlot_acqs (s : State) (x : Slot) : (s.setSlot x).acqs = s.acqs := rfl
@[simp] theorem setSlot_encs (s : State) (x : Slot) : (s.setSlot x).encs = s.encs := rfl
@[simp] theorem setSlot_landed (s : State) (x : Slot) : (s.setSlot x).landed = s.landed := rfl
@[simp] theorem setSlot_spoison (s : State) (x : Slot) : (s.setSlot x).spoison = s.spoison := rfl
@[simp] theorem setSlot_mpoison (s : State) (x : Slot) : (s.setSlot x).mpoison = s.mpoison := rfl
@[simp] theorem setSlot_sideboard (s : State) (x : Slot) : (s.setSlot x).sideboard = s.sideboard := rfl
@[simp] theorem setSlot_inq (s : State) (x : Slot) : (s.setSlot x).inq = s.inq := rfl
@[simp] theorem setSlot_outq (s : State) (x : Slot) : (s.setSlot x).outq = s.outq := rfl
@[simp] theorem setSlot_txbs (s : State) (x : Slot) : (s.setSlot x).txbs = s.txbs := rfl
@[simp] theorem setSlot_tlb (s : State) (x : Slot) : (s.setSlot x).tlb = s.tlb := rfl
@[simp] theorem setSlot_xinvq (s : State) (x : Slot) : (s.setSlot x).xinvq = s.xinvq := rfl
@[simp] theorem setSlot_xdone (s : State) (x : Slot) : (s.setSlot x).xdone = s.xdone := rfl
@[simp] theorem setSlot_groups (s : State) (x : Slot) : (s.setSlot x).groups = s.groups := rfl
@[simp] theorem setSlot_ops (s : State) (x : Slot) : (s.setSlot x).ops = s.ops := rfl
@[simp] theorem setSlot_passes (s : State) (x : Slot) : (s.setSlot x).passes = s.passes := rfl
@[simp] theorem setSlot_objs (s : State) (x : Slot) : (s.setSlot x).objs = s.objs := rfl
@[simp] theorem setSlot_regions (s : State) (x : Slot) : (s.setSlot x).regions = s.regions := rfl
@[simp] theorem setSlot_wgs (s : State) (x : Slot) : (s.setSlot x).wgs = s.wgs := rfl
@[simp] theorem setSlot_mailboxes (s : State) (x : Slot) : (s.setSlot x).mailboxes = s.mailboxes := rfl
@[simp] theorem setSlot_xfers (s : State) (x : Slot) : (s.setSlot x).xfers = s.xfers := rfl
@[simp] theorem setSlot_ctxs (s : State) (x : Slot) : (s.setSlot x).ctxs = s.ctxs := rfl
@[simp] theorem setSlot_boots (s : State) (x : Slot) : (s.setSlot x).boots = s.boots := rfl
@[simp] theorem setSlot_journal (s : State) (x : Slot) : (s.setSlot x).journal = s.journal := rfl
@[simp] theorem setSlot_jqueue (s : State) (x : Slot) : (s.setSlot x).jqueue = s.jqueue := rfl
@[simp] theorem setSlot_jack (s : State) (x : Slot) : (s.setSlot x).jack = s.jack := rfl
@[simp] theorem setSlot_intake (s : State) (x : Slot) : (s.setSlot x).intake = s.intake := rfl
@[simp] theorem setSlot_accept (s : State) (x : Slot) : (s.setSlot x).accept = s.accept := rfl
@[simp] theorem setSlot_heads (s : State) (x : Slot) : (s.setSlot x).heads = s.heads := rfl
@[simp] theorem setSlot_headNext (s : State) (x : Slot) : (s.setSlot x).headNext = s.headNext := rfl
@[simp] theorem setSlot_fwq (s : State) (x : Slot) : (s.setSlot x).fwq = s.fwq := rfl
@[simp] theorem setSlot_fwStaged (s : State) (x : Slot) : (s.setSlot x).fwStaged = s.fwStaged := rfl
@[simp] theorem setSlot_fwRunning (s : State) (x : Slot) : (s.setSlot x).fwRunning = s.fwRunning := rfl
@[simp] theorem setSlot_fwMin (s : State) (x : Slot) : (s.setSlot x).fwMin = s.fwMin := rfl
@[simp] theorem setSlot_msix (s : State) (x : Slot) : (s.setSlot x).msix = s.msix := rfl
@[simp] theorem setSlot_intmap (s : State) (x : Slot) : (s.setSlot x).intmap = s.intmap := rfl
@[simp] theorem setSlot_hostwin (s : State) (x : Slot) : (s.setSlot x).hostwin = s.hostwin := rfl
@[simp] theorem setSlot_errsCor (s : State) (x : Slot) : (s.setSlot x).errsCor = s.errsCor := rfl
@[simp] theorem setSlot_errsUnc (s : State) (x : Slot) : (s.setSlot x).errsUnc = s.errsUnc := rfl
@[simp] theorem setSlot_links (s : State) (x : Slot) : (s.setSlot x).links = s.links := rfl
@[simp] theorem setSlot_devnum (s : State) (x : Slot) : (s.setSlot x).devnum = s.devnum := rfl
@[simp] theorem setSlot_devnumSet (s : State) (x : Slot) : (s.setSlot x).devnumSet = s.devnumSet := rfl
@[simp] theorem setSlot_lto (s : State) (x : Slot) : (s.setSlot x).lto = s.lto := rfl
@[simp] theorem setSlot_power (s : State) (x : Slot) : (s.setSlot x).power = s.power := rfl
@[simp] theorem setSlot_obs (s : State) (x : Slot) : (s.setSlot x).obs = s.obs := rfl
@[simp] theorem setSlot_reply (s : State) (x : Slot) : (s.setSlot x).reply = s.reply := rfl
@[simp] theorem setSlot_resetting (s : State) (x : Slot) : (s.setSlot x).resetting = s.resetting := rfl

/-! ## `Group.setS` -/

@[simp] theorem setS_id (g : Group) (r : Nat) (x : Word) : (g.setS r x).id = g.id := rfl
@[simp] theorem setS_ctx (g : Group) (r : Nat) (x : Word) : (g.setS r x).ctx = g.ctx := rfl
@[simp] theorem setS_region (g : Group) (r : Nat) (x : Word) : (g.setS r x).region = g.region := rfl
@[simp] theorem setS_wg (g : Group) (r : Nat) (x : Word) : (g.setS r x).wg = g.wg := rfl
@[simp] theorem setS_gid (g : Group) (r : Nat) (x : Word) : (g.setS r x).gid = g.gid := rfl
@[simp] theorem setS_core (g : Group) (r : Nat) (x : Word) : (g.setS r x).core = g.core := rfl
@[simp] theorem setS_slot (g : Group) (r : Nat) (x : Word) : (g.setS r x).slot = g.slot := rfl
@[simp] theorem setS_pos (g : Group) (r : Nat) (x : Word) : (g.setS r x).pos = g.pos := rfl
@[simp] theorem setS_age (g : Group) (r : Nat) (x : Word) : (g.setS r x).age = g.age := rfl
@[simp] theorem setS_obj (g : Group) (r : Nat) (x : Word) : (g.setS r x).obj = g.obj := rfl
@[simp] theorem setS_kidx (g : Group) (r : Nat) (x : Word) : (g.setS r x).kidx = g.kidx := rfl
@[simp] theorem setS_ver (g : Group) (r : Nat) (x : Word) : (g.setS r x).ver = g.ver := rfl
@[simp] theorem setS_legacy (g : Group) (r : Nat) (x : Word) : (g.setS r x).legacy = g.legacy := rfl
@[simp] theorem setS_stage (g : Group) (r : Nat) (x : Word) : (g.setS r x).stage = g.stage := rfl
@[simp] theorem setS_phase (g : Group) (r : Nat) (x : Word) : (g.setS r x).phase = g.phase := rfl
@[simp] theorem setS_pending (g : Group) (r : Nat) (x : Word) : (g.setS r x).pending = g.pending := rfl
@[simp] theorem setS_moves (g : Group) (r : Nat) (x : Word) : (g.setS r x).moves = g.moves := rfl
@[simp] theorem setS_stopped (g : Group) (r : Nat) (x : Word) : (g.setS r x).stopped = g.stopped := rfl
@[simp] theorem setS_entries (g : Group) (r : Nat) (x : Word) : (g.setS r x).entries = g.entries := rfl
@[simp] theorem setS_events (g : Group) (r : Nat) (x : Word) : (g.setS r x).events = g.events := rfl
@[simp] theorem setS_v (g : Group) (r : Nat) (x : Word) : (g.setS r x).v = g.v := rfl
@[simp] theorem setS_mr (g : Group) (r : Nat) (x : Word) : (g.setS r x).mr = g.mr := rfl
@[simp] theorem setS_tr (g : Group) (r : Nat) (x : Word) : (g.setS r x).tr = g.tr := rfl
@[simp] theorem setS_ld (g : Group) (r : Nat) (x : Word) : (g.setS r x).ld = g.ld := rfl
@[simp] theorem setS_st (g : Group) (r : Nat) (x : Word) : (g.setS r x).st = g.st := rfl
@[simp] theorem setS_cp (g : Group) (r : Nat) (x : Word) : (g.setS r x).cp = g.cp := rfl
@[simp] theorem setS_mx (g : Group) (r : Nat) (x : Word) : (g.setS r x).mx = g.mx := rfl
@[simp] theorem setS_frecp (g : Group) (r : Nat) (x : Word) : (g.setS r x).frecp = g.frecp := rfl
@[simp] theorem setS_trappc (g : Group) (r : Nat) (x : Word) : (g.setS r x).trappc = g.trappc := rfl
@[simp] theorem setS_trapcode (g : Group) (r : Nat) (x : Word) : (g.setS r x).trapcode = g.trapcode := rfl
@[simp] theorem setS_traparg (g : Group) (r : Nat) (x : Word) : (g.setS r x).traparg = g.traparg := rfl
@[simp] theorem setS_hLanes (g : Group) (r : Nat) (x : Word) : (g.setS r x).hLanes = g.hLanes := rfl
@[simp] theorem setS_hEntry (g : Group) (r : Nat) (x : Word) : (g.setS r x).hEntry = g.hEntry := rfl
@[simp] theorem setS_hRedo (g : Group) (r : Nat) (x : Word) : (g.setS r x).hRedo = g.hRedo := rfl
@[simp] theorem setS_rstack (g : Group) (r : Nat) (x : Word) : (g.setS r x).rstack = g.rstack := rfl
@[simp] theorem setS_task (g : Group) (r : Nat) (x : Word) : (g.setS r x).task = g.task := rfl
@[simp] theorem setS_mmas (g : Group) (r : Nat) (x : Word) : (g.setS r x).mmas = g.mmas := rfl
@[simp] theorem setS_late (g : Group) (r : Nat) (x : Word) : (g.setS r x).late = g.late := rfl
@[simp] theorem setS_left (g : Group) (r : Nat) (x : Word) : (g.setS r x).left = g.left := rfl
@[simp] theorem setS_softErr (g : Group) (r : Nat) (x : Word) : (g.setS r x).softErr = g.softErr := rfl
@[simp] theorem setS_image (g : Group) (r : Nat) (x : Word) : (g.setS r x).image = g.image := rfl

/-! ## `Group.setT` -/

@[simp] theorem setT_id (g : Group) (t : Nat) (x : BitVec 512) : (g.setT t x).id = g.id := rfl
@[simp] theorem setT_ctx (g : Group) (t : Nat) (x : BitVec 512) : (g.setT t x).ctx = g.ctx := rfl
@[simp] theorem setT_region (g : Group) (t : Nat) (x : BitVec 512) : (g.setT t x).region = g.region := rfl
@[simp] theorem setT_wg (g : Group) (t : Nat) (x : BitVec 512) : (g.setT t x).wg = g.wg := rfl
@[simp] theorem setT_gid (g : Group) (t : Nat) (x : BitVec 512) : (g.setT t x).gid = g.gid := rfl
@[simp] theorem setT_core (g : Group) (t : Nat) (x : BitVec 512) : (g.setT t x).core = g.core := rfl
@[simp] theorem setT_slot (g : Group) (t : Nat) (x : BitVec 512) : (g.setT t x).slot = g.slot := rfl
@[simp] theorem setT_pos (g : Group) (t : Nat) (x : BitVec 512) : (g.setT t x).pos = g.pos := rfl
@[simp] theorem setT_age (g : Group) (t : Nat) (x : BitVec 512) : (g.setT t x).age = g.age := rfl
@[simp] theorem setT_obj (g : Group) (t : Nat) (x : BitVec 512) : (g.setT t x).obj = g.obj := rfl
@[simp] theorem setT_kidx (g : Group) (t : Nat) (x : BitVec 512) : (g.setT t x).kidx = g.kidx := rfl
@[simp] theorem setT_ver (g : Group) (t : Nat) (x : BitVec 512) : (g.setT t x).ver = g.ver := rfl
@[simp] theorem setT_legacy (g : Group) (t : Nat) (x : BitVec 512) : (g.setT t x).legacy = g.legacy := rfl
@[simp] theorem setT_stage (g : Group) (t : Nat) (x : BitVec 512) : (g.setT t x).stage = g.stage := rfl
@[simp] theorem setT_phase (g : Group) (t : Nat) (x : BitVec 512) : (g.setT t x).phase = g.phase := rfl
@[simp] theorem setT_pending (g : Group) (t : Nat) (x : BitVec 512) : (g.setT t x).pending = g.pending := rfl
@[simp] theorem setT_moves (g : Group) (t : Nat) (x : BitVec 512) : (g.setT t x).moves = g.moves := rfl
@[simp] theorem setT_stopped (g : Group) (t : Nat) (x : BitVec 512) : (g.setT t x).stopped = g.stopped := rfl
@[simp] theorem setT_entries (g : Group) (t : Nat) (x : BitVec 512) : (g.setT t x).entries = g.entries := rfl
@[simp] theorem setT_events (g : Group) (t : Nat) (x : BitVec 512) : (g.setT t x).events = g.events := rfl
@[simp] theorem setT_v (g : Group) (t : Nat) (x : BitVec 512) : (g.setT t x).v = g.v := rfl
@[simp] theorem setT_sr (g : Group) (t : Nat) (x : BitVec 512) : (g.setT t x).sr = g.sr := rfl
@[simp] theorem setT_mr (g : Group) (t : Nat) (x : BitVec 512) : (g.setT t x).mr = g.mr := rfl
@[simp] theorem setT_ld (g : Group) (t : Nat) (x : BitVec 512) : (g.setT t x).ld = g.ld := rfl
@[simp] theorem setT_st (g : Group) (t : Nat) (x : BitVec 512) : (g.setT t x).st = g.st := rfl
@[simp] theorem setT_cp (g : Group) (t : Nat) (x : BitVec 512) : (g.setT t x).cp = g.cp := rfl
@[simp] theorem setT_mx (g : Group) (t : Nat) (x : BitVec 512) : (g.setT t x).mx = g.mx := rfl
@[simp] theorem setT_frecp (g : Group) (t : Nat) (x : BitVec 512) : (g.setT t x).frecp = g.frecp := rfl
@[simp] theorem setT_trappc (g : Group) (t : Nat) (x : BitVec 512) : (g.setT t x).trappc = g.trappc := rfl
@[simp] theorem setT_trapcode (g : Group) (t : Nat) (x : BitVec 512) : (g.setT t x).trapcode = g.trapcode := rfl
@[simp] theorem setT_traparg (g : Group) (t : Nat) (x : BitVec 512) : (g.setT t x).traparg = g.traparg := rfl
@[simp] theorem setT_hLanes (g : Group) (t : Nat) (x : BitVec 512) : (g.setT t x).hLanes = g.hLanes := rfl
@[simp] theorem setT_hEntry (g : Group) (t : Nat) (x : BitVec 512) : (g.setT t x).hEntry = g.hEntry := rfl
@[simp] theorem setT_hRedo (g : Group) (t : Nat) (x : BitVec 512) : (g.setT t x).hRedo = g.hRedo := rfl
@[simp] theorem setT_rstack (g : Group) (t : Nat) (x : BitVec 512) : (g.setT t x).rstack = g.rstack := rfl
@[simp] theorem setT_task (g : Group) (t : Nat) (x : BitVec 512) : (g.setT t x).task = g.task := rfl
@[simp] theorem setT_mmas (g : Group) (t : Nat) (x : BitVec 512) : (g.setT t x).mmas = g.mmas := rfl
@[simp] theorem setT_late (g : Group) (t : Nat) (x : BitVec 512) : (g.setT t x).late = g.late := rfl
@[simp] theorem setT_left (g : Group) (t : Nat) (x : BitVec 512) : (g.setT t x).left = g.left := rfl
@[simp] theorem setT_softErr (g : Group) (t : Nat) (x : BitVec 512) : (g.setT t x).softErr = g.softErr := rfl
@[simp] theorem setT_image (g : Group) (t : Nat) (x : BitVec 512) : (g.setT t x).image = g.image := rfl

/-! ## `Group.setEntry` -/

@[simp] theorem setEntry_id (g : Group) (e : Nat) (x : Entry) : (g.setEntry e x).id = g.id := rfl
@[simp] theorem setEntry_ctx (g : Group) (e : Nat) (x : Entry) : (g.setEntry e x).ctx = g.ctx := rfl
@[simp] theorem setEntry_region (g : Group) (e : Nat) (x : Entry) : (g.setEntry e x).region = g.region := rfl
@[simp] theorem setEntry_wg (g : Group) (e : Nat) (x : Entry) : (g.setEntry e x).wg = g.wg := rfl
@[simp] theorem setEntry_gid (g : Group) (e : Nat) (x : Entry) : (g.setEntry e x).gid = g.gid := rfl
@[simp] theorem setEntry_core (g : Group) (e : Nat) (x : Entry) : (g.setEntry e x).core = g.core := rfl
@[simp] theorem setEntry_slot (g : Group) (e : Nat) (x : Entry) : (g.setEntry e x).slot = g.slot := rfl
@[simp] theorem setEntry_pos (g : Group) (e : Nat) (x : Entry) : (g.setEntry e x).pos = g.pos := rfl
@[simp] theorem setEntry_age (g : Group) (e : Nat) (x : Entry) : (g.setEntry e x).age = g.age := rfl
@[simp] theorem setEntry_obj (g : Group) (e : Nat) (x : Entry) : (g.setEntry e x).obj = g.obj := rfl
@[simp] theorem setEntry_kidx (g : Group) (e : Nat) (x : Entry) : (g.setEntry e x).kidx = g.kidx := rfl
@[simp] theorem setEntry_ver (g : Group) (e : Nat) (x : Entry) : (g.setEntry e x).ver = g.ver := rfl
@[simp] theorem setEntry_legacy (g : Group) (e : Nat) (x : Entry) : (g.setEntry e x).legacy = g.legacy := rfl
@[simp] theorem setEntry_stage (g : Group) (e : Nat) (x : Entry) : (g.setEntry e x).stage = g.stage := rfl
@[simp] theorem setEntry_phase (g : Group) (e : Nat) (x : Entry) : (g.setEntry e x).phase = g.phase := rfl
@[simp] theorem setEntry_pending (g : Group) (e : Nat) (x : Entry) : (g.setEntry e x).pending = g.pending := rfl
@[simp] theorem setEntry_moves (g : Group) (e : Nat) (x : Entry) : (g.setEntry e x).moves = g.moves := rfl
@[simp] theorem setEntry_stopped (g : Group) (e : Nat) (x : Entry) : (g.setEntry e x).stopped = g.stopped := rfl
@[simp] theorem setEntry_events (g : Group) (e : Nat) (x : Entry) : (g.setEntry e x).events = g.events := rfl
@[simp] theorem setEntry_v (g : Group) (e : Nat) (x : Entry) : (g.setEntry e x).v = g.v := rfl
@[simp] theorem setEntry_sr (g : Group) (e : Nat) (x : Entry) : (g.setEntry e x).sr = g.sr := rfl
@[simp] theorem setEntry_mr (g : Group) (e : Nat) (x : Entry) : (g.setEntry e x).mr = g.mr := rfl
@[simp] theorem setEntry_tr (g : Group) (e : Nat) (x : Entry) : (g.setEntry e x).tr = g.tr := rfl
@[simp] theorem setEntry_ld (g : Group) (e : Nat) (x : Entry) : (g.setEntry e x).ld = g.ld := rfl
@[simp] theorem setEntry_st (g : Group) (e : Nat) (x : Entry) : (g.setEntry e x).st = g.st := rfl
@[simp] theorem setEntry_cp (g : Group) (e : Nat) (x : Entry) : (g.setEntry e x).cp = g.cp := rfl
@[simp] theorem setEntry_mx (g : Group) (e : Nat) (x : Entry) : (g.setEntry e x).mx = g.mx := rfl
@[simp] theorem setEntry_frecp (g : Group) (e : Nat) (x : Entry) : (g.setEntry e x).frecp = g.frecp := rfl
@[simp] theorem setEntry_trappc (g : Group) (e : Nat) (x : Entry) : (g.setEntry e x).trappc = g.trappc := rfl
@[simp] theorem setEntry_trapcode (g : Group) (e : Nat) (x : Entry) : (g.setEntry e x).trapcode = g.trapcode := rfl
@[simp] theorem setEntry_traparg (g : Group) (e : Nat) (x : Entry) : (g.setEntry e x).traparg = g.traparg := rfl
@[simp] theorem setEntry_hLanes (g : Group) (e : Nat) (x : Entry) : (g.setEntry e x).hLanes = g.hLanes := rfl
@[simp] theorem setEntry_hEntry (g : Group) (e : Nat) (x : Entry) : (g.setEntry e x).hEntry = g.hEntry := rfl
@[simp] theorem setEntry_hRedo (g : Group) (e : Nat) (x : Entry) : (g.setEntry e x).hRedo = g.hRedo := rfl
@[simp] theorem setEntry_rstack (g : Group) (e : Nat) (x : Entry) : (g.setEntry e x).rstack = g.rstack := rfl
@[simp] theorem setEntry_task (g : Group) (e : Nat) (x : Entry) : (g.setEntry e x).task = g.task := rfl
@[simp] theorem setEntry_mmas (g : Group) (e : Nat) (x : Entry) : (g.setEntry e x).mmas = g.mmas := rfl
@[simp] theorem setEntry_late (g : Group) (e : Nat) (x : Entry) : (g.setEntry e x).late = g.late := rfl
@[simp] theorem setEntry_left (g : Group) (e : Nat) (x : Entry) : (g.setEntry e x).left = g.left := rfl
@[simp] theorem setEntry_softErr (g : Group) (e : Nat) (x : Entry) : (g.setEntry e x).softErr = g.softErr := rfl
@[simp] theorem setEntry_image (g : Group) (e : Nat) (x : Entry) : (g.setEntry e x).image = g.image := rfl

/-! ## `Group.modEntry` -/

@[simp] theorem modEntry_id (g : Group) (e : Nat) (f : Entry → Entry) : (g.modEntry e f).id = g.id := rfl
@[simp] theorem modEntry_ctx (g : Group) (e : Nat) (f : Entry → Entry) : (g.modEntry e f).ctx = g.ctx := rfl
@[simp] theorem modEntry_region (g : Group) (e : Nat) (f : Entry → Entry) : (g.modEntry e f).region = g.region := rfl
@[simp] theorem modEntry_wg (g : Group) (e : Nat) (f : Entry → Entry) : (g.modEntry e f).wg = g.wg := rfl
@[simp] theorem modEntry_gid (g : Group) (e : Nat) (f : Entry → Entry) : (g.modEntry e f).gid = g.gid := rfl
@[simp] theorem modEntry_core (g : Group) (e : Nat) (f : Entry → Entry) : (g.modEntry e f).core = g.core := rfl
@[simp] theorem modEntry_slot (g : Group) (e : Nat) (f : Entry → Entry) : (g.modEntry e f).slot = g.slot := rfl
@[simp] theorem modEntry_pos (g : Group) (e : Nat) (f : Entry → Entry) : (g.modEntry e f).pos = g.pos := rfl
@[simp] theorem modEntry_age (g : Group) (e : Nat) (f : Entry → Entry) : (g.modEntry e f).age = g.age := rfl
@[simp] theorem modEntry_obj (g : Group) (e : Nat) (f : Entry → Entry) : (g.modEntry e f).obj = g.obj := rfl
@[simp] theorem modEntry_kidx (g : Group) (e : Nat) (f : Entry → Entry) : (g.modEntry e f).kidx = g.kidx := rfl
@[simp] theorem modEntry_ver (g : Group) (e : Nat) (f : Entry → Entry) : (g.modEntry e f).ver = g.ver := rfl
@[simp] theorem modEntry_legacy (g : Group) (e : Nat) (f : Entry → Entry) : (g.modEntry e f).legacy = g.legacy := rfl
@[simp] theorem modEntry_stage (g : Group) (e : Nat) (f : Entry → Entry) : (g.modEntry e f).stage = g.stage := rfl
@[simp] theorem modEntry_phase (g : Group) (e : Nat) (f : Entry → Entry) : (g.modEntry e f).phase = g.phase := rfl
@[simp] theorem modEntry_pending (g : Group) (e : Nat) (f : Entry → Entry) : (g.modEntry e f).pending = g.pending := rfl
@[simp] theorem modEntry_moves (g : Group) (e : Nat) (f : Entry → Entry) : (g.modEntry e f).moves = g.moves := rfl
@[simp] theorem modEntry_stopped (g : Group) (e : Nat) (f : Entry → Entry) : (g.modEntry e f).stopped = g.stopped := rfl
@[simp] theorem modEntry_events (g : Group) (e : Nat) (f : Entry → Entry) : (g.modEntry e f).events = g.events := rfl
@[simp] theorem modEntry_v (g : Group) (e : Nat) (f : Entry → Entry) : (g.modEntry e f).v = g.v := rfl
@[simp] theorem modEntry_sr (g : Group) (e : Nat) (f : Entry → Entry) : (g.modEntry e f).sr = g.sr := rfl
@[simp] theorem modEntry_mr (g : Group) (e : Nat) (f : Entry → Entry) : (g.modEntry e f).mr = g.mr := rfl
@[simp] theorem modEntry_tr (g : Group) (e : Nat) (f : Entry → Entry) : (g.modEntry e f).tr = g.tr := rfl
@[simp] theorem modEntry_ld (g : Group) (e : Nat) (f : Entry → Entry) : (g.modEntry e f).ld = g.ld := rfl
@[simp] theorem modEntry_st (g : Group) (e : Nat) (f : Entry → Entry) : (g.modEntry e f).st = g.st := rfl
@[simp] theorem modEntry_cp (g : Group) (e : Nat) (f : Entry → Entry) : (g.modEntry e f).cp = g.cp := rfl
@[simp] theorem modEntry_mx (g : Group) (e : Nat) (f : Entry → Entry) : (g.modEntry e f).mx = g.mx := rfl
@[simp] theorem modEntry_frecp (g : Group) (e : Nat) (f : Entry → Entry) : (g.modEntry e f).frecp = g.frecp := rfl
@[simp] theorem modEntry_trappc (g : Group) (e : Nat) (f : Entry → Entry) : (g.modEntry e f).trappc = g.trappc := rfl
@[simp] theorem modEntry_trapcode (g : Group) (e : Nat) (f : Entry → Entry) : (g.modEntry e f).trapcode = g.trapcode := rfl
@[simp] theorem modEntry_traparg (g : Group) (e : Nat) (f : Entry → Entry) : (g.modEntry e f).traparg = g.traparg := rfl
@[simp] theorem modEntry_hLanes (g : Group) (e : Nat) (f : Entry → Entry) : (g.modEntry e f).hLanes = g.hLanes := rfl
@[simp] theorem modEntry_hEntry (g : Group) (e : Nat) (f : Entry → Entry) : (g.modEntry e f).hEntry = g.hEntry := rfl
@[simp] theorem modEntry_hRedo (g : Group) (e : Nat) (f : Entry → Entry) : (g.modEntry e f).hRedo = g.hRedo := rfl
@[simp] theorem modEntry_rstack (g : Group) (e : Nat) (f : Entry → Entry) : (g.modEntry e f).rstack = g.rstack := rfl
@[simp] theorem modEntry_task (g : Group) (e : Nat) (f : Entry → Entry) : (g.modEntry e f).task = g.task := rfl
@[simp] theorem modEntry_mmas (g : Group) (e : Nat) (f : Entry → Entry) : (g.modEntry e f).mmas = g.mmas := rfl
@[simp] theorem modEntry_late (g : Group) (e : Nat) (f : Entry → Entry) : (g.modEntry e f).late = g.late := rfl
@[simp] theorem modEntry_left (g : Group) (e : Nat) (f : Entry → Entry) : (g.modEntry e f).left = g.left := rfl
@[simp] theorem modEntry_softErr (g : Group) (e : Nat) (f : Entry → Entry) : (g.modEntry e f).softErr = g.softErr := rfl
@[simp] theorem modEntry_image (g : Group) (e : Nat) (f : Entry → Entry) : (g.modEntry e f).image = g.image := rfl

/-! ## `Group.setV` -/

@[simp] theorem setV_id (g : Group) (r : Nat) (m : Word) (f : Nat → Word) : (g.setV r m f).id = g.id := by unfold Group.setV; split <;> rfl
@[simp] theorem setV_ctx (g : Group) (r : Nat) (m : Word) (f : Nat → Word) : (g.setV r m f).ctx = g.ctx := by unfold Group.setV; split <;> rfl
@[simp] theorem setV_region (g : Group) (r : Nat) (m : Word) (f : Nat → Word) : (g.setV r m f).region = g.region := by unfold Group.setV; split <;> rfl
@[simp] theorem setV_wg (g : Group) (r : Nat) (m : Word) (f : Nat → Word) : (g.setV r m f).wg = g.wg := by unfold Group.setV; split <;> rfl
@[simp] theorem setV_gid (g : Group) (r : Nat) (m : Word) (f : Nat → Word) : (g.setV r m f).gid = g.gid := by unfold Group.setV; split <;> rfl
@[simp] theorem setV_core (g : Group) (r : Nat) (m : Word) (f : Nat → Word) : (g.setV r m f).core = g.core := by unfold Group.setV; split <;> rfl
@[simp] theorem setV_slot (g : Group) (r : Nat) (m : Word) (f : Nat → Word) : (g.setV r m f).slot = g.slot := by unfold Group.setV; split <;> rfl
@[simp] theorem setV_pos (g : Group) (r : Nat) (m : Word) (f : Nat → Word) : (g.setV r m f).pos = g.pos := by unfold Group.setV; split <;> rfl
@[simp] theorem setV_age (g : Group) (r : Nat) (m : Word) (f : Nat → Word) : (g.setV r m f).age = g.age := by unfold Group.setV; split <;> rfl
@[simp] theorem setV_obj (g : Group) (r : Nat) (m : Word) (f : Nat → Word) : (g.setV r m f).obj = g.obj := by unfold Group.setV; split <;> rfl
@[simp] theorem setV_kidx (g : Group) (r : Nat) (m : Word) (f : Nat → Word) : (g.setV r m f).kidx = g.kidx := by unfold Group.setV; split <;> rfl
@[simp] theorem setV_ver (g : Group) (r : Nat) (m : Word) (f : Nat → Word) : (g.setV r m f).ver = g.ver := by unfold Group.setV; split <;> rfl
@[simp] theorem setV_legacy (g : Group) (r : Nat) (m : Word) (f : Nat → Word) : (g.setV r m f).legacy = g.legacy := by unfold Group.setV; split <;> rfl
@[simp] theorem setV_stage (g : Group) (r : Nat) (m : Word) (f : Nat → Word) : (g.setV r m f).stage = g.stage := by unfold Group.setV; split <;> rfl
@[simp] theorem setV_phase (g : Group) (r : Nat) (m : Word) (f : Nat → Word) : (g.setV r m f).phase = g.phase := by unfold Group.setV; split <;> rfl
@[simp] theorem setV_pending (g : Group) (r : Nat) (m : Word) (f : Nat → Word) : (g.setV r m f).pending = g.pending := by unfold Group.setV; split <;> rfl
@[simp] theorem setV_moves (g : Group) (r : Nat) (m : Word) (f : Nat → Word) : (g.setV r m f).moves = g.moves := by unfold Group.setV; split <;> rfl
@[simp] theorem setV_stopped (g : Group) (r : Nat) (m : Word) (f : Nat → Word) : (g.setV r m f).stopped = g.stopped := by unfold Group.setV; split <;> rfl
@[simp] theorem setV_entries (g : Group) (r : Nat) (m : Word) (f : Nat → Word) : (g.setV r m f).entries = g.entries := by unfold Group.setV; split <;> rfl
@[simp] theorem setV_events (g : Group) (r : Nat) (m : Word) (f : Nat → Word) : (g.setV r m f).events = g.events := by unfold Group.setV; split <;> rfl
@[simp] theorem setV_sr (g : Group) (r : Nat) (m : Word) (f : Nat → Word) : (g.setV r m f).sr = g.sr := by unfold Group.setV; split <;> rfl
@[simp] theorem setV_mr (g : Group) (r : Nat) (m : Word) (f : Nat → Word) : (g.setV r m f).mr = g.mr := by unfold Group.setV; split <;> rfl
@[simp] theorem setV_tr (g : Group) (r : Nat) (m : Word) (f : Nat → Word) : (g.setV r m f).tr = g.tr := by unfold Group.setV; split <;> rfl
@[simp] theorem setV_ld (g : Group) (r : Nat) (m : Word) (f : Nat → Word) : (g.setV r m f).ld = g.ld := by unfold Group.setV; split <;> rfl
@[simp] theorem setV_st (g : Group) (r : Nat) (m : Word) (f : Nat → Word) : (g.setV r m f).st = g.st := by unfold Group.setV; split <;> rfl
@[simp] theorem setV_cp (g : Group) (r : Nat) (m : Word) (f : Nat → Word) : (g.setV r m f).cp = g.cp := by unfold Group.setV; split <;> rfl
@[simp] theorem setV_mx (g : Group) (r : Nat) (m : Word) (f : Nat → Word) : (g.setV r m f).mx = g.mx := by unfold Group.setV; split <;> rfl
@[simp] theorem setV_frecp (g : Group) (r : Nat) (m : Word) (f : Nat → Word) : (g.setV r m f).frecp = g.frecp := by unfold Group.setV; split <;> rfl
@[simp] theorem setV_trappc (g : Group) (r : Nat) (m : Word) (f : Nat → Word) : (g.setV r m f).trappc = g.trappc := by unfold Group.setV; split <;> rfl
@[simp] theorem setV_trapcode (g : Group) (r : Nat) (m : Word) (f : Nat → Word) : (g.setV r m f).trapcode = g.trapcode := by unfold Group.setV; split <;> rfl
@[simp] theorem setV_traparg (g : Group) (r : Nat) (m : Word) (f : Nat → Word) : (g.setV r m f).traparg = g.traparg := by unfold Group.setV; split <;> rfl
@[simp] theorem setV_hLanes (g : Group) (r : Nat) (m : Word) (f : Nat → Word) : (g.setV r m f).hLanes = g.hLanes := by unfold Group.setV; split <;> rfl
@[simp] theorem setV_hEntry (g : Group) (r : Nat) (m : Word) (f : Nat → Word) : (g.setV r m f).hEntry = g.hEntry := by unfold Group.setV; split <;> rfl
@[simp] theorem setV_hRedo (g : Group) (r : Nat) (m : Word) (f : Nat → Word) : (g.setV r m f).hRedo = g.hRedo := by unfold Group.setV; split <;> rfl
@[simp] theorem setV_rstack (g : Group) (r : Nat) (m : Word) (f : Nat → Word) : (g.setV r m f).rstack = g.rstack := by unfold Group.setV; split <;> rfl
@[simp] theorem setV_task (g : Group) (r : Nat) (m : Word) (f : Nat → Word) : (g.setV r m f).task = g.task := by unfold Group.setV; split <;> rfl
@[simp] theorem setV_mmas (g : Group) (r : Nat) (m : Word) (f : Nat → Word) : (g.setV r m f).mmas = g.mmas := by unfold Group.setV; split <;> rfl
@[simp] theorem setV_late (g : Group) (r : Nat) (m : Word) (f : Nat → Word) : (g.setV r m f).late = g.late := by unfold Group.setV; split <;> rfl
@[simp] theorem setV_left (g : Group) (r : Nat) (m : Word) (f : Nat → Word) : (g.setV r m f).left = g.left := by unfold Group.setV; split <;> rfl
@[simp] theorem setV_softErr (g : Group) (r : Nat) (m : Word) (f : Nat → Word) : (g.setV r m f).softErr = g.softErr := by unfold Group.setV; split <;> rfl
@[simp] theorem setV_image (g : Group) (r : Nat) (m : Word) (f : Nat → Word) : (g.setV r m f).image = g.image := by unfold Group.setV; split <;> rfl

/-! ## `Group.setM` -/

@[simp] theorem setM_id (g : Group) (r : Nat) (m x : Word) : (g.setM r m x).id = g.id := by unfold Group.setM; split <;> (dsimp only; split <;> rfl)
@[simp] theorem setM_ctx (g : Group) (r : Nat) (m x : Word) : (g.setM r m x).ctx = g.ctx := by unfold Group.setM; split <;> (dsimp only; split <;> rfl)
@[simp] theorem setM_region (g : Group) (r : Nat) (m x : Word) : (g.setM r m x).region = g.region := by unfold Group.setM; split <;> (dsimp only; split <;> rfl)
@[simp] theorem setM_wg (g : Group) (r : Nat) (m x : Word) : (g.setM r m x).wg = g.wg := by unfold Group.setM; split <;> (dsimp only; split <;> rfl)
@[simp] theorem setM_gid (g : Group) (r : Nat) (m x : Word) : (g.setM r m x).gid = g.gid := by unfold Group.setM; split <;> (dsimp only; split <;> rfl)
@[simp] theorem setM_core (g : Group) (r : Nat) (m x : Word) : (g.setM r m x).core = g.core := by unfold Group.setM; split <;> (dsimp only; split <;> rfl)
@[simp] theorem setM_slot (g : Group) (r : Nat) (m x : Word) : (g.setM r m x).slot = g.slot := by unfold Group.setM; split <;> (dsimp only; split <;> rfl)
@[simp] theorem setM_pos (g : Group) (r : Nat) (m x : Word) : (g.setM r m x).pos = g.pos := by unfold Group.setM; split <;> (dsimp only; split <;> rfl)
@[simp] theorem setM_age (g : Group) (r : Nat) (m x : Word) : (g.setM r m x).age = g.age := by unfold Group.setM; split <;> (dsimp only; split <;> rfl)
@[simp] theorem setM_obj (g : Group) (r : Nat) (m x : Word) : (g.setM r m x).obj = g.obj := by unfold Group.setM; split <;> (dsimp only; split <;> rfl)
@[simp] theorem setM_kidx (g : Group) (r : Nat) (m x : Word) : (g.setM r m x).kidx = g.kidx := by unfold Group.setM; split <;> (dsimp only; split <;> rfl)
@[simp] theorem setM_ver (g : Group) (r : Nat) (m x : Word) : (g.setM r m x).ver = g.ver := by unfold Group.setM; split <;> (dsimp only; split <;> rfl)
@[simp] theorem setM_legacy (g : Group) (r : Nat) (m x : Word) : (g.setM r m x).legacy = g.legacy := by unfold Group.setM; split <;> (dsimp only; split <;> rfl)
@[simp] theorem setM_stage (g : Group) (r : Nat) (m x : Word) : (g.setM r m x).stage = g.stage := by unfold Group.setM; split <;> (dsimp only; split <;> rfl)
@[simp] theorem setM_phase (g : Group) (r : Nat) (m x : Word) : (g.setM r m x).phase = g.phase := by unfold Group.setM; split <;> (dsimp only; split <;> rfl)
@[simp] theorem setM_pending (g : Group) (r : Nat) (m x : Word) : (g.setM r m x).pending = g.pending := by unfold Group.setM; split <;> (dsimp only; split <;> rfl)
@[simp] theorem setM_moves (g : Group) (r : Nat) (m x : Word) : (g.setM r m x).moves = g.moves := by unfold Group.setM; split <;> (dsimp only; split <;> rfl)
@[simp] theorem setM_stopped (g : Group) (r : Nat) (m x : Word) : (g.setM r m x).stopped = g.stopped := by unfold Group.setM; split <;> (dsimp only; split <;> rfl)
@[simp] theorem setM_entries (g : Group) (r : Nat) (m x : Word) : (g.setM r m x).entries = g.entries := by unfold Group.setM; split <;> (dsimp only; split <;> rfl)
@[simp] theorem setM_events (g : Group) (r : Nat) (m x : Word) : (g.setM r m x).events = g.events := by unfold Group.setM; split <;> (dsimp only; split <;> rfl)
@[simp] theorem setM_v (g : Group) (r : Nat) (m x : Word) : (g.setM r m x).v = g.v := by unfold Group.setM; split <;> (dsimp only; split <;> rfl)
@[simp] theorem setM_sr (g : Group) (r : Nat) (m x : Word) : (g.setM r m x).sr = g.sr := by unfold Group.setM; split <;> (dsimp only; split <;> rfl)
@[simp] theorem setM_tr (g : Group) (r : Nat) (m x : Word) : (g.setM r m x).tr = g.tr := by unfold Group.setM; split <;> (dsimp only; split <;> rfl)
@[simp] theorem setM_ld (g : Group) (r : Nat) (m x : Word) : (g.setM r m x).ld = g.ld := by unfold Group.setM; split <;> (dsimp only; split <;> rfl)
@[simp] theorem setM_st (g : Group) (r : Nat) (m x : Word) : (g.setM r m x).st = g.st := by unfold Group.setM; split <;> (dsimp only; split <;> rfl)
@[simp] theorem setM_cp (g : Group) (r : Nat) (m x : Word) : (g.setM r m x).cp = g.cp := by unfold Group.setM; split <;> (dsimp only; split <;> rfl)
@[simp] theorem setM_mx (g : Group) (r : Nat) (m x : Word) : (g.setM r m x).mx = g.mx := by unfold Group.setM; split <;> (dsimp only; split <;> rfl)
@[simp] theorem setM_frecp (g : Group) (r : Nat) (m x : Word) : (g.setM r m x).frecp = g.frecp := by unfold Group.setM; split <;> (dsimp only; split <;> rfl)
@[simp] theorem setM_trappc (g : Group) (r : Nat) (m x : Word) : (g.setM r m x).trappc = g.trappc := by unfold Group.setM; split <;> (dsimp only; split <;> rfl)
@[simp] theorem setM_trapcode (g : Group) (r : Nat) (m x : Word) : (g.setM r m x).trapcode = g.trapcode := by unfold Group.setM; split <;> (dsimp only; split <;> rfl)
@[simp] theorem setM_traparg (g : Group) (r : Nat) (m x : Word) : (g.setM r m x).traparg = g.traparg := by unfold Group.setM; split <;> (dsimp only; split <;> rfl)
@[simp] theorem setM_hLanes (g : Group) (r : Nat) (m x : Word) : (g.setM r m x).hLanes = g.hLanes := by unfold Group.setM; split <;> (dsimp only; split <;> rfl)
@[simp] theorem setM_hEntry (g : Group) (r : Nat) (m x : Word) : (g.setM r m x).hEntry = g.hEntry := by unfold Group.setM; split <;> (dsimp only; split <;> rfl)
@[simp] theorem setM_hRedo (g : Group) (r : Nat) (m x : Word) : (g.setM r m x).hRedo = g.hRedo := by unfold Group.setM; split <;> (dsimp only; split <;> rfl)
@[simp] theorem setM_rstack (g : Group) (r : Nat) (m x : Word) : (g.setM r m x).rstack = g.rstack := by unfold Group.setM; split <;> (dsimp only; split <;> rfl)
@[simp] theorem setM_task (g : Group) (r : Nat) (m x : Word) : (g.setM r m x).task = g.task := by unfold Group.setM; split <;> (dsimp only; split <;> rfl)
@[simp] theorem setM_mmas (g : Group) (r : Nat) (m x : Word) : (g.setM r m x).mmas = g.mmas := by unfold Group.setM; split <;> (dsimp only; split <;> rfl)
@[simp] theorem setM_late (g : Group) (r : Nat) (m x : Word) : (g.setM r m x).late = g.late := by unfold Group.setM; split <;> (dsimp only; split <;> rfl)
@[simp] theorem setM_left (g : Group) (r : Nat) (m x : Word) : (g.setM r m x).left = g.left := by unfold Group.setM; split <;> (dsimp only; split <;> rfl)
@[simp] theorem setM_softErr (g : Group) (r : Nat) (m x : Word) : (g.setM r m x).softErr = g.softErr := by unfold Group.setM; split <;> (dsimp only; split <;> rfl)
@[simp] theorem setM_image (g : Group) (r : Nat) (m x : Word) : (g.setM r m x).image = g.image := by unfold Group.setM; split <;> (dsimp only; split <;> rfl)

/-! ## What is read after a write -/

@[simp] theorem getS_setS (g : Group) (r q : Nat) (x : Word) :
    (g.setS r x).getS q = if r = q ∧ r < 64 then x else g.getS q := by
  unfold Group.getS Group.setS
  simp only [Vector.getElem?_setIfInBounds]
  by_cases h : r = q
  · subst h
    simp only [if_true, true_and]
    split <;> simp_all
  · simp [h]
@[simp] theorem getT_setT (g : Group) (r q : Nat) (x : BitVec 512) :
    (g.setT r x).getT q = if r = q ∧ r < 16 then x else g.getT q := by
  unfold Group.getT Group.setT
  simp only [Vector.getElem?_setIfInBounds]
  by_cases h : r = q
  · subst h
    simp only [if_true, true_and]
    split <;> simp_all
  · simp [h]
@[simp] theorem entry_setEntry (g : Group) (e q : Nat) (x : Entry) :
    (g.setEntry e x).entry q = if e = q ∧ e < 72 then x else g.entry q := by
  unfold Group.entry Group.setEntry
  simp only [Vector.getElem?_setIfInBounds]
  by_cases h : e = q
  · subst h
    simp only [if_true, true_and]
    split <;> simp_all
  · simp [h]
theorem getV_setV (g : Group) (r q l : Nat) (m : Word) (f : Nat → Word) (hl : l < 32) :
    (g.setV r m f).getV q l = if r = q ∧ r < 128 ∧ laneIn m l then f l else g.getV q l := by
  unfold Group.getV Group.setV
  by_cases hr : r < 128
  · simp only [Vector.getElem?_eq_getElem hr, Vector.getElem?_setIfInBounds, hr, true_and, if_true]
    by_cases h : r = q
    · subst h
      simp only [if_true, true_and, Option.bind_some]
      rw [Vector.getElem?_eq_getElem hl]
      simp only [Vector.getElem_ofFn, Option.getD_some, Vector.getElem?_eq_getElem hr, Option.bind_some, Vector.getElem?_eq_getElem hl]
      rfl
    · simp [h]
  · simp [hr]

/-! ## Groups by name -/

/-- A changed group is found under its name, and every other as before. -/
theorem group?_modGroup (s : State) (g h : Nat) (f : Group → Group) (hf : ∀ x, (f x).id = x.id) :
    (s.modGroup g f).group? h = (s.group? h).map fun x => if x.id == g then f x else x := by
  unfold State.group? State.modGroup
  induction s.groups with
  | nil => rfl
  | cons x xs ih =>
    simp only [List.map_cons, List.find?_cons]
    have : (if x.id == g then f x else x).id = x.id := by split <;> simp [hf]
    rw [this]
    cases x.id == h
    · exact ih
    · rfl
/-- The name of a found group. -/
theorem group?_id {s : State} {g : Nat} {x : Group} (h : s.group? g = some x) : x.id = g := by
  simpa using List.find?_some h

/-- Two changes of one group are one. -/
theorem modGroup_modGroup (s : State) (g : Nat) (f h : Group → Group) (hf : ∀ x, (f x).id = x.id) :
    (s.modGroup g f).modGroup g h = s.modGroup g fun x => h (f x) := by
  unfold State.modGroup
  simp only [List.map_map]
  congr 1
  apply List.map_congr_left
  intro x _
  simp only [Function.comp]
  cases hx : x.id == g
  · simp [hx]
  · simp [hf, hx]

/-! ## Entries in use -/

/-- A change of an entry that keeps its STATE keeps which entries are in use. -/
theorem st_modEntry (g : Group) (e i : Nat) (f : Entry → Entry) (h : (f (g.entry e)).st = (g.entry e).st) :
    ((g.modEntry e f).entry i).st = (g.entry i).st := by
  unfold Group.modEntry
  rw [entry_setEntry]
  split
  · rename_i k
    rw [h, k.1]
  · rfl
theorem used_modEntry (g : Group) (e : Nat) (f : Entry → Entry) (h : (f (g.entry e)).st = (g.entry e).st) :
    (g.modEntry e f).used = g.used := by
  unfold Group.used
  simp only [st_modEntry g e _ f h]
theorem freeId_modEntry (g : Group) (e : Nat) (f : Entry → Entry) (h : (f (g.entry e)).st = (g.entry e).st) :
    (g.modEntry e f).freeId = g.freeId := by
  unfold Group.freeId
  simp only [st_modEntry g e _ f h]
/-- No more than 72 entries are in use. -/
theorem used_le (g : Group) : g.used ≤ 72 := List.length_filter_le _ entryIds
/-- A group has a free entry exactly while it uses fewer than 72. -/
theorem freeId_none (g : Group) : g.freeId = none ↔ 72 < g.used + 1 := by
  have hl : entryIds.length = 72 := rfl
  unfold Group.freeId Group.used
  rw [List.find?_eq_none]
  constructor
  · intro h
    have : entryIds.filter (fun e => (g.entry e).st != .free) = entryIds := List.filter_eq_self.mpr fun e he => by
      have := h e he
      simpa using this
    rw [this, hl]
    decide
  · intro h e he hf
    have h1 : (entryIds.filter fun e => (g.entry e).st != .free).length < entryIds.length := by
      refine List.length_filter_lt_length_iff_exists.mpr ⟨e, he, ?_⟩
      simpa using hf
    omega

end Sys2Proof.Laws
end

