-- ==== Sys2Proof/Laws/Issue.lean ====
section
/-! SUPPORT. What `issue` and `deviceStep` can do, said once: the spec lemmas that the statements about units and about
device steps rest on. -/
namespace Sys2Proof.Laws
open Sys2Proof.Machine Sys2Proof.Safety

/-- A step that posts nothing beyond the on-die queue happens (R44). -/
theorem unlessHeld_of_le {a b : State} (h : b.jqueue.length ≤ max 4096 a.jqueue.length) : a.unlessHeld b = b := if_pos h

/-- A step that leaves the on-die queue as it was happens. -/
theorem unlessHeld_of_eq {a b : State} (h : b.jqueue = a.jqueue) : a.unlessHeld b = b :=
  unlessHeld_of_le (by rw [h]; exact Nat.le_max_right _ _)

/-- A step of the device with room in the on-die queue is its effect and what settles. -/
theorem deviceStep_of_room {s : State} {f : State → State} (h : (f s).settle.jqueue.length ≤ max 4096 s.jqueue.length) :
    deviceStep s f = .next (f s).settle := by
  rw [deviceStep, unlessHeld_of_le h]

/-- A step of the device in the terms of the statements: `t` is what its function makes of the state. -/
theorem steps_of {i : Instr} {s t : State} {f : State → State} (x : Host.Outcome State Fault Refusal) (hx : exec i s = x)
    (hd : x = deviceStep s f) (hf : f s = t) : Steps i s t := by
  subst hf hd
  intro hq
  rw [hx, deviceStep_of_room hq]

/-- Whichever state the gate of R44 answers, the on-die queue holds no more than its 4,096 records. -/
theorem unlessHeld_queue {a b : State} (h : QueueOk a) : QueueOk (a.unlessHeld b) := by
  unfold State.unlessHeld QueueOk at *
  split <;> omega

/-- Every answer of a device step keeps the bound of the on-die queue. -/
theorem deviceStep_queue {s t : State} {f : State → State} (hs : QueueOk s) (h : deviceStep s f = .next t) : QueueOk t := by
  cases h
  exact unlessHeld_queue hs

/-- Every answer of a unit keeps the bound of the on-die queue. -/
theorem issue_queue {s t : State} {i : Instr} {body : Frag → State → Res} (hs : QueueOk s) (h : issue i s body = .next t) :
    QueueOk t := by
  unfold issue at h
  split at h
  · cases h
  · cases h
    exact unlessHeld_queue (a := { s with issued := false }) hs

/-- A unit that nothing delays is what its meaning answers. -/
theorem issue_clear {s : State} {i : Instr} {g : Group} {e : Nat} {p : Parts} (h : Clear s i g e p) (body : Frag → State → Res) :
    issue i s body = .next (({ s with issued := false } : State).unlessHeld
      (match body (frag g e p) (past s g e p) with
       | .trap t s1 held => State.trapped g.id e (g.entry e) t s1 held
       | r => ({ s with issued := false } : State).afterUnit p g e { mmas := [], regs := [] } r)) := by
  obtain ⟨hc, hg, hf, hp, hl, h1, h2, h3, hr, h4, h6, h5⟩ := h
  have hi : s.issuing = some (g, e) := by simp [State.issuing, hc, hg, hf]
  have h1' : g.late.find? (fun f => (f.lanes g.live &&& (g.entry e).mask) != 0) = none := by
    rw [List.find?_eq_none]; simpa using h1
  have hb : ({ s with issued := false } : State).boundary g e = none := by simp only [State.boundary, h1', h2, Bool.false_eq_true, if_false]
  have hg' : ({ s with issued := false } : State).group? g.id = some g := hg
  have h3' : ({ s with issued := false } : State).unitHeld g e p = false := h3
  have h5' : (p.mods.stop && ({ s with issued := false } : State).stopMatters g e) = false := h5
  have hu : g.unitCheck e p = none := by simp only [Group.unitCheck, hl]
  have hw : ({ s with issued := false } : State).checkWaits g p = false := by
    unfold State.checkWaits; rw [hl]; split <;> simp
  unfold issue
  rw [hi]
  unfold past
  generalize ({ s with issued := false } : State) = z at hb hg' h3' h5' hw ⊢
  simp only [State.atUnit, hb, State.checked, hp, hw, hu, State.legalUnit, Bool.false_eq_true, if_false]
  simp only [h4, h6, hr, h3', h5', List.isEmpty_nil, Bool.not_true, Bool.false_and, Bool.false_eq_true, if_false, State.runUnit, hg',
    Touch.none, Bool.and_self, if_true, State.atBegin, frag, nextPc, Option.getD_some]
  all_goals congr 2

/-- A unit that completes without posting. -/
theorem issue_ok {s s1 : State} {i : Instr} {g : Group} {e : Nat} {p : Parts} (h : Clear s i g e p) {body : Frag → State → Res}
    (hb : body (frag g e p) (past s g e p) = .ok s1) (hq : s1.jqueue = s.jqueue) :
    issue i s body = .next { s1 with issued := true } := by
  rw [issue_clear h, hb]
  exact congrArg _ (unlessHeld_of_eq (a := { s with issued := false }) (b := { s1 with issued := true }) hq)

/-- A unit whose whole effect is on its group. -/
theorem issue_group {s : State} {i : Instr} {g : Group} {e : Nat} {p : Parts} (h : Clear s i g e p) {body : Frag → State → Res}
    {upd : Group → Group} (hb : body (frag g e p) (past s g e p) = .ok ((past s g e p).modGroup g.id upd)) :
    issue i s body = .next (retired s g e p upd) := issue_ok h hb rfl

/-- A unit after which records post and ends settle. -/
theorem issue_post {s s1 : State} {i : Instr} {g : Group} {e : Nat} {p : Parts} (h : Clear s i g e p) {body : Frag → State → Res}
    (hb : body (frag g e p) (past s g e p) = .post s1) (hq : s1.finish.jqueue.length ≤ max 4096 s.jqueue.length) :
    issue i s body = .next s1.finish := by
  rw [issue_clear h, hb]
  exact congrArg _ (unlessHeld_of_le (a := { s with issued := false }) (b := s1.finish) hq)

/-- A unit that waits changes nothing. -/
theorem issue_hold {s : State} {i : Instr} {g : Group} {e : Nat} {p : Parts} (h : Clear s i g e p) {body : Frag → State → Res}
    (hb : body (frag g e p) (past s g e p) = .hold false) : issue i s body = .next { s with issued := false } := by
  rw [issue_clear h, hb]
  exact congrArg _ (unlessHeld_of_eq (a := { s with issued := false }) (b := { s with issued := false }) rfl)

/-- A unit that traps. -/
theorem issue_trap {s s1 held : State} {i : Instr} {g : Group} {e : Nat} {p : Parts} {t : Trap} (h : Clear s i g e p)
    {body : Frag → State → Res} (hb : body (frag g e p) (past s g e p) = .trap t s1 held)
    (hq : (State.trapped g.id e (g.entry e) t s1 held).jqueue.length ≤ max 4096 s.jqueue.length) :
    issue i s body = .next (State.trapped g.id e (g.entry e) t s1 held) := by
  rw [issue_clear h, hb]
  exact congrArg _ (unlessHeld_of_le (a := { s with issued := false }) hq)

/-- An entry whose fragment has moved past its unit. -/
def movedOn (next : Word) (y : Entry) : Entry :=
  { y with pc := next, redo := none, seenB := false, seenT := false, seenO := false, exempt := y.exempt - 1, clash := if y.inH then y.clash else none }

/-- The group after its fragment has moved past its unit. -/
theorem past_group {s : State} {i : Instr} {g : Group} {e : Nat} {p : Parts} (h : Clear s i g e p) :
    (past s g e p).group? g.id = some (g.modEntry e (movedOn (nextPc g e p))) := by
  have hg : ({ s with issued := false } : State).group? g.id = some g := h.group
  have hm := group?_modGroup { s with issued := false } g.id g.id (fun x => x.modEntry e (movedOn (nextPc g e p))) fun _ => rfl
  rw [hg] at hm
  simp only [Option.map_some, beq_self_eq_true, if_true] at hm
  exact hm
theorem past_used (g : Group) (e : Nat) (n : Word) : (g.modEntry e (movedOn n)).used = g.used := used_modEntry _ _ _ rfl
theorem past_freeId (g : Group) (e : Nat) (n : Word) : (g.modEntry e (movedOn n)).freeId = g.freeId := freeId_modEntry _ _ _ rfl

end Sys2Proof.Laws
end

