-- ==== Sys2Proof/Laws/Word.lean ====
section
/-! SUPPORT. The integer functions of the model in the terms of bit vectors: signed values, narrowing, shifts, logic,
comparisons, pairs. -/
namespace Sys2Proof.Laws
open Sys2Proof.Machine Sys2Proof.Safety

/-- The signed value of a bit vector's number. -/
theorem toSigned_toNat {w : Nat} (hw : 0 < w) (x : BitVec w) : toSigned w x.toNat = x.toInt := by
  have h := x.isLt
  have e : (2 : Nat) ^ w = 2 * 2 ^ (w - 1) := by rw [← Nat.pow_succ']; congr 1; omega
  unfold toSigned
  rw [BitVec.toInt_eq_toNat_cond]
  simp only [Nat.mod_eq_of_lt h]
  split <;> split <;> omega

/-- A signed value modulo a power of two is the bit vector of that integer. -/
theorem ofNat_emod (w : Nat) (z : Int) : BitVec.ofNat w (z % (2 ^ w : Nat)).toNat = BitVec.ofInt w z := by
  apply BitVec.eq_of_toNat_eq
  have h1 : 0 ≤ z % ((2 ^ w : Nat) : Int) := Int.emod_nonneg _ (by positivity)
  have h2 : z % ((2 ^ w : Nat) : Int) < (2 ^ w : Nat) := Int.emod_lt_of_pos _ (by positivity)
  rw [BitVec.toNat_ofNat, BitVec.toNat_ofInt, Nat.mod_eq_of_lt (by omega)]

/-- A sign extension of a bit vector's number. -/
theorem sext_toNat {n : Nat} (hn : 0 < n) (w : Nat) (x : BitVec n) : sext n w x.toNat = x.signExtend w := by
  unfold sext
  rw [toSigned_toNat hn]
  rfl

/-- Narrowing by RND of an integer computed from signed or unsigned operands. -/
theorem narrow_rounded (w : Nat) (hw : 0 < w) (rnd : BitVec 3) (si ui : Int) :
    BitVec.ofNat w (narrow rnd.toNat w (if rnd.toNat == 2 then ui else si)) = rounded w rnd si ui := by
  have e : (2 : Nat) ^ w = 2 * 2 ^ (w - 1) := by rw [← Nat.pow_succ']; congr 1; omega
  have p1 : (0 : Int) < 2 ^ (w - 1) := by positivity
  have c1 : ((2 ^ (w - 1) : Nat) : Int) = 2 ^ (w - 1) := by push_cast; rfl
  have c2 : ((2 ^ w : Nat) : Int) = 2 ^ w := by push_cast; rfl
  unfold rounded
  by_cases h1 : rnd = 1
  · subst h1
    simp only [narrow, if_true, clampInt, intMin, intMax]
    rw [← ofNat_emod]
    simp [c1]
  · by_cases h2 : rnd = 2
    · subst h2
      simp only [narrow, clampInt, intMax]
      apply BitVec.eq_of_toNat_eq
      simp [BitVec.toNat_ofInt]
      have b0 : 0 ≤ max 0 (min ((2 : Int) ^ w - 1) ui) := le_max_left _ _
      have bl : max 0 (min ((2 : Int) ^ w - 1) ui) < 2 ^ w := by
        have : (0 : Int) < 2 ^ w := by positivity
        omega
      rw [Int.emod_eq_of_lt b0 bl, Nat.mod_eq_of_lt]
      have : ((max 0 (min ((2 : Int) ^ w - 1) ui)).toNat : Int) < ((2 ^ w : Nat) : Int) := by
        rw [Int.toNat_of_nonneg b0, c2]; exact bl
      exact_mod_cast this
    · have n1 : rnd.toNat ≠ 1 := fun h => h1 (BitVec.eq_of_toNat_eq h)
      have n2 : rnd.toNat ≠ 2 := fun h => h2 (BitVec.eq_of_toNat_eq h)
      simp only [h1, h2, if_false, beq_eq_false_iff_ne.mpr n2, Bool.false_eq_true]
      unfold narrow
      split
      · omega
      · omega
      · exact ofNat_emod w si

/-- The value of an operand under RND. -/
theorem intVal_toNat {w : Nat} (hw : 0 < w) (u : Bool) (x : BitVec w) :
    intVal u w x.toNat = if u then (x.toNat : Int) else x.toInt := by
  unfold intVal
  rw [toSigned_toNat hw, Nat.mod_eq_of_lt x.isLt]

/-- Sums (R131, R134). -/
theorem addBits_ofNat {w : Nat} (hw : 0 < w) (rnd : BitVec 3) (b c : BitVec w) :
    BitVec.ofNat w (addBits rnd.toNat w b.toNat c.toNat) = rounded w rnd (b.toInt + c.toInt) (b.toNat + c.toNat) := by
  rw [← narrow_rounded w hw, addBits, intVal_toNat hw, intVal_toNat hw]
  by_cases h : rnd.toNat == 2 <;> simp [h]

/-- Differences (R131, R134). -/
theorem subBits_ofNat {w : Nat} (hw : 0 < w) (rnd : BitVec 3) (b c : BitVec w) :
    BitVec.ofNat w (subBits rnd.toNat w b.toNat c.toNat) = rounded w rnd (b.toInt - c.toInt) ((b.toNat : Int) - c.toNat) := by
  rw [← narrow_rounded w hw, subBits, intVal_toNat hw, intVal_toNat hw]
  by_cases h : rnd.toNat == 2 <;> simp [h]

/-- Products (R131, R134). -/
theorem mulBits_ofNat {w : Nat} (hw : 0 < w) (rnd : BitVec 3) (b c : BitVec w) :
    BitVec.ofNat w (mulBits rnd.toNat w b.toNat c.toNat) = rounded w rnd (b.toInt * c.toInt) (b.toNat * c.toNat) := by
  rw [← narrow_rounded w hw, mulBits, intVal_toNat hw, intVal_toNat hw]
  by_cases h : rnd.toNat == 2 <;> simp [h]

/-- `imad` (R134). -/
theorem madBits_ofNat (rnd : BitVec 3) (b c e : Word) :
    BitVec.ofNat 32 (madBits rnd.toNat b.toNat c.toNat e.toNat) =
      rounded 32 rnd (b.toInt * c.toInt + e.toInt) (b.toNat * c.toNat + e.toNat) := by
  rw [← narrow_rounded 32 (by decide), madBits, intVal_toNat (by decide), intVal_toNat (by decide), intVal_toNat (by decide)]
  by_cases h : rnd.toNat == 2 <;> simp [h]

/-- The upper half of a product. -/
theorem mulhBits_ofNat (uns : Bool) (b c : Word) :
    BitVec.ofNat 32 (mulhBits uns b.toNat c.toNat) =
      hiWord (if uns then b.setWidth 64 * c.setWidth 64 else b.signExtend 64 * c.signExtend 64) := by
  have k : BitVec.ofNat 64 ((intVal uns 32 b.toNat * intVal uns 32 c.toNat) % (2 ^ 64 : Nat)).toNat =
      (if uns then b.setWidth 64 * c.setWidth 64 else b.signExtend 64 * c.signExtend 64) := by
    rw [ofNat_emod, intVal_toNat (by decide), intVal_toNat (by decide)]
    cases uns
    · simp only [Bool.false_eq_true, if_false, BitVec.ofInt_mul]
      rfl
    · simp only [if_true, BitVec.ofInt_mul]
      congr 1 <;> (apply BitVec.eq_of_toNat_eq; simp)
  rw [← k]
  apply BitVec.eq_of_toNat_eq
  have h : ((intVal uns 32 b.toNat * intVal uns 32 c.toNat) % ((2 ^ 64 : Nat) : Int)).toNat < 2 ^ 64 := by
    have h1 := Int.emod_nonneg (intVal uns 32 b.toNat * intVal uns 32 c.toNat) (by decide : ((2 ^ 64 : Nat) : Int) ≠ 0)
    have h2 := Int.emod_lt_of_pos (intVal uns 32 b.toNat * intVal uns 32 c.toNat) (by decide : (0 : Int) < ((2 ^ 64 : Nat) : Int))
    omega
  simp only [mulhBits, hiWord, BitVec.toNat_ofNat, BitVec.toNat_setWidth, BitVec.toNat_ushiftRight, Nat.shiftRight_eq_div_pow]
  rw [Nat.mod_eq_of_lt h]

/-- Left shifts. -/
theorem shlBits_ofNat {w : Nat} (b : BitVec w) (c : Nat) : BitVec.ofNat w (shlBits w b.toNat c) = b <<< c := by
  apply BitVec.eq_of_toNat_eq
  simp only [shlBits, BitVec.toNat_ofNat, BitVec.toNat_shiftLeft, Nat.shiftLeft_eq]
  split
  · rename_i h
    have : 2 ^ w ∣ b.toNat * 2 ^ c := Dvd.dvd.mul_left (Nat.pow_dvd_pow 2 h) _
    rw [Nat.zero_mod, Nat.mod_eq_zero_of_dvd this]
  · simp

/-- Logical right shifts. -/
theorem shrBits_ofNat {w : Nat} (b : BitVec w) (c : Nat) : BitVec.ofNat w (shrBits w b.toNat c) = b >>> c := by
  apply BitVec.eq_of_toNat_eq
  have h := b.isLt
  simp only [shrBits, BitVec.toNat_ofNat, BitVec.toNat_ushiftRight, Nat.shiftRight_eq_div_pow]
  split
  · rename_i g
    rw [Nat.zero_mod, Nat.div_eq_of_lt (lt_of_lt_of_le h (Nat.pow_le_pow_right (by decide) g))]
  · exact Nat.mod_eq_of_lt (lt_of_le_of_lt (Nat.div_le_self _ _) h)

/-- Arithmetic right shifts. -/
theorem sarBits_ofNat {w : Nat} (hw : 0 < w) (b : BitVec w) (c : Nat) : BitVec.ofNat w (sarBits w b.toNat c) = b.sshiftRight c := by
  have e : (2 : Nat) ^ w = 2 * 2 ^ (w - 1) := by rw [← Nat.pow_succ']; congr 1; omega
  unfold sarBits
  rw [ofNat_emod, toSigned_toNat hw]
  apply BitVec.eq_of_toInt_eq
  rw [BitVec.toInt_sshiftRight, BitVec.toInt_ofInt, Int.shiftRight_eq_div_pow]
  have bnd := BitVec.toInt_lt (x := b)
  have bnd2 := BitVec.le_toInt (x := b)
  have key : b.toInt / ((2 ^ min c w : Nat) : Int) = b.toInt / ((2 ^ c : Nat) : Int) := by
    rcases Nat.le_total c w with h | h
    · rw [Nat.min_eq_left h]
    · rw [Nat.min_eq_right h]
      have c1 : ((2 ^ (w - 1) : Nat) : Int) = 2 ^ (w - 1) := by push_cast; rfl
      have l1 : ((2 ^ w : Nat) : Int) ≤ ((2 ^ c : Nat) : Int) := by exact_mod_cast Nat.pow_le_pow_right (by decide) h
      have e1 : ((2 ^ w : Nat) : Int) = 2 * 2 ^ (w - 1) := by rw [e]; push_cast; ring
      rcases Int.lt_or_le b.toInt 0 with n | n
      · have p : (0 : Int) < ((2 ^ w : Nat) : Int) := by positivity
        have q : (0 : Int) < ((2 ^ c : Nat) : Int) := by positivity
        rw [Int.ediv_eq_neg_one_of_neg_of_le n (by omega), Int.ediv_eq_neg_one_of_neg_of_le n (by omega)]
      · rw [Int.ediv_eq_zero_of_lt n (by omega), Int.ediv_eq_zero_of_lt n (by omega)]
  rw [key]
  have hb : b.toInt / ((2 ^ c : Nat) : Int) < 2 ^ (w - 1) ∧ -(2 ^ (w - 1)) ≤ b.toInt / ((2 ^ c : Nat) : Int) := by
    have q : (0 : Int) < ((2 ^ c : Nat) : Int) := by positivity
    have q1 : (1 : Int) ≤ ((2 ^ c : Nat) : Int) := q
    constructor
    · rcases Int.lt_or_le b.toInt 0 with n | n
      · have := Int.ediv_neg_of_neg_of_pos n q
        have : (0 : Int) < 2 ^ (w - 1) := by positivity
        omega
      · exact lt_of_le_of_lt (Int.ediv_le_self _ n) bnd
    · rw [Int.le_ediv_iff_mul_le q]
      have : (0 : Int) < 2 ^ (w - 1) := by positivity
      nlinarith
  apply Int.bmod_eq_of_le
  · have : ((2 ^ w : Nat) : Int) / 2 = 2 ^ (w - 1) := by rw [e]; push_cast; omega
    omega
  · have : (((2 ^ w : Nat) : Int) + 1) / 2 = 2 ^ (w - 1) := by rw [e]; push_cast; omega
    omega

/-- Bitwise logic on words. -/
theorem land_ofNat {w : Nat} (b c : BitVec w) : BitVec.ofNat w (Nat.land b.toNat c.toNat) = b &&& c :=
  BitVec.eq_of_toNat_eq (by
    rw [BitVec.toNat_ofNat, BitVec.toNat_and]
    exact Nat.mod_eq_of_lt (lt_of_le_of_lt Nat.and_le_left b.isLt))
theorem lor_ofNat {w : Nat} (b c : BitVec w) : BitVec.ofNat w (Nat.lor b.toNat c.toNat) = b ||| c :=
  BitVec.eq_of_toNat_eq (by
    rw [BitVec.toNat_ofNat, BitVec.toNat_or]
    exact Nat.mod_eq_of_lt (Nat.or_lt_two_pow b.isLt c.isLt))
theorem xor_ofNat {w : Nat} (b c : BitVec w) : BitVec.ofNat w (Nat.xor b.toNat c.toNat) = b ^^^ c :=
  BitVec.eq_of_toNat_eq (by
    rw [BitVec.toNat_ofNat, BitVec.toNat_xor]
    exact Nat.mod_eq_of_lt (Nat.xor_lt_two_pow b.isLt c.isLt))

/-- A word from its own number. -/
theorem ofNat_toNat {w : Nat} (b : BitVec w) : BitVec.ofNat w b.toNat = b := by simp

/-- Minimum and maximum. -/
theorem minBits_ofNat (uns : Bool) (b c : Word) :
    BitVec.ofNat 32 (minBits uns b.toNat c.toNat) = if (if uns then c.ult b else c.slt b) then c else b := by
  unfold minBits
  rw [intVal_toNat (by decide), intVal_toNat (by decide)]
  cases uns <;> simp [BitVec.ult, BitVec.slt] <;> split <;> simp
theorem maxBits_ofNat (uns : Bool) (b c : Word) :
    BitVec.ofNat 32 (maxBits uns b.toNat c.toNat) = if (if uns then b.ult c else b.slt c) then c else b := by
  unfold maxBits
  rw [intVal_toNat (by decide), intVal_toNat (by decide)]
  cases uns <;> simp [BitVec.ult, BitVec.slt] <;> split <;> simp

/-- A relation of a COND code on bit vectors (Table 07-8). -/
theorem compareBits_toNat {w : Nat} (hw : 0 < w) (code : Nat) (signed : Bool) (b c : BitVec w) :
    compareBits code signed w b.toNat c.toNat = condOf code signed b c := by
  unfold compareBits condOf
  rw [toSigned_toNat hw, toSigned_toNat hw, Nat.mod_eq_of_lt b.isLt, Nat.mod_eq_of_lt c.isLt]
  unfold relation
  have n (x y : BitVec w) : (((x.toNat : Nat) : Int) == (y.toNat : Int)) = (x == y) := by
    rw [Bool.eq_iff_iff]; simp [BitVec.toNat_inj]
  have i (x y : BitVec w) : (x.toInt == y.toInt) = (x == y) := by
    rw [Bool.eq_iff_iff]; simp [BitVec.toInt_inj]
  cases signed <;> simp only [Bool.false_eq_true, if_false, if_true] <;>
    split <;> simp [BitVec.ult, BitVec.ule, BitVec.slt, BitVec.sle, n, i, bne]

/-- The words of a pair. -/
theorem pair_toNat (hi lo : Word) : (pairOf hi lo).toNat = lo.toNat + hi.toNat * 2 ^ 32 := by
  unfold pairOf
  rw [BitVec.toNat_append, ← Nat.shiftLeft_add_eq_or_of_lt lo.isLt, Nat.shiftLeft_eq, Nat.add_comm]
theorem loWord_ofNat (n : Nat) : BitVec.ofNat 32 n = loWord (BitVec.ofNat 64 n) := by
  apply BitVec.eq_of_toNat_eq
  simp [loWord]
theorem hiWord_ofNat (n : Nat) : BitVec.ofNat 32 (n / 2 ^ 32) = hiWord (BitVec.ofNat 64 n) := by
  apply BitVec.eq_of_toNat_eq
  simp only [hiWord, BitVec.toNat_ofNat, BitVec.toNat_setWidth, BitVec.toNat_ushiftRight, Nat.shiftRight_eq_div_pow]
  omega

/-- A bit of a bit vector's number. -/
theorem bitOf_toNat {w : Nat} (x : BitVec w) (i : Nat) : bitOf x.toNat i = x.getLsbD i := by
  simp [bitOf, BitVec.getLsbD, Nat.testBit_eq_decide_div_mod_eq, Bool.beq_eq_decide_eq]

/-- Set bits. -/
theorem popcBits_toNat {w : Nat} (x : BitVec w) : popcBits w x.toNat = bitCount x := by
  unfold popcBits bitCount
  congr 2
  funext i
  exact bitOf_toNat x i

/-- Leading zero bits. -/
theorem clzBits_toNat {w : Nat} (x : BitVec w) : clzBits w x.toNat = leadingZeros x := by
  unfold clzBits leadingZeros
  have key : ∀ k, k ≤ w → (∀ j < k, x.getMsbD j = false) → (k < w → x.getMsbD k = true) →
      ((List.range w).takeWhile fun i => !x.getMsbD i).length = k := by
    intro k hk h1 h2
    have e : List.range w = List.range k ++ (List.range (w - k)).map (k + ·) := by
      rw [← List.range_add]; congr 1; omega
    rw [e, List.takeWhile_append_of_pos (by intro a ha; simp only [List.mem_range] at ha; simp [h1 a ha])]
    rcases Nat.lt_or_ge k w with hw | hw
    · obtain ⟨n, hn⟩ : ∃ n, w - k = n + 1 := ⟨w - k - 1, by omega⟩
      rw [hn, List.range_succ_eq_map]
      simp [h2 hw]
    · have : w - k = 0 := by omega
      simp [this]
  split
  · rename_i h
    refine (key w le_rfl (fun j _ => ?_) (fun h => absurd h (lt_irrefl _))).symm
    have : x = 0 := BitVec.eq_of_toNat_eq (by simpa using h)
    subst this; simp
  · rename_i h
    have hl : x.toNat.log2 < w := (Nat.log2_lt h).mpr x.isLt
    refine (key (w - 1 - x.toNat.log2) (by omega) (fun j hj => ?_) (fun _ => ?_)).symm
    · have hj' : j < w := by omega
      simp only [BitVec.getMsbD, hj', decide_true, Bool.true_and, BitVec.getLsbD]
      exact Nat.testBit_lt_two_pow (lt_of_lt_of_le (Nat.lt_log2_self) (Nat.pow_le_pow_right (by decide) (by omega)))
    · have : w - 1 - (w - 1 - x.toNat.log2) = x.toNat.log2 := by omega
      have h2 : w - 1 - x.toNat.log2 < w := by omega
      simp only [BitVec.getMsbD, h2, decide_true, Bool.true_and, BitVec.getLsbD, this]
      exact Nat.testBit_log2 h

/-- The bits that `brev` has placed after `k` of them. -/
theorem brev_inv (x : Nat) (k : Nat) (hk : k ≤ 32) : ∃ q,
    (List.range k).foldl (fun (r : Nat) l => if bitOf x l then r + 2 ^ (31 - l) else r) 0 = q * 2 ^ (32 - k) ∧
    ∀ j, q.testBit j = (decide (j < k) && x.testBit (k - 1 - j)) := by
  induction k with
  | zero => exact ⟨0, by simp⟩
  | succ k ih =>
    obtain ⟨q, h1, h2⟩ := ih (by omega)
    have hb : bitOf x k = x.testBit k := by simp [bitOf, Nat.testBit_eq_decide_div_mod_eq, Bool.beq_eq_decide_eq]
    have e : 2 ^ (32 - k) = 2 * 2 ^ (31 - k) := by rw [← Nat.pow_succ']; congr 1; omega
    refine ⟨2 * q + (x.testBit k).toNat, ?_, fun j => ?_⟩
    · rw [List.range_succ, List.foldl_append, List.foldl_cons, List.foldl_nil, h1, hb, e, show 32 - (k + 1) = 31 - k by omega]
      cases x.testBit k <;> simp <;> ring
    · cases j with
      | zero => cases h : x.testBit k <;> simp [h]
      | succ j =>
        rw [Nat.testBit_succ, show (2 * q + (x.testBit k).toNat) / 2 = q by cases x.testBit k <;> simp [Nat.add_div], h2]
        simp only [Nat.add_lt_add_iff_right, Nat.add_sub_cancel]
        by_cases hj : j < k
        · simp [hj, show k - 1 - j = k - (j + 1) by omega]
        · simp [hj]

/-- `brev`. -/
theorem brevBits_toNat (x : Word) : BitVec.ofNat 32 (brevBits x.toNat) = x.reverse := by
  obtain ⟨q, h1, h2⟩ := brev_inv x.toNat 32 le_rfl
  unfold brevBits
  rw [h1]
  apply BitVec.eq_of_getLsbD_eq
  intro i hi
  simp only [BitVec.getLsbD_reverse, BitVec.getLsbD_ofNat, BitVec.getMsbD, Nat.sub_self, Nat.pow_zero, Nat.mul_one, h2, hi, decide_true, Bool.true_and]
  rfl

/-- The number of `n` ones. -/
theorem ones_toNat (n : Nat) (h : n ≤ 32) : (ones32 n).toNat = 2 ^ n - 1 := by
  have := Nat.pow_le_pow_right (n := 2) (by decide) h
  have := Nat.pow_pos (n := n) (a := 2) (by decide)
  simp only [ones32, BitVec.toNat_ofNat]
  exact Nat.mod_eq_of_lt (by omega)

/-- The field of `bfe` and `bfi` (R135). -/
theorem fieldOf_toNat (c : Word) : fieldOf c.toNat = (fieldPos c, fieldLen c) := by
  have e1 : bitsOf c.toNat 4 0 = fieldPos c := by simp [bitsOf, fieldPos, BitVec.extractLsb'_toNat]
  have e2 : bitsOf c.toNat 13 8 = (c.extractLsb' 8 6).toNat := by
    simp [bitsOf, BitVec.extractLsb'_toNat, Nat.shiftRight_eq_div_pow]
  simp only [fieldOf, e1, e2, fieldLen]

/-- Where a field can begin. -/
theorem fieldPos_lt (c : Word) : fieldPos c < 32 := by have := (c.extractLsb' 0 5).isLt; simpa [fieldPos] using this
/-- How long a field can be. -/
theorem fieldLen_le (c : Word) : fieldLen c ≤ 32 - fieldPos c := Nat.min_le_right _ _

/-- `bfe.n32`. -/
theorem bfeN_toNat (b c : Word) : BitVec.ofNat 32 (bfeBits false b.toNat c.toNat) = (b >>> fieldPos c) &&& ones32 (fieldLen c) := by
  have hl := fieldLen_le c
  have hp := fieldPos_lt c
  apply BitVec.eq_of_toNat_eq
  simp only [bfeBits, fieldOf_toNat, Bool.false_and, Bool.false_eq_true, if_false, BitVec.toNat_and, BitVec.toNat_ushiftRight,
    ones_toNat _ (by omega : fieldLen c ≤ 32), Nat.and_two_pow_sub_one_eq_mod, Nat.shiftRight_eq_div_pow, BitVec.toNat_ofNat]
  apply Nat.mod_eq_of_lt
  exact lt_of_le_of_lt (Nat.mod_le _ _) (lt_of_le_of_lt (Nat.div_le_self _ _) b.isLt)

/-- `bfe.i32`. -/
theorem bfeI_toNat (b c : Word) : BitVec.ofNat 32 (bfeBits true b.toNat c.toNat) =
    (let x := (b >>> fieldPos c) &&& ones32 (fieldLen c)
     if 0 < fieldLen c && x.getLsbD (fieldLen c - 1) then x ||| ~~~ones32 (fieldLen c) else x) := by
  have hl := fieldLen_le c
  have hp := fieldPos_lt c
  have hx : ((b >>> fieldPos c) &&& ones32 (fieldLen c)).toNat = b.toNat / 2 ^ fieldPos c % 2 ^ fieldLen c := by
    simp only [BitVec.toNat_and, BitVec.toNat_ushiftRight,
    ones_toNat _ (by omega : fieldLen c ≤ 32), Nat.and_two_pow_sub_one_eq_mod, Nat.shiftRight_eq_div_pow]
  have hlt : ((b >>> fieldPos c) &&& ones32 (fieldLen c)).toNat < 2 ^ fieldLen c := by
    rw [hx]; exact Nat.mod_lt _ (Nat.two_pow_pos _)
  have hn := bfeN_toNat b c
  simp only [bfeBits, fieldOf_toNat, Bool.false_and, Bool.false_eq_true, if_false] at hn
  simp only [bfeBits, fieldOf_toNat, Bool.true_and]
  generalize hX : (b >>> fieldPos c) &&& ones32 (fieldLen c) = X at *
  rw [← hx, bitOf_toNat] at *
  have e0 : (fieldLen c != 0) = decide (0 < fieldLen c) := by cases fieldLen c <;> simp
  rw [e0]
  split
  · rename_i h
    apply BitVec.eq_of_toNat_eq
    have h1 := Nat.pow_le_pow_right (n := 2) (by decide) (show fieldLen c ≤ 32 by omega)
    have hd : 2 ^ 32 - 2 ^ fieldLen c = 2 ^ fieldLen c * (2 ^ (32 - fieldLen c) - 1) := by
      rw [Nat.mul_sub, ← Nat.pow_add]; congr 2 <;> omega
    have hnot : (~~~ones32 (fieldLen c)).toNat = 2 ^ 32 - 2 ^ fieldLen c := by
      rw [BitVec.toNat_not, ones_toNat _ (by omega)]; have := Nat.pow_pos (n := fieldLen c) (a := 2) (by decide); omega
    rw [BitVec.toNat_or, hnot, hd, Nat.or_comm, ← Nat.two_pow_add_eq_or_of_lt hlt, BitVec.toNat_ofNat, Nat.add_comm, Nat.mod_eq_of_lt]
    rw [← hd]; omega
  · exact ofNat_toNat _

/-- `bfi`. -/
theorem bfi_toNat (a b c : Word) : BitVec.ofNat 32 (bfiBits a.toNat b.toNat c.toNat) =
    (let k := ones32 (fieldLen c) <<< fieldPos c
     (a &&& ~~~k) ||| ((b <<< fieldPos c) &&& k)) := by
  have hl := fieldLen_le c
  have hp := fieldPos_lt c
  have hk : (ones32 (fieldLen c) <<< fieldPos c).toNat = (2 ^ fieldLen c - 1) * 2 ^ fieldPos c := by
    rw [BitVec.toNat_shiftLeft, ones_toNat _ (by omega), Nat.shiftLeft_eq, Nat.mod_eq_of_lt]
    have h1 : 2 ^ fieldLen c * 2 ^ fieldPos c ≤ 2 ^ 32 := by rw [← Nat.pow_add]; exact Nat.pow_le_pow_right (by decide) (by omega)
    have := Nat.pow_pos (n := fieldPos c) (a := 2) (by decide)
    rw [Nat.sub_mul]; omega
  apply BitVec.eq_of_toNat_eq
  simp only [bfiBits, fieldOf_toNat, BitVec.toNat_or, BitVec.toNat_and, BitVec.toNat_not, hk, BitVec.toNat_shiftLeft, Nat.shiftLeft_eq, BitVec.toNat_ofNat]
  apply Nat.mod_eq_of_lt
  apply Nat.or_lt_two_pow
  · exact lt_of_le_of_lt Nat.and_le_left a.isLt
  · exact lt_of_le_of_lt Nat.and_le_left (Nat.mod_lt _ (Nat.two_pow_pos 32))

end Sys2Proof.Laws
end

