-- ==== Sys2Proof/Laws/Operands.lean ====
section
/-! SUPPORT. Operands and results of units in the terms of bit vectors, and the units whose whole effect is on registers. -/
namespace Sys2Proof.Laws
open Sys2Proof.Machine Sys2Proof.Safety

theorem sVal_one (g : Group) (r : Nat) : g.sVal false r = (g.getS r).toNat := by simp [Group.sVal]
theorem sVal_pair (g : Group) (r : Nat) : g.sVal true r = (s64 g r).toNat := by simp [Group.sVal, s64, pair_toNat]
theorem vVal_one (g : Group) (r l : Nat) : g.vVal false r l = (g.getV r l).toNat := by simp [Group.vVal]
theorem vVal_pair (g : Group) (r l : Nat) : g.vVal true r l = (v64 g r l).toNat := by simp [Group.vVal, v64, pair_toNat]

/-- The first source. -/
theorem src_b32 (u : Frag) (uni : Bool) (f : RF) (l : Nat) : u.g.src uni false f.b.toNat l = (b32 uni u f l).toNat := by
  cases uni <;> simp [Group.src, b32, sVal_one, vVal_one]
theorem src_b64 (u : Frag) (uni : Bool) (f : RF) (l : Nat) : u.g.src uni true f.b.toNat l = (b64 uni u f l).toNat := by
  cases uni <;> simp [Group.src, b64, sVal_pair, vVal_pair]

/-- The fourth operand. -/
theorem src_d32 (u : Frag) (uni : Bool) (f : RF) (l : Nat) : u.g.src uni false (d4Of u.m f) l = (d32 uni u f l).toNat := by
  cases uni <;> simp only [Group.src, d32, d4Of, sVal_one, vVal_one, Bool.false_eq_true, if_false, if_true] <;> rfl

/-- The immediate second source. -/
theorem immOf_immVal (m : Mods) (f : RF) (w : Nat) : immOf m f w = (immVal w m f).toNat := by
  have e : (m.i.map BitVec.toNat).getD 0 * 128 + f.c.toNat = (m.i.getD 0 ++ f.c).toNat := by
    rw [BitVec.toNat_append, ← Nat.shiftLeft_add_eq_or_of_lt f.c.isLt, Nat.shiftLeft_eq]
    cases m.i <;> simp
  unfold immOf immVal
  rw [e, sext_toNat (by decide), sext_toNat (by decide)]
  simp only [beq_iff_eq]
  split <;> rfl

/-- The second source. -/
theorem opnd_c32 (u : Frag) (uni : Bool) (f : RF) (l : Nat) : u.g.opnd u.m uni false f l = (c32 uni u f l).toNat := by
  unfold Group.opnd c32
  simp only [beq_iff_eq]
  split
  · cases uni <;> simp only [Group.src, sVal_one, vVal_one, Bool.false_eq_true, if_false, if_true]
  · split
    · exact sVal_one _ _
    · exact immOf_immVal _ _ _
theorem opnd_c64 (u : Frag) (uni : Bool) (f : RF) (l : Nat) : u.g.opnd u.m uni true f l = (c64 uni u f l).toNat := by
  unfold Group.opnd c64
  simp only [beq_iff_eq]
  split
  · cases uni <;> simp only [Group.src, sVal_pair, vVal_pair, Bool.false_eq_true, if_false, if_true]
  · split
    · exact sVal_pair _ _
    · exact immOf_immVal _ _ _

/-- Results in S registers. -/
theorem putS_toS (g : Group) (a : BitVec 7) (n : Nat) : g.putS false a.toNat n = toS a (BitVec.ofNat 32 n) g := rfl
theorem putS_toS64 (g : Group) (a : BitVec 7) (n : Nat) : g.putS true a.toNat n = toS64 a (BitVec.ofNat 64 n) g := by
  simp only [Group.putS, toS64, if_true, hiWord_ofNat, loWord_ofNat n]

/-- Results in V registers. -/
theorem putV_toV (u : Frag) (g : Group) (a : BitVec 7) (val : Nat → Nat) :
    g.putV u.m.modx.u false a.toNat u.lanes u.zeroed val = toV u a (fun l => BitVec.ofNat 32 (val l)) g := by
  unfold Group.putV toV
  cases u.m.modx.u <;> rfl
theorem putV_toV64 (u : Frag) (g : Group) (a : BitVec 7) (val : Nat → Nat) :
    g.putV u.m.modx.u true a.toNat u.lanes u.zeroed val = toV64 u a (fun l => BitVec.ofNat 64 (val l)) g := by
  unfold Group.putV toV64
  cases u.m.modx.u <;> simp only [Bool.false_eq_true, if_false, if_true, hiWord_ofNat, ← loWord_ofNat]

/-- A unit that answers a change of its group. -/
theorem does_of {i : Instr} {body : Frag → State → Res} {upd : Frag → Group → Group} (he : ∀ s, exec i s = issue i s body)
    (hb : ∀ u s, body u s = .ok (s.modGroup u.g.id (upd u))) : Does i upd := by
  intro s g e p h
  rw [he]
  exact issue_group h (hb _ _)

/-- A uniform unit with a result of one word. -/
theorem sop_toS (u : Frag) (s : State) (f : RF) (op : Nat → Nat → Nat) :
    u.sop s f false op =
      .ok (s.modGroup u.g.id (toS f.a (BitVec.ofNat 32 (op (b32 true u f 0).toNat (c32 true u f 0).toNat)))) := by
  rw [← opnd_c32, ← src_b32]
  rfl
/-- A uniform unit with a result of two words. -/
theorem sop_toS64 (u : Frag) (s : State) (f : RF) (op : Nat → Nat → Nat) :
    u.sop s f true op =
      .ok (s.modGroup u.g.id (toS64 f.a (BitVec.ofNat 64 (op (b64 true u f 0).toNat (c64 true u f 0).toNat)))) := by
  rw [← opnd_c64, ← src_b64]
  simp only [Frag.sop, Frag.uni, Frag.upd, putS_toS64]
  rfl
/-- A vector unit with a result of one word. -/
theorem vec_toV (u : Frag) (s : State) (a : BitVec 7) (val : Nat → Nat) :
    u.vec s false a.toNat val = .ok (s.modGroup u.g.id (toV u a fun l => BitVec.ofNat 32 (val l))) := by
  simp only [Frag.vec, Frag.upd, putV_toV]
/-- A vector unit with a result of two words. -/
theorem vec_toV64 (u : Frag) (s : State) (a : BitVec 7) (val : Nat → Nat) :
    u.vec s true a.toNat val = .ok (s.modGroup u.g.id (toV64 u a fun l => BitVec.ofNat 64 (val l))) := by
  simp only [Frag.vec, Frag.upd, putV_toV64]

/-- A word that says a condition. -/
theorem flag_eq (b : Bool) : BitVec.ofNat 32 (flagWord b) = flag b := by cases b <;> rfl

/-- A uniform unit, one word. -/
theorem does_sop {i : Instr} {f : RF} {op : Frag → Nat → Nat → Nat} {v : Frag → Word}
    (he : ∀ s, exec i s = issue i s fun u s => u.sop s f false (op u))
    (hv : ∀ u, BitVec.ofNat 32 (op u (b32 true u f 0).toNat (c32 true u f 0).toNat) = v u) : Does i fun u => toS f.a (v u) :=
  does_of he fun u s => by rw [sop_toS, hv]
/-- A uniform unit, two words. -/
theorem does_sop64 {i : Instr} {f : RF} {op : Frag → Nat → Nat → Nat} {v : Frag → Quad}
    (he : ∀ s, exec i s = issue i s fun u s => u.sop s f true (op u))
    (hv : ∀ u, BitVec.ofNat 64 (op u (b64 true u f 0).toNat (c64 true u f 0).toNat) = v u) : Does i fun u => toS64 f.a (v u) :=
  does_of he fun u s => by rw [sop_toS64, hv]

/-- A relation as a word. -/
theorem flag_compare (n : Nat) (sg : Bool) (b c : Word) : BitVec.ofNat 32 (flagWord (compareBits n sg 32 b.toNat c.toNat)) = flag (condOf n sg b c) := by
  rw [flag_eq, compareBits_toNat (by decide)]

/-- A vector unit, one word. -/
theorem does_vop {i : Instr} {f : RF} {op : Frag → Nat → Nat → Nat} {v : Frag → Nat → Word}
    (he : ∀ s, exec i s = issue i s fun u s => u.vop s f false false (op u))
    (hv : ∀ u l, BitVec.ofNat 32 (op u (b32 u.m.modx.u u f l).toNat (c32 u.m.modx.u u f l).toNat) = v u l) :
    Does i fun u => toV u f.a (v u) :=
  does_of he fun u s => by simp only [Frag.vop, vec_toV, src_b32, opnd_c32, hv]
/-- A vector unit, two words. -/
theorem does_vop64 {i : Instr} {f : RF} {op : Frag → Nat → Nat → Nat} {v : Frag → Nat → Quad}
    (he : ∀ s, exec i s = issue i s fun u s => u.vop s f true true (op u))
    (hv : ∀ u l, BitVec.ofNat 64 (op u (b64 u.m.modx.u u f l).toNat (c64 u.m.modx.u u f l).toNat) = v u l) :
    Does i fun u => toV64 u f.a (v u) :=
  does_of he fun u s => by simp only [Frag.vop, vec_toV64, src_b64, opnd_c64, hv]
/-- A vector shift of two words. -/
theorem does_vshift64 {i : Instr} {f : RF} {op : Frag → Nat → Nat → Nat} {v : Frag → Nat → Quad}
    (he : ∀ s, exec i s = issue i s fun u s => u.vop s f true false (op u))
    (hv : ∀ u l, BitVec.ofNat 64 (op u (b64 u.m.modx.u u f l).toNat (c32 u.m.modx.u u f l).toNat) = v u l) :
    Does i fun u => toV64 u f.a (v u) :=
  does_of he fun u s => by simp only [Frag.vop, vec_toV64, src_b64, opnd_c32, hv]
/-- A unary vector unit. -/
theorem does_vop1 {i : Instr} {f : RF} {op : Frag → Nat → Nat} {v : Frag → Nat → Word}
    (he : ∀ s, exec i s = issue i s fun u s => u.vop1 s f false (op u))
    (hv : ∀ u l, BitVec.ofNat 32 (op u (b32 u.m.modx.u u f l).toNat) = v u l) :
    Does i fun u => toV u f.a (v u) :=
  does_of he fun u s => by simp only [Frag.vop1, vec_toV, src_b32, hv]
/-- A unary vector unit with a pair as its source. -/
theorem does_vop1_64 {i : Instr} {f : RF} {op : Frag → Nat → Nat} {v : Frag → Nat → Word}
    (he : ∀ s, exec i s = issue i s fun u s => u.vop1 s f true (op u))
    (hv : ∀ u l, BitVec.ofNat 32 (op u (b64 u.m.modx.u u f l).toNat) = v u l) :
    Does i fun u => toV u f.a (v u) :=
  does_of he fun u s => by simp only [Frag.vop1, vec_toV, src_b64, hv]

/-- The parts of the unit in issue are those of its syntax. -/
theorem mods_of {s : State} {i : Instr} {g : Group} {e : Nat} {p : Parts} (h : Clear s i g e p) {q : Parts}
    (hq : i.parts = some q) : p = q := Option.some.inj (h.parts.symm.trans hq)

end Sys2Proof.Laws
end

