-- ==== Sys2Proof/Laws/Accesses.lean ====
section
/-! SUPPORT. Loads, stores, atomics and barriers: what issue does once, and what the writes of a lane leave. -/
namespace Sys2Proof.Laws
open Sys2Proof.Machine Sys2Proof.Safety

/-! ## Issue -/

theorem remember_queue (s : State) (c p : Nat) : (s.remember c p).jqueue = s.jqueue := by
  unfold State.remember State.rememberAll
  split <;> rfl
theorem resolved_queue (s : State) (g : Machine.Group) (p : Nat) : (s.resolved g p).jqueue = s.jqueue := by
  unfold State.resolved
  split
  · exact remember_queue _ _ _
  · rfl
theorem checkAll_queue (g : Machine.Group) (chk : State → Nat → Except Nat Tgt) (addr : Nat → Nat) (ls : List Nat) (s : State) :
    (s.checkAll g chk addr ls).2.jqueue = s.jqueue := by
  induction ls generalizing s with
  | nil => rfl
  | cons l ls ih => exact (ih _).trans (resolved_queue _ _ _)
theorem sendOver_queue (ps : List (Option Nat)) (s : State) : (s.sendOver ps).jqueue = s.jqueue := by
  unfold State.sendOver
  induction ps generalizing s with
  | nil => rfl
  | cons p ps ih => exact (ih _).trans (by cases p <;> rfl)
theorem accessed_queue (u : Frag) (s : State) (a : Acc) (pre : Machine.Group → Machine.Group) : (u.accessed s a pre).jqueue = s.jqueue := by
  have h : (u.checks s a).2.jqueue = s.jqueue := checkAll_queue _ _ _ _ _
  unfold Frag.accessed
  dsimp only
  split
  · exact h
  · split
    · exact h
    · exact (sendOver_queue _ _).trans h
theorem accesses_of {i : Instr} {a : Frag → Acc} {pre : Frag → Machine.Group → Machine.Group}
    (he : ∀ s g e p, Clear s i g e p → exec i s = issue i s fun u s => u.access s (a u) (pre u)) : Accesses i a pre := by
  refine ⟨fun s g e p h hw => ?_, fun s g e p h hw => ?_, fun s g e p h => ?_⟩
  · rw [he s g e p h]
    exact issue_hold h (if_pos hw)
  · rw [he s g e p h]
    refine issue_ok h ?_ (accessed_queue _ _ _ _)
    unfold Frag.access
    rw [if_neg (by rw [hw.1]; decide), hw.2]
  · intro u s0 hw l c rest hf t ht
    rw [he s g e p h]
    refine issue_trap h ?_ ht
    unfold Frag.access
    rw [if_neg (by rw [hw]; decide), hf]
theorem offBytes_eq (f : MF) (n : Nat) : (BitVec.ofInt 64 (f.off.toInt * n)).toNat = offBytes f n := by
  unfold offBytes
  rw [toSigned_toNat (by decide), BitVec.toNat_ofInt]
theorem laneAddr_eq (u : Frag) (f : MF) (n l : Nat) : laneAddr u f n l = u.addr f n l := by
  unfold laneAddr Frag.addr addrPlus Frag.uniform
  rw [BitVec.toNat_add, offBytes_eq]
  congr 2
  unfold Group.src
  cases u.m.modx.u
  · exact (vVal_pair _ _ _).symm
  · exact (sVal_pair _ _).symm
theorem laneData_eq (u : Frag) (wide : Bool) (r l : Nat) : laneData u wide r l = u.g.src u.m.modx.u wide r l := by
  unfold laneData Group.src
  cases wide <;> cases u.m.modx.u <;> simp [vVal_pair, sVal_pair, vVal_one, sVal_one]
theorem uniAddr_eq (u : Frag) (f : MF) (n : Nat) : (s64 u.g f.addr.toNat + BitVec.ofInt 64 (f.off.toInt * n)).toNat = addrPlus (u.g.ptr f.addr.toNat) (offBytes f n) := by
  rw [BitVec.toNat_add, offBytes_eq, addrPlus, Group.ptr, sVal_pair]
theorem load_eq (u : Frag) (s : State) (f : MF) (size : Nat) (sg only : Bool) (wide : Bool) (hw : (size == 8) = wide) : u.load s f size sg only = u.access s (loadAcc f size sg only u) (zeroing wide f.data.toNat u) := by
  subst hw
  have h : laneAddr u f size = u.addr f size := funext fun l => laneAddr_eq u f size l
  unfold loadAcc
  rw [h]
  rfl
theorem store_eq (u : Frag) (s : State) (f : MF) (size : Nat) (only : Bool) : u.store s f size only = u.access s (storeAcc f size only u) fun g => g := by
  have h : laneAddr u f size = u.addr f size := funext fun l => laneAddr_eq u f size l
  have h2 : laneData u (size == 8) f.data.toNat = u.g.src u.m.modx.u (size == 8) f.data.toNat := funext fun l => laneData_eq u _ _ l
  unfold storeAcc
  rw [h, h2]
  rfl
theorem atomic_eq (u : Frag) (s : State) (f : MF) (size : Nat) (result : Bool) (wide : Bool) (hw : (size == 8) = wide) :
    u.atomic s f size result = u.access s (atomAcc f size result u) (if result then zeroing wide f.data.toNat u else fun g => g) := by
  subst hw
  have h (w : Bool) (r : Nat) : laneData u w r = u.g.src u.m.modx.u w r := funext fun l => laneData_eq u _ _ l
  unfold atomAcc
  simp only [h]
  cases result <;> rfl

/-! ## Barriers -/

theorem find_filter {α : Type} {p q : α → Bool} (l : List α) (h : ∀ x ∈ l, p x = true → q x = true) : (l.filter q).find? p = l.find? p := by
  induction l with
  | nil => rfl
  | cons x l ih =>
    have ih := ih fun y hy => h y (List.mem_cons_of_mem _ hy)
    by_cases hq : q x = true
    · rw [List.filter_cons_of_pos hq, List.find?_cons, List.find?_cons, ih]
    · have hp : p x = false := by
        rw [Bool.eq_false_iff]; exact fun hp => hq (h x List.mem_cons_self hp)
      rw [List.filter_cons_of_neg hq, ih, List.find?_cons, hp]
/-- A change of writes that keeps their keys and values keeps what is newest. -/
theorem find_map_val {f : Write → Write} (hk : ∀ w, (f w).key = w.key) (hv : ∀ w, (f w).val = w.val) (l : List Write) (k : Nat) (d : Byte) :
    (match (l.map f).find? fun w => w.key == k with | some w => w.val | none => d) =
      (match l.find? fun w => w.key == k with | some w => w.val | none => d) := by
  induction l with
  | nil => rfl
  | cons w l ih =>
    simp only [List.map_cons, List.find?_cons, hk]
    cases w.key == k
    · exact ih
    · exact hv w
theorem failCommits_wlog (s : State) (bad : List Origin) : (s.failCommits bad).wlog = s.wlog ∧ (s.failCommits bad).mem = s.mem := by
  unfold State.failCommits
  split <;> exact ⟨rfl, rfl⟩
/-- Stores to replicated pages that leave their core change nothing in scratchpad (R196). -/
theorem newest_leave (s : State) (c t k : Nat) (p : Write → Bool) (h : 2 ^ 48 ≤ k) : (s.leave c t p).newest k = s.newest k := by
  unfold State.leave
  dsimp only
  split
  · rfl
  · unfold State.newest
    rw [(failCommits_wlog _ _).1, (failCommits_wlog _ _).2]
    dsimp only
    rw [List.find?_append, List.find?_eq_none.mpr, Option.none_or, find_filter]
    · intro w _ hw
      have : w.key = k := by simpa using hw
      unfold Write.owed
      simp only [this, show ¬ k < 2 ^ 48 by omega, decide_false, Bool.and_false, Bool.false_and, Bool.not_false]
    · intro w hw
      obtain ⟨x, hx, rfl⟩ := List.mem_map.mp hw
      have hx := (List.mem_filter.mp (List.mem_filter.mp hx).1).2
      have hk : (x.commit .system t c).key = x.key := rfl
      rw [hk]
      unfold Write.owed at hx
      simp only [Bool.and_eq_true, decide_eq_true_eq] at hx
      simp only [beq_iff_eq]
      omega
theorem newest_release (s : State) (c sc k : Nat) (h : 2 ^ 48 ≤ k) : (s.release c sc).newest k = s.newest k := by
  unfold State.release
  split
  · rename_i r _
    rw [← newest_leave s c (s.mclock + 1) k (fun _ => true) h]
    unfold State.newest State.commit State.leaveCore
    exact find_map_val (f := fun w => if w.inSnap c (s.snap c) then w.commit r (s.mclock + 1) c else w)
      (fun w => by split <;> rfl) (fun w => by split <;> rfl) _ _ _
  · rfl
theorem barrier_release (s : State) (c sc k : Nat) (h : 2 ^ 48 ≤ k) : (s.release c sc).barrier k = s.barrier k := by
  unfold State.barrier
  congr 1
  exact List.map_congr_left fun i _ => newest_release s c sc _ (by omega)
theorem txbKey_spad {s : State} {g : Machine.Group} {p k : Nat} (h : s.txbKey g p = .ok k) : 2 ^ 48 ≤ k := by
  unfold State.txbKey spadOnly at h
  by_cases ht : ptrTag p = 1
  · simp only [ht, beq_self_eq_true, if_true] at h
    unfold State.resolve at h
    rw [ht] at h
    dsimp only at h
    split at h
    · rename_i hr
      split at hr
      · cases hr
      · split at hr
        · cases hr
        · split at hr
          · rename_i h0
            exact absurd h0 (by decide)
          · split at hr
            · cases hr
            · split at hr
              · cases hr
              · cases hr
                cases h
                unfold spadKey
                omega
          · rename_i h0
            exact absurd h0 (by decide)
          · rename_i h1 _
            exact absurd rfl h1
    · cases h
    · cases h
  · have hb : (ptrTag p == 1) = false := by simpa using ht
    rw [hb] at h
    cases h
theorem txbEvent_takes {s : State} {k : Nat} {e : TxbEvent} (h : takes e (s.barrier k) = true) : (s.txbEvent k e).2 = false := by
  unfold takes at h
  rw [Bool.and_eq_true, Bool.not_eq_true', Option.isSome_iff_exists] at h
  obtain ⟨h1, x, hx⟩ := h
  unfold State.txbEvent
  simp only [h1, hx, Bool.false_eq_true, if_false]
@[simp] theorem noteBarrier_queue (s : State) (k : Nat) : (s.noteBarrier k).jqueue = s.jqueue := rfl
@[simp] theorem noteBarrier_mem (s : State) (k : Nat) : (s.noteBarrier k).mem = s.mem := rfl
theorem onBarrier_eq {u : Frag} {s : State} {f : MF} {k : Nat} (h : Reaches f k u s) (body : Nat → Res) : u.onBarrier s f body = body k := by
  unfold Frag.onBarrier
  rw [h.1]
  unfold Frag.atKey
  dsimp only
  rw [if_neg (by rw [h.2]; decide)]

/-! ## Writes that perform, and writes seen at once -/

theorem put_inSnap (k : Nat) (b : Byte) (m c : Nat) (t : Snap) :
    Write.inSnap { key := k, val := b, core := 384, at_ := m, commits := [{ reach := .system, at_ := 0, by_ := 384 }],
                   joined := [], mca := false, atomic := none, src := none } c t = true := by
  simp [Write.inSnap, Snap.takes, Reach.covers]
/-- No core owes a store at a key beyond main memory (R196). -/
theorem owed_far {s : State} {c j : Nat} (h : 2 ^ 48 ≤ j) : (s.wlog.any fun w => w.key == j && w.owed c) = false := by
  rw [List.any_eq_false]
  intro w _ hw
  simp only [Write.owed, Bool.and_eq_true, beq_iff_eq, decide_eq_true_eq] at hw
  omega
/-- What a core reads, by the write that it reads. -/
theorem observe_eq (s : State) (c j : Nat) : s.observe c j = ((s.view c j).map Write.val).getD (s.mem.get j) := by
  unfold State.observe
  cases s.view c j <;> rfl
theorem view_eq (s : State) (c j : Nat) : s.view c j =
    if s.wlog.any fun w => w.key == j && w.owed c then s.wlog.find? fun w => w.key == j && w.core == c
    else s.wlog.find? fun w => w.key == j && w.inSnap c (s.snap c) := by
  unfold State.view State.viewIn
  simp only [Bool.or_false]
theorem shared_eq (s : State) (j : Nat) : s.shared j = ((s.wlog.find? fun w => w.key == j && w.global).map Write.val).getD (s.mem.get j) := by
  unfold State.shared
  cases s.wlog.find? fun w => w.key == j && w.global <;> rfl
theorem put_observe_other (s : State) (k : Nat) (b : Byte) (c j : Nat) (h : j ≠ k) : (s.put k b).observe c j = s.observe c j := by
  have hk : (k == j) = false := by simpa using Ne.symm h
  rw [observe_eq, observe_eq, view_eq, view_eq]
  unfold State.put
  split
  · simp only [List.any_cons, List.find?_cons, hk, Bool.false_and, Bool.false_or]
    rfl
  · simp only [get_set_other _ h]
    rfl
theorem put_observe (s : State) (k : Nat) (b : Byte) (c j : Nat) (hk : 2 ^ 48 ≤ k) (hw : s.mem.wf = true) :
    (s.put k b).observe c j = if j = k then b else s.observe c j := by
  by_cases h : j = k
  · subst h
    rw [if_pos rfl, observe_eq, view_eq, if_neg (by rw [owed_far hk]; decide)]
    unfold State.put
    split
    · simp only [List.find?_cons, put_inSnap, Bool.and_true, beq_self_eq_true]
      rfl
    · rename_i hn
      rw [List.find?_eq_none.mpr]
      · exact get_set_same hw
      · intro w hw2 hk2
        apply hn
        rw [List.any_eq_true]
        exact ⟨w, hw2, by simp only [Bool.and_eq_true] at hk2; exact hk2.1⟩
  · rw [if_neg h, put_observe_other _ _ _ _ _ h]
theorem put_shared_far (s : State) (k : Nat) (b : Byte) (j : Nat) (h : j ≠ k) : (s.put k b).shared j = s.shared j := by
  unfold State.put
  split
  · unfold State.shared
    have : (k == j) = false := by simpa using Ne.symm h
    simp only [List.find?_cons, this, Bool.false_and]
  · unfold State.shared
    simp only [get_set_other _ h]
theorem put_wf (s : State) (k : Nat) (b : Byte) (hw : s.mem.wf = true) : (s.put k b).mem.wf = true := by
  unfold State.put
  split
  · exact hw
  · exact set_wf hw
theorem putN_wf (bs : List Byte) (s : State) (k : Nat) (hw : s.mem.wf = true) : (s.putN k bs).mem.wf = true := by
  induction bs generalizing s k with
  | nil => exact hw
  | cons b bs ih => exact ih _ _ (put_wf _ _ _ hw)
/-- A byte of a list written from a key on, at a later key. -/
theorem spread {k j n : Nat} {b : Byte} {bs : List Byte} {x : Byte} (hn : n = bs.length) :
    (if k + 1 ≤ j ∧ j < k + 1 + n then bs[j - (k + 1)]?.getD 0 else if j = k then b else x) =
      if k ≤ j ∧ j < k + (b :: bs).length then (b :: bs)[j - k]?.getD 0 else x := by
  subst hn
  by_cases h : j = k
  · subst h; simp
  · by_cases h2 : k ≤ j ∧ j < k + (b :: bs).length
    · have : j - k = (j - (k + 1)) + 1 := by omega
      rw [if_pos h2, if_pos (by simp at h2; omega), this]; simp
    · rw [if_neg h2, if_neg (by simp at h2; omega), if_neg h]
theorem putN_observe (bs : List Byte) (s : State) (k c j : Nat) (hk : 2 ^ 48 ≤ k) (hw : s.mem.wf = true) :
    (s.putN k bs).observe c j = if k ≤ j ∧ j < k + bs.length then bs[j - k]?.getD 0 else s.observe c j := by
  induction bs generalizing s k with
  | nil => simp [State.putN]
  | cons b bs ih =>
    rw [State.putN, ih _ _ (by omega) (put_wf _ _ _ hw), put_observe _ _ _ _ _ hk hw]
    exact spread rfl
theorem putN_shared_far (bs : List Byte) (s : State) (k j : Nat) (h : j < k ∨ k + bs.length ≤ j) : (s.putN k bs).shared j = s.shared j := by
  induction bs generalizing s k with
  | nil => rfl
  | cons b bs ih =>
    rw [State.putN, ih _ _ (by simp at h; omega), put_shared_far _ _ _ _ (by simp at h; omega)]

/-- The bytes of one write, found by key and by what is not a key or a value. -/
theorem spread_hit {w : Write} {P : Write → Bool} {bs : List Byte} {k j : Nat} (hP : ∀ i b, P { w with key := i, val := b } = true)
    (l : List Write) (h : k ≤ j) (h2 : j < k + bs.length) :
    ∃ x, ((w.spread k bs ++ l).find? fun x => x.key == j && P x) = some x ∧ x.val = bs[j - k]?.getD 0 := by
  induction bs generalizing k with
  | nil => simp at h2; omega
  | cons b bs ih =>
    rw [Write.spread, List.cons_append, List.find?_cons]
    by_cases hj : k = j
    · subst hj
      simp [hP]
    · have : (k == j) = false := by simpa using hj
      simp only [this, Bool.false_and]
      obtain ⟨x, hx, hv⟩ := ih (k := k + 1) (by omega) (by simp at h2; omega)
      refine ⟨x, hx, ?_⟩
      rw [hv, show j - k = (j - (k + 1)) + 1 by omega]
      simp
theorem spread_miss {w : Write} {P : Write → Bool} {bs : List Byte} {k j : Nat} (l : List Write)
    (h : (∀ i b, P { w with key := i, val := b } = false) ∨ j < k ∨ k + bs.length ≤ j) :
    ((w.spread k bs ++ l).find? fun x => x.key == j && P x) = l.find? fun x => x.key == j && P x := by
  induction bs generalizing k with
  | nil => rfl
  | cons b bs ih =>
    rw [Write.spread, List.cons_append, List.find?_cons]
    have h0 : (k == j && P { w with key := k, val := b }) = false := by
      rcases h with h | h
      · rw [h, Bool.and_false]
      · have : (k == j) = false := by simp at h ⊢; omega
        rw [this, Bool.false_and]
    rw [show ((({ w with key := k, val := b } : Write)).key == j && P { w with key := k, val := b }) = false from h0]
    exact ih (h.imp id fun h => by simp at h; omega)
theorem spread_owed {w : Write} {bs : List Byte} {k j d : Nat} (hm : w.mca = false) (l : List Write) :
    ((w.spread k bs ++ l).any fun x => x.key == j && x.owed d) = l.any fun x => x.key == j && x.owed d := by
  induction bs generalizing k with
  | nil => rfl
  | cons b bs ih =>
    rw [Write.spread, List.cons_append, List.any_cons, ih]
    simp [Write.owed, hm]

/-- What a write that performs outside scratchpad adds to the log. -/
theorem performN_log {bs : List Byte} {s : State} {c k : Nat} {o : Option Origin} (h : isSpadKey k = false) :
    s.performN c k false o bs =
      { s with mclock := s.mclock + 1, wlog := (coreWrite c (s.mclock + 1) false o).spread k bs ++ s.wlog } := if_neg (by rw [h]; decide)
/-- A core sees its own store as soon as it performs (R243). -/
theorem performN_observe (bs : List Byte) (s : State) (c k : Nat) (o : Option Origin) (j : Nat) (hw : s.mem.wf = true) :
    (s.performN c k false o bs).observe c j = if k ≤ j ∧ j < k + bs.length then bs[j - k]?.getD 0 else s.observe c j := by
  by_cases hs : isSpadKey k = true
  · unfold State.performN
    rw [if_pos hs]
    exact putN_observe _ _ _ _ _ (by simp [isSpadKey] at hs; omega) hw
  · rw [performN_log (by simpa using hs), observe_eq, observe_eq, view_eq, view_eq]
    dsimp only
    rw [spread_owed rfl]
    have hsn (t : State) (ha : t.acqs = s.acqs) : t.snap c = s.snap c := by unfold State.snap; rw [ha]
    rw [hsn { s with mclock := s.mclock + 1, wlog := (coreWrite c (s.mclock + 1) false o).spread k bs ++ s.wlog } rfl]
    by_cases h : k ≤ j ∧ j < k + bs.length
    · rw [if_pos h]
      obtain ⟨x, hx, hv⟩ := spread_hit (w := coreWrite c (s.mclock + 1) false o) (P := fun x => x.core == c) (by simp [coreWrite]) s.wlog h.1 h.2
      obtain ⟨y, hy, hz⟩ := spread_hit (w := coreWrite c (s.mclock + 1) false o) (P := fun x => x.inSnap c (s.snap c))
        (by simp [coreWrite, Write.inSnap]) s.wlog h.1 h.2
      rw [hx, hy]
      split
      · exact hv
      · exact hz
    · rw [if_neg h, spread_miss (P := fun x => x.core == c) s.wlog (.inr (by omega)),
        spread_miss (P := fun x => x.inSnap c (s.snap c)) s.wlog (.inr (by omega))]
/-- Bytes that it does not write, and, outside scratchpad, all bytes to another core, read as before (R241, R243). -/
theorem performN_other (bs : List Byte) (s : State) (c k : Nat) (o : Option Origin) (d j : Nat) (hw : s.mem.wf = true)
    (h : (j < k ∨ k + bs.length ≤ j) ∨ (isSpadKey k = false ∧ d ≠ c)) : (s.performN c k false o bs).observe d j = s.observe d j := by
  by_cases hs : isSpadKey k = true
  · have h' : j < k ∨ k + bs.length ≤ j := h.resolve_right fun x => by rw [hs] at x; exact Bool.noConfusion x.1
    unfold State.performN
    rw [if_pos hs, putN_observe _ _ _ _ _ (by simp [isSpadKey] at hs; omega) hw, if_neg (by omega)]
  · rw [performN_log (by simpa using hs), observe_eq, observe_eq, view_eq, view_eq]
    dsimp only
    have hsn (t : State) (ha : t.acqs = s.acqs) : t.snap d = s.snap d := by unfold State.snap; rw [ha]
    rw [spread_owed rfl, hsn { s with mclock := s.mclock + 1, wlog := (coreWrite c (s.mclock + 1) false o).spread k bs ++ s.wlog } rfl,
      spread_miss (P := fun x => x.core == d) s.wlog (h.symm.imp (fun x i b => by simp [coreWrite, x.2.symm]) id),
      spread_miss (P := fun x => x.inSnap d (s.snap d)) s.wlog (h.symm.imp (fun x i b => by simp [coreWrite, Write.inSnap, x.2.symm]) id)]
theorem performN_wf (bs : List Byte) (s : State) (c k : Nat) (m : Bool) (o : Option Origin) (hw : s.mem.wf = true) : (s.performN c k m o bs).mem.wf = true := by
  unfold State.performN
  split
  · exact putN_wf _ _ _ hw
  · exact hw
theorem performN_shared (bs : List Byte) (s : State) (c k : Nat) (o : Option Origin) (j : Nat) (h : j < k ∨ k + bs.length ≤ j) :
    (s.performN c k false o bs).shared j = s.shared j := by
  by_cases hs : isSpadKey k = true
  · unfold State.performN
    rw [if_pos hs]
    exact putN_shared_far _ _ _ _ h
  · rw [performN_log (by simpa using hs), shared_eq, shared_eq]
    dsimp only
    rw [spread_miss (P := Write.global) s.wlog (.inr h)]
/-- Every core sees a write of scratchpad at once (R191, log 7). -/
theorem performN_spad {bs : List Byte} {s : State} {c k : Nat} {m : Bool} {o : Option Origin} (h : isSpadKey k = true) :
    s.performN c k m o bs = s.putN k bs := if_pos h
theorem putN_rest (bs : List Byte) (s : State) (k : Nat) :
    (s.putN k bs).txbs = s.txbs ∧ (s.putN k bs).groups = s.groups ∧ (s.putN k bs).encs = s.encs := by
  induction bs generalizing s k with
  | nil => exact ⟨rfl, rfl, rfl⟩
  | cons b bs ih =>
    have h : (s.put k b).txbs = s.txbs ∧ (s.put k b).groups = s.groups ∧ (s.put k b).encs = s.encs := by
      unfold State.put
      split <;> exact ⟨rfl, rfl, rfl⟩
    obtain ⟨h1, h2, h3⟩ := ih (s.put k b) (k + 1)
    exact ⟨h1.trans h.1, h2.trans h.2.1, h3.trans h.2.2⟩
theorem performN_rest (bs : List Byte) (s : State) (c k : Nat) (m : Bool) (o : Option Origin) :
    (s.performN c k m o bs).txbs = s.txbs ∧ (s.performN c k m o bs).groups = s.groups ∧ (s.performN c k m o bs).encs = s.encs := by
  unfold State.performN
  split
  · exact putN_rest _ _ _
  · exact ⟨rfl, rfl, rfl⟩
theorem observeN_eq (s : State) (c k n : Nat) (bs : List Byte) (hn : bs.length = n)
    (h : ∀ j, k ≤ j → j < k + bs.length → s.observe c j = bs[j - k]?.getD 0) : s.observeN c k n = bs := by
  unfold State.observeN
  apply List.ext_getElem
  · simp [hn]
  · intro i h1 h2
    simp only [List.getElem_map, List.getElem_range]
    rw [h _ (by omega) (by omega)]
    simp [h2]

/-! ## Lines -/

/-- A line that is held as wanted stays as it is. -/
theorem holdN_held {s : State} {k n : Nat} {want : Option (List Byte × Nat)}
    (h : ∀ i, i < (k + n - 1) / 64 + 1 - k / 64 → s.heldAs (k / 64 + i) = want) : s.holdN k n want = s := by
  unfold State.holdN
  have key (m : Nat) (hm : ∀ i, i < m → s.heldAs (k / 64 + i) = want) :
      (List.range m).foldl (fun (s : State) i => s.hold (k / 64 + i) want) s = s := by
    induction m with
    | zero => rfl
    | succ m ih =>
      rw [List.range_succ, List.foldl_append, ih fun i hi => hm i (by omega), List.foldl_cons, List.foldl_nil]
      unfold State.hold
      rw [if_pos (by simp [hm m (by omega)])]
  exact key _ h
/-- A write to plain memory, or outside it, as its performs. -/
theorem writeTgt_plain {s : State} {c k : Nat} {bs : List Byte} {o : Option Origin}
    (h : 2 ^ 48 ≤ k ∨ ∀ i, i < (k + bs.length - 1) / 64 + 1 - k / 64 → s.heldAs (k / 64 + i) = none) :
    s.writeTgt c (.bytes k none) bs o = if 2 ^ 66 ≤ k then s.putN k bs else s.performN c k false none bs := by
  have h1 : s.holdTgt (.bytes k none) bs.length = s := by
    unfold State.holdTgt Tgt.localKeys
    rw [List.foldl_cons, List.foldl_nil]
    rcases h with h | h
    · exact if_pos h
    · split
      · rfl
      · exact holdN_held h
  unfold State.writeTgt
  rw [h1]
/-- What the host reads at a key of no line that a change of bytes has touched. -/
theorem peek_congr {s t : State} {j : Nat} (he : t.encs = s.encs) (h1 : s.heldAs (j / 64) = none → t.shared j = s.shared j)
    (h2 : s.heldAs (j / 64) ≠ none → ∀ i, i < 64 → t.shared (j / 64 * 64 + i) = s.shared (j / 64 * 64 + i)) : t.peek j = s.peek j := by
  have hh : t.heldAs (j / 64) = s.heldAs (j / 64) := by unfold State.heldAs; rw [he]
  unfold State.peek State.viewed
  rw [hh]
  by_cases h : s.heldAs (j / 64) = none
  · rw [if_pos (by simp [h]), if_pos (by simp [h])]
    exact h1 h
  · rw [if_neg (by simpa using h), if_neg (by simpa using h)]
    have : ((List.range 64).map fun i => t.shared (j / 64 * 64 + i)) = (List.range 64).map fun i => s.shared (j / 64 * 64 + i) :=
      List.map_congr_left fun i hi => h2 h i (List.mem_range.mp hi)
    rw [this]
/-- A plain store's lane, where no initialised barrier lies in its bytes. -/
theorem storeLane_eq (s : State) (q : Op) (a : LaneAcc) (k : Nat) (hr : q.rel = false) (ht : a.tgt = .bytes k none)
    (hp : 2 ^ 48 ≤ k ∨ ∀ i, i < (k + a.data.length - 1) / 64 + 1 - k / 64 → s.heldAs (k / 64 + i) = none)
    (hb : (s.txbs.all fun b => k + q.size ≤ b || b + 16 ≤ k) = true) :
    s.storeLane q a = (if 2 ^ 66 ≤ k then s.putN k a.data else s.performN q.core k false none a.data).modOp q.id fun p =>
      p.setLane a.lane fun b => { b with st := .done } := by
  unfold State.storeLane
  dsimp only
  rw [hr, ht, writeTgt_plain hp]
  dsimp only
  congr 1
  unfold State.spoilBarriers
  dsimp only
  rw [List.filter_eq_nil_iff.mpr]
  · rfl
  · intro b hb2
    have hx : (if 2 ^ 66 ≤ k then s.putN k a.data else s.performN q.core k false none a.data).txbs = s.txbs := by
      split
      · exact (putN_rest _ _ _).1
      · exact (performN_rest _ _ _ _ _ _).1
    rw [hx] at hb2
    have := List.all_eq_true.mp hb b hb2
    simp at this ⊢
    omega

end Sys2Proof.Laws
end

