-- ==== Sys2Proof/Laws/Branches.lean ====
section
/-! SUPPORT. What a branch over paths does once: the split, its trace, and the trap of a split that takes too many entries. -/
namespace Sys2Proof.Laws
open Sys2Proof.Machine Sys2Proof.Safety

theorem branchTrace_onlyObs (u : Frag) (s : State) (ps : List BPath) : OnlyObs s (u.branchTrace s ps) :=
  OnlyObs.foldl (fun _ _ => branchPacket_onlyObs _ _ _ _ _ _ _) _ _
theorem insertPath_length (p : Word × Word) (l : List (Word × Word)) : (insertPath p l).length = l.length + 1 := by
  induction l with
  | nil => rfl
  | cons q qs ih => unfold insertPath; split <;> simp [ih]
theorem foldInsert_length (ps acc : List (Word × Word)) : (ps.foldl (fun acc p => insertPath p acc) acc).length = acc.length + ps.length := by
  induction ps generalizing acc with
  | nil => rfl
  | cons p ps ih => rw [List.foldl_cons, ih, insertPath_length, List.length_cons]; omega
theorem sortPaths_length (ps : List BPath) : (sortPaths (ps.map fun p => (p.lanes, p.pc))).length = (ps.filter fun p => p.lanes != 0).length := by
  unfold sortPaths
  rw [foldInsert_length, List.filter_map, List.length_map]
  simp; rfl
theorem split_none (g : Machine.Group) (e : Nat) (ps : List BPath) :
    g.split e (ps.map fun p => (p.lanes, p.pc)) = none ↔ 72 < g.used + created ps := by
  have hl := sortPaths_length ps
  have hu := used_le g
  unfold Group.split created
  generalize sortPaths (ps.map fun p => (p.lanes, p.pc)) = q at *
  cases q with
  | nil =>
    simp only [List.length_nil] at hl
    rw [← hl]
    simp
    omega
  | cons p qs =>
    simp only [List.length_cons] at hl
    rw [← hl]
    simp only [Nat.add_sub_cancel]
    split <;> simp <;> omega
theorem splitInto_past {s : State} {i : Instr} {g : Machine.Group} {e : Nat} {p : Parts} (h : Clear s i g e p) (ps : List BPath) :
    splitInto (frag g e p) (past s g e p) ps = none ↔ 72 < g.used + created ps := by
  unfold splitInto
  show ((past s g e p).group? g.id).bind _ = none ↔ _
  rw [past_group h, Option.bind_some, split_none, past_used]
theorem branched_queue (ps : Frag → State → List BPath) (after : Machine.Group → Machine.Group) (u : Frag) (s : State) : (branched ps after u s).jqueue = s.jqueue := by
  unfold branched
  split
  · exact (branchTrace_onlyObs u _ _).queue
  · rfl
theorem resumedTrace_onlyObs (s : State) (g : Machine.Group) : OnlyObs s (s.resumedTrace g) := by
  unfold State.resumedTrace
  split
  · exact .refl s
  · exact OnlyObs.foldl (fun _ _ => maskPacket_onlyObs _ _ _ _ _) _ _
theorem branch_eq (u : Frag) (s : State) (ps : List BPath) : u.branch s ps = match splitInto u s ps with
    | none => u.raise s trapSplit
    | some g => .ok (u.branchTrace (s.modGroup u.g.id fun _ => g) ps) := rfl
theorem modGroup_id (s : State) (g : Nat) : (s.modGroup g fun x => x) = s := by
  unfold State.modGroup
  simp
theorem branch_ok {s : State} {i : Instr} {g : Machine.Group} {e : Nat} {p : Parts} (h : Clear s i g e p) (ps : List BPath)
    (hr : g.used + created ps ≤ 72) (after : Machine.Group → Machine.Group) :
    ((frag g e p).branch (past s g e p) ps).after (fun s => s.modGroup g.id after) = .ok (branched (fun _ _ => ps) after (frag g e p) (past s g e p)) := by
  have hn : splitInto (frag g e p) (past s g e p) ps ≠ none := fun k => by have := (splitInto_past h ps).mp k; omega
  obtain ⟨g', hg⟩ := Option.ne_none_iff_exists'.mp hn
  unfold branched
  rw [branch_eq, hg]
  rfl
theorem branch_ok' {s : State} {i : Instr} {g : Machine.Group} {e : Nat} {p : Parts} (h : Clear s i g e p) (ps : List BPath)
    (hr : g.used + created ps ≤ 72) :
    (frag g e p).branch (past s g e p) ps = .ok (branched (fun _ _ => ps) id (frag g e p) (past s g e p)) := by
  rw [← branch_ok h ps hr]
  have : (fun s : State => s.modGroup g.id id) = id := funext fun s => modGroup_id s g.id
  rw [this]
  generalize (frag g e p).branch (past s g e p) ps = r
  cases r <;> rfl
theorem branch_trap {s : State} {i : Instr} {g : Machine.Group} {e : Nat} {p : Parts} (h : Clear s i g e p) (ps : List BPath)
    (hr : 72 < g.used + created ps) :
    (frag g e p).branch (past s g e p) ps = .trap (Trap.at_ trapSplit (g.entry e).pc) (past s g e p) (past s g e p) := by
  rw [branch_eq, (splitInto_past h ps).mpr hr]
  rfl

end Sys2Proof.Laws
end

