-- ==== Sys2Proof/Laws/Collectives.lean ====
section
/-! SUPPORT. What every collective does once, and the steps of `redux`. -/
namespace Sys2Proof.Laws
open Sys2Proof.Machine Sys2Proof.Safety

theorem togetherly_queue (body : Frag → Word → Word → Group → Group) (u : Frag) (s : State) : (togetherly body u s).jqueue = s.jqueue := by
  unfold togetherly
  simp only
  split
  · exact (maskPacket_onlyObs _ _ _ _ _).queue
  · rfl
theorem collective_apart {u : Frag} {s : State} {body : Word → Word → Group → Group} (h1 : u.m.modx.msel ≠ 0) :
    u.collective s body =
      if inMismatch u then .trap (Trap.at_ trapCollective u.x.pc) (u.upd s fun g => (mismatched u).foldl Group.mismatch g) s
      else if namedLanes u &&& ~~~gatheredLanes u ≠ 0 then .ok (s.modGroup u.g.id (awaits u))
      else .ok (togetherly (fun _ => body) u s) := by
  unfold Frag.collective
  rw [if_neg h1]
  by_cases hm : inMismatch u = true
  · rw [if_pos hm]
    exact if_pos hm
  · rw [if_neg hm]
    refine (if_neg hm).trans ?_
    by_cases h : namedLanes u &&& ~~~gatheredLanes u = 0
    · rw [if_neg (not_not.mpr h)]
      exact if_neg fun k => bne_iff_ne.mp k h
    · rw [if_pos h]
      exact if_pos (bne_iff_ne.mpr h)
theorem gathers_of {i : Instr} {body : Frag → Word → Word → Group → Group}
    (he : ∀ s g e p, Clear s i g e p → exec i s = issue i s fun u s => u.collective s (body u)) : Gathers i body := by
  refine ⟨fun s g e p h hp => ?_, fun s g e p h hp => ?_, fun s g e p h hp => ?_, fun s g e p h hp hm => ?_⟩
  · rw [he s g e p h]
    exact issue_ok h (if_pos hp) rfl
  · rw [he s g e p h]
    exact issue_ok h (by rw [collective_apart hp.1, if_neg (by simp [hp.2.1]), if_pos hp.2.2]) rfl
  · rw [he s g e p h]
    exact issue_ok h (by rw [collective_apart hp.1, if_neg (by simp [hp.2.1]), if_neg (not_not.mpr hp.2.2)]; rfl) (togetherly_queue body _ _)
  · intro t ht
    rw [he s g e p h]
    exact issue_trap h (by rw [collective_apart hp, if_pos hm]; rfl) ht
theorem gathers_congr {i : Instr} {a b : Frag → Word → Word → Group → Group} (h : ∀ u ex un g, a u ex un g = b u ex un g) (k : Gathers i a) : Gathers i b := by
  have : a = b := by funext u ex un g; exact h u ex un g
  exact this ▸ k
theorem shfl_of {i : Instr} {f : RF} {src : Frag → Nat → Nat → Option Nat} {v : Frag → Word → Nat → Word}
    (he : ∀ s, exec i s = issue i s fun u s => u.shfl s f (src u))
    (hv : ∀ u ex l, (match src u l (c32 false u f l).toNat with
      | some k => picked u f ex l k
      | none => u.g.getV f.b.toNat l) = v u ex l) :
    Gathers i (fun u ex union g => g.setV f.a.toNat (ex ||| unread u ex union) fun l => if laneIn ex l then v u ex l else 0) := by
  refine gathers_congr ?_ (gathers_of (body := fun u ex union g => g.putV false false f.a.toNat ex (if u.m.modx.z then union &&& ~~~ex else 0) fun l =>
      match src u l (u.g.opnd u.m false false f l) with
      | some k => if laneThere ex u.g.gw k then u.g.vVal false f.b.toNat k else u.g.vVal false f.b.toNat l
      | none => u.g.vVal false f.b.toNat l) fun s _ _ _ _ => he s)
  intro u ex un g
  simp only [Group.putV, Bool.false_eq_true, if_false, unread]
  congr 1
  funext l
  split
  · rw [← hv, opnd_c32]
    split
    · unfold picked laneThere
      split <;> simp [vVal_one]
    · simp [vVal_one]
  · rfl
theorem reduxStep_eq (code : Nat) (a b : Word) : BitVec.ofNat 32 (reduxStep code a.toNat b.toNat) = reduxOp code a b := by
  rcases code with _ | _ | _ | _ | _ | _ | _ | n
  · exact BitVec.eq_of_toNat_eq (by simp [reduxStep, reduxOp])
  · exact minBits_ofNat false a b
  · exact minBits_ofNat true a b
  · exact maxBits_ofNat false a b
  · exact maxBits_ofNat true a b
  · exact land_ofNat a b
  · exact lor_ofNat a b
  · exact xor_ofNat a b
theorem reduxStep_lt (code : Nat) (a b : Word) : reduxStep code a.toNat b.toNat < 2 ^ 32 := by
  have := a.isLt
  have := b.isLt
  unfold reduxStep
  split
  · omega
  iterate 2 (unfold minBits; split <;> omega)
  iterate 2 (unfold maxBits; split <;> omega)
  · exact lt_of_le_of_lt Nat.and_le_left a.isLt
  · exact Nat.or_lt_two_pow a.isLt b.isLt
  · exact Nat.xor_lt_two_pow a.isLt b.isLt
theorem redux_fold (code : Nat) (v : Nat → Word) (ls : List Nat) (a : Word) :
    BitVec.ofNat 32 (ls.foldl (fun (a : Nat) l => reduxStep code a (v l).toNat) a.toNat) = ls.foldl (fun (a : Word) l => reduxOp code a (v l)) a := by
  induction ls generalizing a with
  | nil => simp
  | cons l ls ih =>
    have : reduxStep code a.toNat (v l).toNat = (reduxOp code a (v l)).toNat := by
      rw [← reduxStep_eq, BitVec.toNat_ofNat, Nat.mod_eq_of_lt (reduxStep_lt code a (v l))]
    rw [List.foldl_cons, List.foldl_cons, this, ih]
theorem reduxUnit_eq (code : Nat) : reduxUnit code = (reduxId code).toNat := by
  rcases code with _ | _ | _ | _ | _ | _ | n <;> rfl

end Sys2Proof.Laws
end

