-- ==== Sys2Proof/Laws/Devices.lean ====
section
/-! SUPPORT. Steps of the device: commands, registers, placing and power. -/
namespace Sys2Proof.Laws
open Sys2Proof.Machine Sys2Proof.Safety

theorem copy_cases {k : OpKind} (h : isCopy k = true) : (∃ a b, k = .copyT a b) ∨ k = .copyL := by
  cases k <;> first | exact .inl ⟨_, _, rfl⟩ | exact .inr rfl | cases h
theorem regWrite {s t : State} {off : Nat} {data : List Byte} (h : data.length = 8) (ha : off % 8 = 0) (hl : off < 0x10000)
   (he : s.writeReg off (ofBytes data) = t) : Steps (.registerWrite off data) s t := by
  refine steps_of (execRegisterWrite off data s) rfl rfl ?_
  rw [if_neg (by simp; omega), if_pos (by simp [h, ha])]
  exact he
theorem runCmd_of {s : State} {c opc : Nat} {k : Cmd} (h : Next s c opc k) (f : Cmd → State → State) : s.runCmd c opc f = f k (s.beginCmd k) := by
  unfold State.runCmd
  rw [show s.nextCmd c opc = some k from h]
theorem defaults_eq (b : List Byte) : defaultsOf (b.drop 32) =
  { cores := argOf b 32 2, vregs := argOf b 34 2, spad := argOf b 36 4, priv := argOf b 40 4,
                     prio := argOf b 44 1 % 8, weight := argOf b 46 2, fdom := false, fpin := false } := by
  unfold defaultsOf argOf
  simp only [List.drop_drop]
theorem nextAttest_of {s : State} {c m : Nat} {k : Cmd} (h : Next s c 10 k) (hm : argOf k.bytes 24 1 = m) : s.nextAttest c m = true := by
  unfold State.nextAttest
  rw [show s.nextCmd c 10 = some k from h, Option.map_some, hm]; simp
theorem place_of {s : State} {r : Nat} {x : Region} (cores : List Nat) {t : State} (h : s.region? r = some x) (h1 : s.turnOf x = true) (h2 : x.kind = 1)
  (he : s.placeGrid x cores = t) : Steps (.workgroupPlace r cores) s t := by
  refine steps_of (execWorkgroupPlace r cores s) rfl rfl ?_
  rw [h]
  dsimp only
  rw [if_neg (by rw [h1]; decide), if_pos (by simp [h2])]
  exact he
theorem power_of (s : State) (f k : Power → Power) (h : f s.power = k s.power) : s.modPower f = withPower k s := by
  unfold State.modPower withPower
  rw [h]
theorem withPower_id (s : State) : withPower (fun p => p) s = s := rfl
theorem power_id (s : State) (f : Power → Power) (h : f s.power = s.power) : s.modPower f = s := by
  unfold State.modPower
  rw [h]

end Sys2Proof.Laws
end

