-- ==== Sys2Proof/Laws/PerInstr.lean ====
section
/-! SUPPORT. What holds of every instruction as syntax, said once per constructor: the decoder's table gives back the instruction
whose opcode, modifier words and fields the encoder's table names, and the opcode is that of an instruction word. -/
namespace Sys2Proof.Laws

/-- The format of an instruction word's fields. -/
def fmtOfFields : Fields → Fmt
  | .r _ => .r
  | .i _ => .i
  | .m _ => .m
  | .b _ => .b
  | .w _ => .w
  | .brm _ _ => .brm

/-- The parts of an instruction lead back to it: its opcode is no modifier word's (R105), the table of Table 07-7 read forwards
and backwards agrees on it, and so do the formats. -/
def Units.Statement (i : Instr) : Prop :=
  ∀ p, i.parts = some p → p.op < 0xF0 ∧ Instr.ofParts p.op p.mods p.f = some i ∧ fmtOf p.op = fmtOfFields p.f

/-- A unit. -/
theorem units_of {i : Instr} {p : Parts} (h : i.parts = some p)
    (k : p.op < 0xF0 ∧ Instr.ofParts p.op p.mods p.f = some i ∧ fmtOf p.op = fmtOfFields p.f) : Units.Statement i := by
  intro q hq
  rw [h] at hq
  cases hq
  exact k

/-- A step of the device, which has no words. -/
theorem units_none {i : Instr} (h : i.parts = none) : Units.Statement i := by
  intro q hq
  rw [h] at hq
  cases hq

theorem Units.acceptRead (n : Nat) : Units.Statement (.acceptRead n) := units_none rfl
theorem Units.jackWrite (v : Nat) : Units.Statement (.jackWrite v) := units_none rfl
theorem Units.ctxCreate (c : Nat) : Units.Statement (.ctxCreate c) := units_none rfl
theorem Units.ctxDestroy (c : Nat) : Units.Statement (.ctxDestroy c) := units_none rfl
theorem Units.contextCloseComplete (c : Nat) : Units.Statement (.contextCloseComplete c) := units_none rfl
theorem Units.load (c : Nat) : Units.Statement (.load c) := units_none rfl
theorem Units.unload (c : Nat) : Units.Statement (.unload c) := units_none rfl
theorem Units.start (c : Nat) : Units.Statement (.start c) := units_none rfl
theorem Units.transfer (c : Nat) : Units.Statement (.transfer c) := units_none rfl
theorem Units.migrateOut (c : Nat) : Units.Statement (.migrateOut c) := units_none rfl
theorem Units.migrateIn (c : Nat) : Units.Statement (.migrateIn c) := units_none rfl
theorem Units.jsign (c : Nat) : Units.Statement (.jsign c) := units_none rfl
theorem Units.attestReport (c : Nat) : Units.Statement (.attestReport c) := units_none rfl
theorem Units.attestKeyInstall (c : Nat) : Units.Statement (.attestKeyInstall c) := units_none rfl
theorem Units.xinvWrite (v : Nat) : Units.Statement (.xinvWrite v) := units_none rfl
theorem Units.devnumWrite (v : Nat) : Units.Statement (.devnumWrite v) := units_none rfl
theorem Units.dbgHalt (c : Nat) : Units.Statement (.dbgHalt c) := units_none rfl
theorem Units.dbgResume (c : Nat) : Units.Statement (.dbgResume c) := units_none rfl
theorem Units.dbgSave (c : Nat) : Units.Statement (.dbgSave c) := units_none rfl
theorem Units.bpWrite (n : Nat) (high : Bool) (v : Nat) : Units.Statement (.bpWrite n high v) := units_none rfl
theorem Units.sampleTick (core slot : Nat) : Units.Statement (.sampleTick core slot) := units_none rfl
theorem Units.trdWrite (v : Nat) : Units.Statement (.trdWrite v) := units_none rfl
theorem Units.linkRead (p : Nat) : Units.Statement (.linkRead p) := units_none rfl
theorem Units.registerWrite (off : Nat) (data : List Byte) : Units.Statement (.registerWrite off data) := units_none rfl
theorem Units.hostWindowBRead (a n : Nat) : Units.Statement (.hostWindowBRead a n) := units_none rfl
theorem Units.hostWindowBWrite (a : Nat) (data : List Byte) (poison : Bool) : Units.Statement (.hostWindowBWrite a data poison) := units_none rfl
theorem Units.hostAtomicRequest (k : HostAtomic) (a n : Nat) (x y : Nat) : Units.Statement (.hostAtomicRequest k a n x y) := units_none rfl
theorem Units.workgroupPlace (r : Nat) (cores : List Nat) : Units.Statement (.workgroupPlace r cores) := units_none rfl
theorem Units.pipelineStart (r : Nat) (cores : List Nat) : Units.Statement (.pipelineStart r cores) := units_none rfl
theorem Units.seedPush (r : Nat) : Units.Statement (.seedPush r) := units_none rfl
theorem Units.qpushComplete (r q : Nat) : Units.Statement (.qpushComplete r q) := units_none rfl
theorem Units.qpopComplete (r q : Nat) : Units.Statement (.qpopComplete r q) := units_none rfl
theorem Units.dresserSample (r core : Nat) : Units.Statement (.dresserSample r core) := units_none rfl
theorem Units.loadComplete (o : Nat) (lanes : Word) : Units.Statement (.loadComplete o lanes) := units_none rfl
theorem Units.storePerform (o : Nat) (lanes : Word) : Units.Statement (.storePerform o lanes) := units_none rfl
theorem Units.copySectorLand (o k : Nat) : Units.Statement (.copySectorLand o k) := units_none rfl
theorem Units.copySourceReadDone (o : Nat) : Units.Statement (.copySourceReadDone o) := units_none rfl
theorem Units.benchGrant (cl : Nat) : Units.Statement (.benchGrant cl) := units_none rfl
theorem Units.mmaPassComplete (cl : Nat) : Units.Statement (.mmaPassComplete cl) := units_none rfl
theorem Units.dataFaultDetect (o : Nat) (lanes : Word) (cause : Byte) : Units.Statement (.dataFaultDetect o lanes cause) := units_none rfl
theorem Units.remoteAccessReceive (q : PeerAccess) (pa port : Nat) : Units.Statement (.remoteAccessReceive q pa port) := units_none rfl
theorem Units.remoteAccessComplete (o lane : Nat) (data : List Byte) (poison : Bool) : Units.Statement (.remoteAccessComplete o lane data poison) := units_none rfl
theorem Units.remoteTimeout (o lane : Nat) : Units.Statement (.remoteTimeout o lane) := units_none rfl
theorem Units.flitReceive (p : Nat) (good : Bool) : Units.Statement (.flitReceive p good) := units_none rfl
theorem Units.linkDown (p : Nat) : Units.Statement (.linkDown p) := units_none rfl
theorem Units.linkUp (p : Nat) (enc admitted : Bool) : Units.Statement (.linkUp p enc admitted) := units_none rfl
theorem Units.linkKeyRenewal (p : Nat) : Units.Statement (.linkKeyRenewal p) := units_none rfl
theorem Units.throttleNotification (c : Nat) : Units.Statement (.throttleNotification c) := units_none rfl
theorem Units.preempt (why : PreemptWhy) : Units.Statement (.preempt why) := units_none rfl
theorem Units.preemptSaveComplete (w : Nat) : Units.Statement (.preemptSaveComplete w) := units_none rfl
theorem Units.groupRestore (w : Nat) (cores : List Nat) : Units.Statement (.groupRestore w cores) := units_none rfl
theorem Units.stallSample (cl core n : Nat) : Units.Statement (.stallSample cl core n) := units_none rfl
theorem Units.levelChangeComplete (isl : Nat) : Units.Statement (.levelChangeComplete isl) := units_none rfl
theorem Units.boostRefill (power : Nat) : Units.Statement (.boostRefill power) := units_none rfl
theorem Units.withholdLevelUpdate (cl n : Nat) : Units.Statement (.withholdLevelUpdate cl n) := units_none rfl
theorem Units.junctionTemperatureChange (die t : Nat) : Units.Statement (.junctionTemperatureChange die t) := units_none rfl
theorem Units.telemetryFrame (v : Nat) : Units.Statement (.telemetryFrame v) := units_none rfl
theorem Units.unassignedOpcodeUnit (code : Reject) : Units.Statement (.unassignedOpcodeUnit code) := units_none rfl
theorem Units.engineOperandRead (o k : Nat) : Units.Statement (.engineOperandRead o k) := units_none rfl
theorem Units.softError (w : SoftError) : Units.Statement (.softError w) := units_none rfl
theorem Units.nop (m : Mods) (f : RF) : Units.Statement (.nop m f) := units_of rfl ⟨Nat.le_of_ble_eq_true rfl, rfl, rfl⟩
theorem Units.bra (m : Mods) (f : BF) : Units.Statement (.bra m f) := units_of rfl ⟨Nat.le_of_ble_eq_true rfl, rfl, rfl⟩
theorem Units.brc (m : Mods) (f : IF) : Units.Statement (.brc m f) := units_of rfl ⟨Nat.le_of_ble_eq_true rfl, rfl, rfl⟩
theorem Units.brcU (m : Mods) (f : IF) : Units.Statement (.brcU m f) := units_of rfl ⟨Nat.le_of_ble_eq_true rfl, rfl, rfl⟩
theorem Units.brm (m : Mods) (f : RF) (ts : List Target) : Units.Statement (.brm m f ts) := units_of rfl ⟨Nat.le_of_ble_eq_true rfl, rfl, rfl⟩
theorem Units.jset (m : Mods) (f : BF) : Units.Statement (.jset m f) := units_of rfl ⟨Nat.le_of_ble_eq_true rfl, rfl, rfl⟩
theorem Units.join (m : Mods) (f : RF) : Units.Statement (.join m f) := units_of rfl ⟨Nat.le_of_ble_eq_true rfl, rfl, rfl⟩
theorem Units.call (m : Mods) (f : IF) : Units.Statement (.call m f) := units_of rfl ⟨Nat.le_of_ble_eq_true rfl, rfl, rfl⟩
theorem Units.callU (m : Mods) (f : IF) : Units.Statement (.callU m f) := units_of rfl ⟨Nat.le_of_ble_eq_true rfl, rfl, rfl⟩
theorem Units.ret (m : Mods) (f : RF) : Units.Statement (.ret m f) := units_of rfl ⟨Nat.le_of_ble_eq_true rfl, rfl, rfl⟩
theorem Units.retU (m : Mods) (f : RF) : Units.Statement (.retU m f) := units_of rfl ⟨Nat.le_of_ble_eq_true rfl, rfl, rfl⟩
theorem Units.jmpi (m : Mods) (f : RF) : Units.Statement (.jmpi m f) := units_of rfl ⟨Nat.le_of_ble_eq_true rfl, rfl, rfl⟩
theorem Units.exit (m : Mods) (f : RF) : Units.Statement (.exit m f) := units_of rfl ⟨Nat.le_of_ble_eq_true rfl, rfl, rfl⟩
theorem Units.sadd32 (m : Mods) (f : RF) : Units.Statement (.sadd32 m f) := units_of rfl ⟨Nat.le_of_ble_eq_true rfl, rfl, rfl⟩
theorem Units.sadd64 (m : Mods) (f : RF) : Units.Statement (.sadd64 m f) := units_of rfl ⟨Nat.le_of_ble_eq_true rfl, rfl, rfl⟩
theorem Units.ssub32 (m : Mods) (f : RF) : Units.Statement (.ssub32 m f) := units_of rfl ⟨Nat.le_of_ble_eq_true rfl, rfl, rfl⟩
theorem Units.ssub64 (m : Mods) (f : RF) : Units.Statement (.ssub64 m f) := units_of rfl ⟨Nat.le_of_ble_eq_true rfl, rfl, rfl⟩
theorem Units.smul32 (m : Mods) (f : RF) : Units.Statement (.smul32 m f) := units_of rfl ⟨Nat.le_of_ble_eq_true rfl, rfl, rfl⟩
theorem Units.smul64 (m : Mods) (f : RF) : Units.Statement (.smul64 m f) := units_of rfl ⟨Nat.le_of_ble_eq_true rfl, rfl, rfl⟩
theorem Units.smulhI32 (m : Mods) (f : RF) : Units.Statement (.smulhI32 m f) := units_of rfl ⟨Nat.le_of_ble_eq_true rfl, rfl, rfl⟩
theorem Units.smulhN32 (m : Mods) (f : RF) : Units.Statement (.smulhN32 m f) := units_of rfl ⟨Nat.le_of_ble_eq_true rfl, rfl, rfl⟩
theorem Units.sand (m : Mods) (f : RF) : Units.Statement (.sand m f) := units_of rfl ⟨Nat.le_of_ble_eq_true rfl, rfl, rfl⟩
theorem Units.sor (m : Mods) (f : RF) : Units.Statement (.sor m f) := units_of rfl ⟨Nat.le_of_ble_eq_true rfl, rfl, rfl⟩
theorem Units.sxor (m : Mods) (f : RF) : Units.Statement (.sxor m f) := units_of rfl ⟨Nat.le_of_ble_eq_true rfl, rfl, rfl⟩
theorem Units.sshl (m : Mods) (f : RF) : Units.Statement (.sshl m f) := units_of rfl ⟨Nat.le_of_ble_eq_true rfl, rfl, rfl⟩
theorem Units.sshr (m : Mods) (f : RF) : Units.Statement (.sshr m f) := units_of rfl ⟨Nat.le_of_ble_eq_true rfl, rfl, rfl⟩
theorem Units.ssar (m : Mods) (f : RF) : Units.Statement (.ssar m f) := units_of rfl ⟨Nat.le_of_ble_eq_true rfl, rfl, rfl⟩
theorem Units.sminI32 (m : Mods) (f : RF) : Units.Statement (.sminI32 m f) := units_of rfl ⟨Nat.le_of_ble_eq_true rfl, rfl, rfl⟩
theorem Units.sminN32 (m : Mods) (f : RF) : Units.Statement (.sminN32 m f) := units_of rfl ⟨Nat.le_of_ble_eq_true rfl, rfl, rfl⟩
theorem Units.smaxI32 (m : Mods) (f : RF) : Units.Statement (.smaxI32 m f) := units_of rfl ⟨Nat.le_of_ble_eq_true rfl, rfl, rfl⟩
theorem Units.smaxN32 (m : Mods) (f : RF) : Units.Statement (.smaxN32 m f) := units_of rfl ⟨Nat.le_of_ble_eq_true rfl, rfl, rfl⟩
theorem Units.scmpEq (m : Mods) (f : RF) : Units.Statement (.scmpEq m f) := units_of rfl ⟨Nat.le_of_ble_eq_true rfl, rfl, rfl⟩
theorem Units.scmpNe (m : Mods) (f : RF) : Units.Statement (.scmpNe m f) := units_of rfl ⟨Nat.le_of_ble_eq_true rfl, rfl, rfl⟩
theorem Units.scmpLtI32 (m : Mods) (f : RF) : Units.Statement (.scmpLtI32 m f) := units_of rfl ⟨Nat.le_of_ble_eq_true rfl, rfl, rfl⟩
theorem Units.scmpLtN32 (m : Mods) (f : RF) : Units.Statement (.scmpLtN32 m f) := units_of rfl ⟨Nat.le_of_ble_eq_true rfl, rfl, rfl⟩
theorem Units.scmpLeI32 (m : Mods) (f : RF) : Units.Statement (.scmpLeI32 m f) := units_of rfl ⟨Nat.le_of_ble_eq_true rfl, rfl, rfl⟩
theorem Units.scmpLeN32 (m : Mods) (f : RF) : Units.Statement (.scmpLeN32 m f) := units_of rfl ⟨Nat.le_of_ble_eq_true rfl, rfl, rfl⟩
theorem Units.scmpGtI32 (m : Mods) (f : RF) : Units.Statement (.scmpGtI32 m f) := units_of rfl ⟨Nat.le_of_ble_eq_true rfl, rfl, rfl⟩
theorem Units.scmpGtN32 (m : Mods) (f : RF) : Units.Statement (.scmpGtN32 m f) := units_of rfl ⟨Nat.le_of_ble_eq_true rfl, rfl, rfl⟩
theorem Units.scmpGeI32 (m : Mods) (f : RF) : Units.Statement (.scmpGeI32 m f) := units_of rfl ⟨Nat.le_of_ble_eq_true rfl, rfl, rfl⟩
theorem Units.scmpGeN32 (m : Mods) (f : RF) : Units.Statement (.scmpGeN32 m f) := units_of rfl ⟨Nat.le_of_ble_eq_true rfl, rfl, rfl⟩
theorem Units.ssel (m : Mods) (f : RF) : Units.Statement (.ssel m f) := units_of rfl ⟨Nat.le_of_ble_eq_true rfl, rfl, rfl⟩
theorem Units.smovi (m : Mods) (f : IF) : Units.Statement (.smovi m f) := units_of rfl ⟨Nat.le_of_ble_eq_true rfl, rfl, rfl⟩
theorem Units.sldB32 (m : Mods) (f : MF) : Units.Statement (.sldB32 m f) := units_of rfl ⟨Nat.le_of_ble_eq_true rfl, rfl, rfl⟩
theorem Units.sldB64 (m : Mods) (f : MF) : Units.Statement (.sldB64 m f) := units_of rfl ⟨Nat.le_of_ble_eq_true rfl, rfl, rfl⟩
theorem Units.iadd32 (m : Mods) (f : RF) : Units.Statement (.iadd32 m f) := units_of rfl ⟨Nat.le_of_ble_eq_true rfl, rfl, rfl⟩
theorem Units.iadd64 (m : Mods) (f : RF) : Units.Statement (.iadd64 m f) := units_of rfl ⟨Nat.le_of_ble_eq_true rfl, rfl, rfl⟩
theorem Units.isub32 (m : Mods) (f : RF) : Units.Statement (.isub32 m f) := units_of rfl ⟨Nat.le_of_ble_eq_true rfl, rfl, rfl⟩
theorem Units.isub64 (m : Mods) (f : RF) : Units.Statement (.isub64 m f) := units_of rfl ⟨Nat.le_of_ble_eq_true rfl, rfl, rfl⟩
theorem Units.imul32 (m : Mods) (f : RF) : Units.Statement (.imul32 m f) := units_of rfl ⟨Nat.le_of_ble_eq_true rfl, rfl, rfl⟩
theorem Units.imul64 (m : Mods) (f : RF) : Units.Statement (.imul64 m f) := units_of rfl ⟨Nat.le_of_ble_eq_true rfl, rfl, rfl⟩
theorem Units.imad (m : Mods) (f : RF) : Units.Statement (.imad m f) := units_of rfl ⟨Nat.le_of_ble_eq_true rfl, rfl, rfl⟩
theorem Units.imulhI32 (m : Mods) (f : RF) : Units.Statement (.imulhI32 m f) := units_of rfl ⟨Nat.le_of_ble_eq_true rfl, rfl, rfl⟩
theorem Units.imulhN32 (m : Mods) (f : RF) : Units.Statement (.imulhN32 m f) := units_of rfl ⟨Nat.le_of_ble_eq_true rfl, rfl, rfl⟩
theorem Units.iand (m : Mods) (f : RF) : Units.Statement (.iand m f) := units_of rfl ⟨Nat.le_of_ble_eq_true rfl, rfl, rfl⟩
theorem Units.ior (m : Mods) (f : RF) : Units.Statement (.ior m f) := units_of rfl ⟨Nat.le_of_ble_eq_true rfl, rfl, rfl⟩
theorem Units.ixor (m : Mods) (f : RF) : Units.Statement (.ixor m f) := units_of rfl ⟨Nat.le_of_ble_eq_true rfl, rfl, rfl⟩
theorem Units.ishl32 (m : Mods) (f : RF) : Units.Statement (.ishl32 m f) := units_of rfl ⟨Nat.le_of_ble_eq_true rfl, rfl, rfl⟩
theorem Units.ishl64 (m : Mods) (f : RF) : Units.Statement (.ishl64 m f) := units_of rfl ⟨Nat.le_of_ble_eq_true rfl, rfl, rfl⟩
theorem Units.ishr32 (m : Mods) (f : RF) : Units.Statement (.ishr32 m f) := units_of rfl ⟨Nat.le_of_ble_eq_true rfl, rfl, rfl⟩
theorem Units.ishr64 (m : Mods) (f : RF) : Units.Statement (.ishr64 m f) := units_of rfl ⟨Nat.le_of_ble_eq_true rfl, rfl, rfl⟩
theorem Units.isar32 (m : Mods) (f : RF) : Units.Statement (.isar32 m f) := units_of rfl ⟨Nat.le_of_ble_eq_true rfl, rfl, rfl⟩
theorem Units.isar64 (m : Mods) (f : RF) : Units.Statement (.isar64 m f) := units_of rfl ⟨Nat.le_of_ble_eq_true rfl, rfl, rfl⟩
theorem Units.iminI32 (m : Mods) (f : RF) : Units.Statement (.iminI32 m f) := units_of rfl ⟨Nat.le_of_ble_eq_true rfl, rfl, rfl⟩
theorem Units.iminN32 (m : Mods) (f : RF) : Units.Statement (.iminN32 m f) := units_of rfl ⟨Nat.le_of_ble_eq_true rfl, rfl, rfl⟩
theorem Units.imaxI32 (m : Mods) (f : RF) : Units.Statement (.imaxI32 m f) := units_of rfl ⟨Nat.le_of_ble_eq_true rfl, rfl, rfl⟩
theorem Units.imaxN32 (m : Mods) (f : RF) : Units.Statement (.imaxN32 m f) := units_of rfl ⟨Nat.le_of_ble_eq_true rfl, rfl, rfl⟩
theorem Units.iabs (m : Mods) (f : RF) : Units.Statement (.iabs m f) := units_of rfl ⟨Nat.le_of_ble_eq_true rfl, rfl, rfl⟩
theorem Units.popcB32 (m : Mods) (f : RF) : Units.Statement (.popcB32 m f) := units_of rfl ⟨Nat.le_of_ble_eq_true rfl, rfl, rfl⟩
theorem Units.popcB64 (m : Mods) (f : RF) : Units.Statement (.popcB64 m f) := units_of rfl ⟨Nat.le_of_ble_eq_true rfl, rfl, rfl⟩
theorem Units.clzB32 (m : Mods) (f : RF) : Units.Statement (.clzB32 m f) := units_of rfl ⟨Nat.le_of_ble_eq_true rfl, rfl, rfl⟩
theorem Units.clzB64 (m : Mods) (f : RF) : Units.Statement (.clzB64 m f) := units_of rfl ⟨Nat.le_of_ble_eq_true rfl, rfl, rfl⟩
theorem Units.brev (m : Mods) (f : RF) : Units.Statement (.brev m f) := units_of rfl ⟨Nat.le_of_ble_eq_true rfl, rfl, rfl⟩
theorem Units.bfeI32 (m : Mods) (f : RF) : Units.Statement (.bfeI32 m f) := units_of rfl ⟨Nat.le_of_ble_eq_true rfl, rfl, rfl⟩
theorem Units.bfeN32 (m : Mods) (f : RF) : Units.Statement (.bfeN32 m f) := units_of rfl ⟨Nat.le_of_ble_eq_true rfl, rfl, rfl⟩
theorem Units.bfi (m : Mods) (f : RF) : Units.Statement (.bfi m f) := units_of rfl ⟨Nat.le_of_ble_eq_true rfl, rfl, rfl⟩
theorem Units.icmpI32 (m : Mods) (f : RF) : Units.Statement (.icmpI32 m f) := units_of rfl ⟨Nat.le_of_ble_eq_true rfl, rfl, rfl⟩
theorem Units.icmpN32 (m : Mods) (f : RF) : Units.Statement (.icmpN32 m f) := units_of rfl ⟨Nat.le_of_ble_eq_true rfl, rfl, rfl⟩
theorem Units.icmpI64 (m : Mods) (f : RF) : Units.Statement (.icmpI64 m f) := units_of rfl ⟨Nat.le_of_ble_eq_true rfl, rfl, rfl⟩
theorem Units.icmpN64 (m : Mods) (f : RF) : Units.Statement (.icmpN64 m f) := units_of rfl ⟨Nat.le_of_ble_eq_true rfl, rfl, rfl⟩
theorem Units.iselB32 (m : Mods) (f : RF) : Units.Statement (.iselB32 m f) := units_of rfl ⟨Nat.le_of_ble_eq_true rfl, rfl, rfl⟩
theorem Units.iselB64 (m : Mods) (f : RF) : Units.Statement (.iselB64 m f) := units_of rfl ⟨Nat.le_of_ble_eq_true rfl, rfl, rfl⟩
theorem Units.mand (m : Mods) (f : RF) : Units.Statement (.mand m f) := units_of rfl ⟨Nat.le_of_ble_eq_true rfl, rfl, rfl⟩
theorem Units.mor (m : Mods) (f : RF) : Units.Statement (.mor m f) := units_of rfl ⟨Nat.le_of_ble_eq_true rfl, rfl, rfl⟩
theorem Units.mxor (m : Mods) (f : RF) : Units.Statement (.mxor m f) := units_of rfl ⟨Nat.le_of_ble_eq_true rfl, rfl, rfl⟩
theorem Units.mnot (m : Mods) (f : RF) : Units.Statement (.mnot m f) := units_of rfl ⟨Nat.le_of_ble_eq_true rfl, rfl, rfl⟩
theorem Units.mpopc (m : Mods) (f : RF) : Units.Statement (.mpopc m f) := units_of rfl ⟨Nat.le_of_ble_eq_true rfl, rfl, rfl⟩
theorem Units.mfirst (m : Mods) (f : RF) : Units.Statement (.mfirst m f) := units_of rfl ⟨Nat.le_of_ble_eq_true rfl, rfl, rfl⟩
theorem Units.vote (m : Mods) (f : RF) : Units.Statement (.vote m f) := units_of rfl ⟨Nat.le_of_ble_eq_true rfl, rfl, rfl⟩
theorem Units.shflIdx (m : Mods) (f : RF) : Units.Statement (.shflIdx m f) := units_of rfl ⟨Nat.le_of_ble_eq_true rfl, rfl, rfl⟩
theorem Units.shflUp (m : Mods) (f : RF) : Units.Statement (.shflUp m f) := units_of rfl ⟨Nat.le_of_ble_eq_true rfl, rfl, rfl⟩
theorem Units.shflDown (m : Mods) (f : RF) : Units.Statement (.shflDown m f) := units_of rfl ⟨Nat.le_of_ble_eq_true rfl, rfl, rfl⟩
theorem Units.shflXor (m : Mods) (f : RF) : Units.Statement (.shflXor m f) := units_of rfl ⟨Nat.le_of_ble_eq_true rfl, rfl, rfl⟩
theorem Units.rdlane (m : Mods) (f : RF) : Units.Statement (.rdlane m f) := units_of rfl ⟨Nat.le_of_ble_eq_true rfl, rfl, rfl⟩
theorem Units.wrlane (m : Mods) (f : RF) : Units.Statement (.wrlane m f) := units_of rfl ⟨Nat.le_of_ble_eq_true rfl, rfl, rfl⟩
theorem Units.bcast (m : Mods) (f : RF) : Units.Statement (.bcast m f) := units_of rfl ⟨Nat.le_of_ble_eq_true rfl, rfl, rfl⟩
theorem Units.redux (m : Mods) (f : RF) : Units.Statement (.redux m f) := units_of rfl ⟨Nat.le_of_ble_eq_true rfl, rfl, rfl⟩
theorem Units.faddF32 (m : Mods) (f : RF) : Units.Statement (.faddF32 m f) := units_of rfl ⟨Nat.le_of_ble_eq_true rfl, rfl, rfl⟩
theorem Units.faddF16x2 (m : Mods) (f : RF) : Units.Statement (.faddF16x2 m f) := units_of rfl ⟨Nat.le_of_ble_eq_true rfl, rfl, rfl⟩
theorem Units.fsubF32 (m : Mods) (f : RF) : Units.Statement (.fsubF32 m f) := units_of rfl ⟨Nat.le_of_ble_eq_true rfl, rfl, rfl⟩
theorem Units.fsubF16x2 (m : Mods) (f : RF) : Units.Statement (.fsubF16x2 m f) := units_of rfl ⟨Nat.le_of_ble_eq_true rfl, rfl, rfl⟩
theorem Units.fmulF32 (m : Mods) (f : RF) : Units.Statement (.fmulF32 m f) := units_of rfl ⟨Nat.le_of_ble_eq_true rfl, rfl, rfl⟩
theorem Units.fmulF16x2 (m : Mods) (f : RF) : Units.Statement (.fmulF16x2 m f) := units_of rfl ⟨Nat.le_of_ble_eq_true rfl, rfl, rfl⟩
theorem Units.ffmaF32 (m : Mods) (f : RF) : Units.Statement (.ffmaF32 m f) := units_of rfl ⟨Nat.le_of_ble_eq_true rfl, rfl, rfl⟩
theorem Units.ffmaF16x2 (m : Mods) (f : RF) : Units.Statement (.ffmaF16x2 m f) := units_of rfl ⟨Nat.le_of_ble_eq_true rfl, rfl, rfl⟩
theorem Units.fminF32 (m : Mods) (f : RF) : Units.Statement (.fminF32 m f) := units_of rfl ⟨Nat.le_of_ble_eq_true rfl, rfl, rfl⟩
theorem Units.fminF16x2 (m : Mods) (f : RF) : Units.Statement (.fminF16x2 m f) := units_of rfl ⟨Nat.le_of_ble_eq_true rfl, rfl, rfl⟩
theorem Units.fmaxF32 (m : Mods) (f : RF) : Units.Statement (.fmaxF32 m f) := units_of rfl ⟨Nat.le_of_ble_eq_true rfl, rfl, rfl⟩
theorem Units.fmaxF16x2 (m : Mods) (f : RF) : Units.Statement (.fmaxF16x2 m f) := units_of rfl ⟨Nat.le_of_ble_eq_true rfl, rfl, rfl⟩
theorem Units.fcmp (m : Mods) (f : RF) : Units.Statement (.fcmp m f) := units_of rfl ⟨Nat.le_of_ble_eq_true rfl, rfl, rfl⟩
theorem Units.fclass (m : Mods) (f : RF) : Units.Statement (.fclass m f) := units_of rfl ⟨Nat.le_of_ble_eq_true rfl, rfl, rfl⟩
theorem Units.frcp (m : Mods) (f : RF) : Units.Statement (.frcp m f) := units_of rfl ⟨Nat.le_of_ble_eq_true rfl, rfl, rfl⟩
theorem Units.frsq (m : Mods) (f : RF) : Units.Statement (.frsq m f) := units_of rfl ⟨Nat.le_of_ble_eq_true rfl, rfl, rfl⟩
theorem Units.fsqrt (m : Mods) (f : RF) : Units.Statement (.fsqrt m f) := units_of rfl ⟨Nat.le_of_ble_eq_true rfl, rfl, rfl⟩
theorem Units.fexp2 (m : Mods) (f : RF) : Units.Statement (.fexp2 m f) := units_of rfl ⟨Nat.le_of_ble_eq_true rfl, rfl, rfl⟩
theorem Units.flog2 (m : Mods) (f : RF) : Units.Statement (.flog2 m f) := units_of rfl ⟨Nat.le_of_ble_eq_true rfl, rfl, rfl⟩
theorem Units.fsin (m : Mods) (f : RF) : Units.Statement (.fsin m f) := units_of rfl ⟨Nat.le_of_ble_eq_true rfl, rfl, rfl⟩
theorem Units.fcos (m : Mods) (f : RF) : Units.Statement (.fcos m f) := units_of rfl ⟨Nat.le_of_ble_eq_true rfl, rfl, rfl⟩
theorem Units.cvtF32 (m : Mods) (f : RF) : Units.Statement (.cvtF32 m f) := units_of rfl ⟨Nat.le_of_ble_eq_true rfl, rfl, rfl⟩
theorem Units.cvtF16 (m : Mods) (f : RF) : Units.Statement (.cvtF16 m f) := units_of rfl ⟨Nat.le_of_ble_eq_true rfl, rfl, rfl⟩
theorem Units.cvtBf16 (m : Mods) (f : RF) : Units.Statement (.cvtBf16 m f) := units_of rfl ⟨Nat.le_of_ble_eq_true rfl, rfl, rfl⟩
theorem Units.cvtInt32 (m : Mods) (f : RF) : Units.Statement (.cvtInt32 m f) := units_of rfl ⟨Nat.le_of_ble_eq_true rfl, rfl, rfl⟩
theorem Units.cvtInt64 (m : Mods) (f : RF) : Units.Statement (.cvtInt64 m f) := units_of rfl ⟨Nat.le_of_ble_eq_true rfl, rfl, rfl⟩
theorem Units.cvtSmall (m : Mods) (f : RF) : Units.Statement (.cvtSmall m f) := units_of rfl ⟨Nat.le_of_ble_eq_true rfl, rfl, rfl⟩
theorem Units.kbpack (m : Mods) (f : RF) : Units.Statement (.kbpack m f) := units_of rfl ⟨Nat.le_of_ble_eq_true rfl, rfl, rfl⟩
theorem Units.kbunpack (m : Mods) (f : RF) : Units.Statement (.kbunpack m f) := units_of rfl ⟨Nat.le_of_ble_eq_true rfl, rfl, rfl⟩
theorem Units.ldN8 (m : Mods) (f : MF) : Units.Statement (.ldN8 m f) := units_of rfl ⟨Nat.le_of_ble_eq_true rfl, rfl, rfl⟩
theorem Units.ldI8 (m : Mods) (f : MF) : Units.Statement (.ldI8 m f) := units_of rfl ⟨Nat.le_of_ble_eq_true rfl, rfl, rfl⟩
theorem Units.ldN16 (m : Mods) (f : MF) : Units.Statement (.ldN16 m f) := units_of rfl ⟨Nat.le_of_ble_eq_true rfl, rfl, rfl⟩
theorem Units.ldI16 (m : Mods) (f : MF) : Units.Statement (.ldI16 m f) := units_of rfl ⟨Nat.le_of_ble_eq_true rfl, rfl, rfl⟩
theorem Units.ldB32 (m : Mods) (f : MF) : Units.Statement (.ldB32 m f) := units_of rfl ⟨Nat.le_of_ble_eq_true rfl, rfl, rfl⟩
theorem Units.ldB64 (m : Mods) (f : MF) : Units.Statement (.ldB64 m f) := units_of rfl ⟨Nat.le_of_ble_eq_true rfl, rfl, rfl⟩
theorem Units.st8 (m : Mods) (f : MF) : Units.Statement (.st8 m f) := units_of rfl ⟨Nat.le_of_ble_eq_true rfl, rfl, rfl⟩
theorem Units.st16 (m : Mods) (f : MF) : Units.Statement (.st16 m f) := units_of rfl ⟨Nat.le_of_ble_eq_true rfl, rfl, rfl⟩
theorem Units.stB32 (m : Mods) (f : MF) : Units.Statement (.stB32 m f) := units_of rfl ⟨Nat.le_of_ble_eq_true rfl, rfl, rfl⟩
theorem Units.stB64 (m : Mods) (f : MF) : Units.Statement (.stB64 m f) := units_of rfl ⟨Nat.le_of_ble_eq_true rfl, rfl, rfl⟩
theorem Units.ldsB32 (m : Mods) (f : MF) : Units.Statement (.ldsB32 m f) := units_of rfl ⟨Nat.le_of_ble_eq_true rfl, rfl, rfl⟩
theorem Units.ldsB64 (m : Mods) (f : MF) : Units.Statement (.ldsB64 m f) := units_of rfl ⟨Nat.le_of_ble_eq_true rfl, rfl, rfl⟩
theorem Units.stsB32 (m : Mods) (f : MF) : Units.Statement (.stsB32 m f) := units_of rfl ⟨Nat.le_of_ble_eq_true rfl, rfl, rfl⟩
theorem Units.stsB64 (m : Mods) (f : MF) : Units.Statement (.stsB64 m f) := units_of rfl ⟨Nat.le_of_ble_eq_true rfl, rfl, rfl⟩
theorem Units.atom32 (m : Mods) (f : MF) : Units.Statement (.atom32 m f) := units_of rfl ⟨Nat.le_of_ble_eq_true rfl, rfl, rfl⟩
theorem Units.atom64 (m : Mods) (f : MF) : Units.Statement (.atom64 m f) := units_of rfl ⟨Nat.le_of_ble_eq_true rfl, rfl, rfl⟩
theorem Units.red32 (m : Mods) (f : MF) : Units.Statement (.red32 m f) := units_of rfl ⟨Nat.le_of_ble_eq_true rfl, rfl, rfl⟩
theorem Units.red64 (m : Mods) (f : MF) : Units.Statement (.red64 m f) := units_of rfl ⟨Nat.le_of_ble_eq_true rfl, rfl, rfl⟩
theorem Units.pref (m : Mods) (f : MF) : Units.Statement (.pref m f) := units_of rfl ⟨Nat.le_of_ble_eq_true rfl, rfl, rfl⟩
theorem Units.cpyT (m : Mods) (f : RF) : Units.Statement (.cpyT m f) := units_of rfl ⟨Nat.le_of_ble_eq_true rfl, rfl, rfl⟩
theorem Units.cpyLB32 (m : Mods) (f : RF) : Units.Statement (.cpyLB32 m f) := units_of rfl ⟨Nat.le_of_ble_eq_true rfl, rfl, rfl⟩
theorem Units.cpyLB64 (m : Mods) (f : RF) : Units.Statement (.cpyLB64 m f) := units_of rfl ⟨Nat.le_of_ble_eq_true rfl, rfl, rfl⟩
theorem Units.cpyLB128 (m : Mods) (f : RF) : Units.Statement (.cpyLB128 m f) := units_of rfl ⟨Nat.le_of_ble_eq_true rfl, rfl, rfl⟩
theorem Units.txbInit (m : Mods) (f : MF) : Units.Statement (.txbInit m f) := units_of rfl ⟨Nat.le_of_ble_eq_true rfl, rfl, rfl⟩
theorem Units.txbArrive (m : Mods) (f : MF) : Units.Statement (.txbArrive m f) := units_of rfl ⟨Nat.le_of_ble_eq_true rfl, rfl, rfl⟩
theorem Units.txbExpect (m : Mods) (f : MF) : Units.Statement (.txbExpect m f) := units_of rfl ⟨Nat.le_of_ble_eq_true rfl, rfl, rfl⟩
theorem Units.txbWait (m : Mods) (f : MF) : Units.Statement (.txbWait m f) := units_of rfl ⟨Nat.le_of_ble_eq_true rfl, rfl, rfl⟩
theorem Units.sbq (m : Mods) (f : RF) : Units.Statement (.sbq m f) := units_of rfl ⟨Nat.le_of_ble_eq_true rfl, rfl, rfl⟩
theorem Units.poisq (m : Mods) (f : RF) : Units.Statement (.poisq m f) := units_of rfl ⟨Nat.le_of_ble_eq_true rfl, rfl, rfl⟩
theorem Units.poisclr (m : Mods) (f : RF) : Units.Statement (.poisclr m f) := units_of rfl ⟨Nat.le_of_ble_eq_true rfl, rfl, rfl⟩
theorem Units.mma (m : Mods) (f : RF) : Units.Statement (.mma m f) := units_of rfl ⟨Nat.le_of_ble_eq_true rfl, rfl, rfl⟩
theorem Units.mzero (m : Mods) (f : RF) : Units.Statement (.mzero m f) := units_of rfl ⟨Nat.le_of_ble_eq_true rfl, rfl, rfl⟩
theorem Units.tset (m : Mods) (f : MF) : Units.Statement (.tset m f) := units_of rfl ⟨Nat.le_of_ble_eq_true rfl, rfl, rfl⟩
theorem Units.tfield (m : Mods) (f : RF) : Units.Statement (.tfield m f) := units_of rfl ⟨Nat.le_of_ble_eq_true rfl, rfl, rfl⟩
theorem Units.tget (m : Mods) (f : RF) : Units.Statement (.tget m f) := units_of rfl ⟨Nat.le_of_ble_eq_true rfl, rfl, rfl⟩
theorem Units.benchq (m : Mods) (f : RF) : Units.Statement (.benchq m f) := units_of rfl ⟨Nat.le_of_ble_eq_true rfl, rfl, rfl⟩
theorem Units.wait (m : Mods) (f : WF) : Units.Statement (.wait m f) := units_of rfl ⟨Nat.le_of_ble_eq_true rfl, rfl, rfl⟩
theorem Units.wgsync (m : Mods) (f : RF) : Units.Statement (.wgsync m f) := units_of rfl ⟨Nat.le_of_ble_eq_true rfl, rfl, rfl⟩
theorem Units.fence (m : Mods) (f : RF) : Units.Statement (.fence m f) := units_of rfl ⟨Nat.le_of_ble_eq_true rfl, rfl, rfl⟩
theorem Units.qpush (m : Mods) (f : RF) : Units.Statement (.qpush m f) := units_of rfl ⟨Nat.le_of_ble_eq_true rfl, rfl, rfl⟩
theorem Units.qpop (m : Mods) (f : RF) : Units.Statement (.qpop m f) := units_of rfl ⟨Nat.le_of_ble_eq_true rfl, rfl, rfl⟩
theorem Units.qtry (m : Mods) (f : RF) : Units.Statement (.qtry m f) := units_of rfl ⟨Nat.le_of_ble_eq_true rfl, rfl, rfl⟩
theorem Units.tdone (m : Mods) (f : RF) : Units.Statement (.tdone m f) := units_of rfl ⟨Nat.le_of_ble_eq_true rfl, rfl, rfl⟩
theorem Units.fetchw (m : Mods) (f : MF) : Units.Statement (.fetchw m f) := units_of rfl ⟨Nat.le_of_ble_eq_true rfl, rfl, rfl⟩
theorem Units.launch (m : Mods) (f : RF) : Units.Statement (.launch m f) := units_of rfl ⟨Nat.le_of_ble_eq_true rfl, rfl, rfl⟩
theorem Units.sleep (m : Mods) (f : IF) : Units.Statement (.sleep m f) := units_of rfl ⟨Nat.le_of_ble_eq_true rfl, rfl, rfl⟩
theorem Units.trap (m : Mods) (f : IF) : Units.Statement (.trap m f) := units_of rfl ⟨Nat.le_of_ble_eq_true rfl, rfl, rfl⟩
theorem Units.rfe (m : Mods) (f : RF) : Units.Statement (.rfe m f) := units_of rfl ⟨Nat.le_of_ble_eq_true rfl, rfl, rfl⟩
theorem Units.getsr (m : Mods) (f : IF) : Units.Statement (.getsr m f) := units_of rfl ⟨Nat.le_of_ble_eq_true rfl, rfl, rfl⟩
theorem Units.setsr (m : Mods) (f : IF) : Units.Statement (.setsr m f) := units_of rfl ⟨Nat.le_of_ble_eq_true rfl, rfl, rfl⟩
theorem Units.featq (m : Mods) (f : RF) : Units.Statement (.featq m f) := units_of rfl ⟨Nat.le_of_ble_eq_true rfl, rfl, rfl⟩
theorem Units.setperf (m : Mods) (f : RF) : Units.Statement (.setperf m f) := units_of rfl ⟨Nat.le_of_ble_eq_true rfl, rfl, rfl⟩
theorem Units.xfer (m : Mods) (f : RF) : Units.Statement (.xfer m f) := units_of rfl ⟨Nat.le_of_ble_eq_true rfl, rfl, rfl⟩
theorem Units.kill (m : Mods) (f : RF) : Units.Statement (.kill m f) := units_of rfl ⟨Nat.le_of_ble_eq_true rfl, rfl, rfl⟩
theorem Units.brk (m : Mods) (f : IF) : Units.Statement (.brk m f) := units_of rfl ⟨Nat.le_of_ble_eq_true rfl, rfl, rfl⟩
theorem Units.trace (m : Mods) (f : IF) : Units.Statement (.trace m f) := units_of rfl ⟨Nat.le_of_ble_eq_true rfl, rfl, rfl⟩
theorem Units.time (m : Mods) (f : RF) : Units.Statement (.time m f) := units_of rfl ⟨Nat.le_of_ble_eq_true rfl, rfl, rfl⟩
theorem Units.sigq (m : Mods) (f : RF) : Units.Statement (.sigq m f) := units_of rfl ⟨Nat.le_of_ble_eq_true rfl, rfl, rfl⟩
theorem Units.coldReset : Units.Statement (.coldReset) := units_none rfl
theorem Units.warmReset : Units.Statement (.warmReset) := units_none rfl
theorem Units.msixHoldoffExpiry : Units.Statement (.msixHoldoffExpiry) := units_none rfl
theorem Units.fwUpdate : Units.Statement (.fwUpdate) := units_none rfl
theorem Units.xinvComplete : Units.Statement (.xinvComplete) := units_none rfl
theorem Units.debugSaveDeferred : Units.Statement (.debugSaveDeferred) := units_none rfl
theorem Units.sampleDump : Units.Statement (.sampleDump) := units_none rfl
theorem Units.pstatRead : Units.Statement (.pstatRead) := units_none rfl
theorem Units.sampRead : Units.Statement (.sampRead) := units_none rfl
theorem Units.errsRead : Units.Statement (.errsRead) := units_none rfl
theorem Units.deadlockWindowExpiry : Units.Statement (.deadlockWindowExpiry) := units_none rfl
theorem Units.fetchwMailboxComplete : Units.Statement (.fetchwMailboxComplete) := units_none rfl
theorem Units.sleepExpiry : Units.Statement (.sleepExpiry) := units_none rfl
theorem Units.boostTokenCharge : Units.Statement (.boostTokenCharge) := units_none rfl
theorem Units.telemetryLoss : Units.Statement (.telemetryLoss) := units_none rfl
theorem Units.shedClass : Units.Statement (.shedClass) := units_none rfl
theorem Units.shedPreemptTimeout : Units.Statement (.shedPreemptTimeout) := units_none rfl
theorem Units.classRestore : Units.Statement (.classRestore) := units_none rfl
theorem Units.codeFetchFault : Units.Statement (.codeFetchFault) := units_none rfl

end Sys2Proof.Laws
end

