-- ==== Sys2Proof/Laws/Encoding.lean ====
section
/-! SUPPORT. The encoder's words: what each field of a word reads back as, and that modifier words and fields are taken from them
as they were put. -/
namespace Sys2Proof.Laws

theorem bitN_lt (b : Bool) : bitN b < 2 := by cases b <;> decide
theorem bitN_bit (b : Bool) : (bitN b == 1) = b := by cases b <;> rfl
theorem modh_word (h : ModH) (s : Bool) :
    modKind (h.toWord s).toNat = .h ∧ bitOf (h.toWord s).toNat 0 = s ∧ ModH.ofWord (h.toWord s).toNat = h := by
  obtain ⟨y, p, r⟩ := h
  have hr := r.isLt
  have hy := bitN_lt y
  have hp := bitN_lt p
  have hs := bitN_lt s
  have e : (ModH.toWord ⟨y, p, r⟩ s).toNat = 0x7A * 2 ^ 25 + bitN y * 2 ^ 24 + bitN p * 2 ^ 23 + r.toNat * 2 + bitN s := by
    unfold ModH.toWord
    rw [BitVec.toNat_ofNat, Nat.mod_eq_of_lt]
    dsimp only
    omega
  rw [e]
  refine ⟨?_, ?_, ?_⟩
  · unfold modKind bitsOf
    rw [if_neg (by simp; omega)]
    rw [show (0x7A * 2 ^ 25 + bitN y * 2 ^ 24 + bitN p * 2 ^ 23 + r.toNat * 2 + bitN s) / 2 ^ 25 % 2 ^ (31 + 1 - 25) = 0x7A by omega]
    rfl
  · unfold bitOf
    rw [show (0x7A * 2 ^ 25 + bitN y * 2 ^ 24 + bitN p * 2 ^ 23 + r.toNat * 2 + bitN s) / 2 ^ 0 % 2 = bitN s by omega]
    exact bitN_bit s
  · unfold ModH.ofWord bitOf bitsOf
    congr 1
    · rw [show (0x7A * 2 ^ 25 + bitN y * 2 ^ 24 + bitN p * 2 ^ 23 + r.toNat * 2 + bitN s) / 2 ^ 24 % 2 = bitN y by omega]
      exact bitN_bit y
    · rw [show (0x7A * 2 ^ 25 + bitN y * 2 ^ 24 + bitN p * 2 ^ 23 + r.toNat * 2 + bitN s) / 2 ^ 23 % 2 = bitN p by omega]
      exact bitN_bit p
    · apply BitVec.eq_of_toNat_eq
      rw [BitVec.toNat_ofNat]
      omega
theorem modx_word (x : ModX) (s : Bool) :
    modKind (x.toWord s).toNat = .x ∧ bitOf (x.toWord s).toNat 0 = s ∧ ModX.ofWord (x.toWord s).toNat = x := by
  obtain ⟨ms, z, rnd, d4, re, u, od, sc⟩ := x
  have h1 := ms.isLt
  have h2 := rnd.isLt
  have h3 := d4.isLt
  have h4 := re.isLt
  have h5 := od.isLt
  have h6 := sc.isLt
  have hz := bitN_lt z
  have hu := bitN_lt u
  have hs := bitN_lt s
  have e : (ModX.toWord ⟨ms, z, rnd, d4, re, u, od, sc⟩ s).toNat = 0x78 * 2 ^ 25 + ms.toNat * 2 ^ 21 + bitN z * 2 ^ 20 + rnd.toNat * 2 ^ 17 +
      d4.toNat * 2 ^ 10 + re.toNat * 2 ^ 7 + bitN u * 2 ^ 6 + od.toNat * 2 ^ 4 + sc.toNat * 2 + bitN s := by
    unfold ModX.toWord
    rw [BitVec.toNat_ofNat, Nat.mod_eq_of_lt]
    dsimp only
    omega
  rw [e]
  generalize hw : 0x78 * 2 ^ 25 + ms.toNat * 2 ^ 21 + bitN z * 2 ^ 20 + rnd.toNat * 2 ^ 17 +
      d4.toNat * 2 ^ 10 + re.toNat * 2 ^ 7 + bitN u * 2 ^ 6 + od.toNat * 2 ^ 4 + sc.toNat * 2 + bitN s = w
  refine ⟨?_, ?_, ?_⟩
  · unfold modKind bitsOf
    rw [if_neg (by simp; omega)]
    rw [show w / 2 ^ 25 % 2 ^ (31 + 1 - 25) = 0x78 by omega]
    rfl
  · unfold bitOf
    rw [show w / 2 ^ 0 % 2 = bitN s by omega]
    exact bitN_bit s
  · unfold ModX.ofWord bitOf bitsOf
    congr 1
    · apply BitVec.eq_of_toNat_eq; rw [BitVec.toNat_ofNat]; omega
    · rw [show w / 2 ^ 20 % 2 = bitN z by omega]; exact bitN_bit z
    · apply BitVec.eq_of_toNat_eq; rw [BitVec.toNat_ofNat]; omega
    · apply BitVec.eq_of_toNat_eq; rw [BitVec.toNat_ofNat]; omega
    · apply BitVec.eq_of_toNat_eq; rw [BitVec.toNat_ofNat]; omega
    · rw [show w / 2 ^ 6 % 2 = bitN u by omega]; exact bitN_bit u
    · apply BitVec.eq_of_toNat_eq; rw [BitVec.toNat_ofNat]; omega
    · apply BitVec.eq_of_toNat_eq; rw [BitVec.toNat_ofNat]; omega
theorem modi_word (v : BitVec 24) (s : Bool) :
    modKind (modiWord v s).toNat = .i ∧ bitOf (modiWord v s).toNat 0 = s ∧ BitVec.ofNat 24 (bitsOf (modiWord v s).toNat 24 1) = v := by
  have hv := v.isLt
  have hs := bitN_lt s
  have e : (modiWord v s).toNat = 0x79 * 2 ^ 25 + v.toNat * 2 + bitN s := by
    unfold modiWord
    rw [BitVec.toNat_ofNat, Nat.mod_eq_of_lt]
    omega
  rw [e]
  refine ⟨?_, ?_, ?_⟩
  · unfold modKind bitsOf
    rw [if_neg (by simp; omega)]
    rw [show (0x79 * 2 ^ 25 + v.toNat * 2 + bitN s) / 2 ^ 25 % 2 ^ (31 + 1 - 25) = 0x79 by omega]
    rfl
  · unfold bitOf
    rw [show (0x79 * 2 ^ 25 + v.toNat * 2 + bitN s) / 2 ^ 0 % 2 = bitN s by omega]
    exact bitN_bit s
  · unfold bitsOf
    apply BitVec.eq_of_toNat_eq; rw [BitVec.toNat_ofNat]; omega
/-- The number that an instruction word is. -/
def fieldsNum : Fields → Nat
  | .r f | .brm f _ => f.a.toNat * 2 ^ 17 + f.b.toNat * 2 ^ 10 + f.c.toNat * 2 ^ 3 + f.k.toNat * 2
  | .i f => f.a.toNat * 2 ^ 17 + f.imm.toNat * 2
  | .m f => f.data.toNat * 2 ^ 17 + f.addr.toNat * 2 ^ 10 + f.off.toNat * 2
  | .b f => f.off.toNat * 2
  | .w f => f.ld.toNat * 2 ^ 18 + f.st.toNat * 2 ^ 13 + f.cp.toNat * 2 ^ 6 + f.mx.toNat * 2 ^ 2 + f.zero.toNat * 2
theorem num_lt (f : Fields) : fieldsNum f ≤ 2 ^ 24 - 2 := by
  cases f with
  | r f => have h1 := f.a.isLt; have h2 := f.b.isLt; have h3 := f.c.isLt; have h4 := f.k.isLt; simp only [fieldsNum]; omega
  | brm f => have h1 := f.a.isLt; have h2 := f.b.isLt; have h3 := f.c.isLt; have h4 := f.k.isLt; simp only [fieldsNum]; omega
  | i f => have h1 := f.a.isLt; have h2 := f.imm.isLt; simp only [fieldsNum]; omega
  | m f => have h1 := f.data.isLt; have h2 := f.addr.isLt; have h3 := f.off.isLt; simp only [fieldsNum]; omega
  | b f => have h1 := f.off.isLt; simp only [fieldsNum]; omega
  | w f => have h1 := f.ld.isLt; have h2 := f.st.isLt; have h3 := f.cp.isLt; have h4 := f.mx.isLt; have h5 := f.zero.isLt; simp only [fieldsNum]; omega
theorem toWord_num (op : Nat) (s : Bool) (f : Fields) (ho : op < 256) : (f.toWord op s).toNat = op * 2 ^ 24 + fieldsNum f + bitN s := by
  have h1 := num_lt f
  have h2 := bitN_lt s
  cases f <;> simp only [fieldsNum] at h1 ⊢ <;> simp only [Fields.toWord] <;> rw [BitVec.toNat_ofNat, Nat.mod_eq_of_lt] <;> omega
theorem num_even (f : Fields) : fieldsNum f % 2 = 0 := by
  cases f <;> simp only [fieldsNum] <;> omega
theorem word_fields (op : Nat) (s : Bool) (f : Fields) (ho : op < 240) :
    modKind (f.toWord op s).toNat = .none ∧ bitOf (f.toWord op s).toNat 0 = s ∧ bitsOf (f.toWord op s).toNat 31 24 = op := by
  have h1 := num_lt f
  have h2 := bitN_lt s
  have h3 := num_even f
  rw [toWord_num op s f (by omega)]
  refine ⟨?_, ?_, ?_⟩
  · unfold modKind bitsOf
    rw [if_pos (by simp; omega)]
  · unfold bitOf
    rw [show (op * 2 ^ 24 + fieldsNum f + bitN s) / 2 ^ 0 % 2 = bitN s by omega]
    exact bitN_bit s
  · unfold bitsOf
    omega
theorem fields_of (op : Nat) (s : Bool) (f : Fields) (ho : op < 256) (hf : ∀ r ts, f ≠ .brm r ts) (m : Mods) (rest : List Word)
    (hfmt : fmtOf op = fmtOfFields f)
    (hop : bitsOf (f.toWord op s).toNat 31 24 = op) :
    takeFields m (f.toWord op s) rest = .ok (m, f) := by
  have h2 := bitN_lt s
  unfold takeFields
  dsimp only
  rw [hop, hfmt, toWord_num op s f ho]
  cases f with
  | r f =>
    have h1 := f.a.isLt; have h2 := f.b.isLt; have h3 := f.c.isLt; have h4 := f.k.isLt
    show (Except.ok (m, Fields.r (RF.ofWord _)) : Except Reject (Mods × Fields)) = _
    simp only [fieldsNum]
    congr 3
    unfold RF.ofWord bitsOf
    congr 1 <;> apply BitVec.eq_of_toNat_eq <;> rw [BitVec.toNat_ofNat] <;> omega
  | brm f ts => exact absurd rfl (hf f ts)
  | i f =>
    have h1 := f.a.isLt; have h2 := f.imm.isLt
    show (Except.ok (m, Fields.i (IF.ofWord _)) : Except Reject (Mods × Fields)) = _
    simp only [fieldsNum]
    congr 3
    unfold IF.ofWord bitsOf
    congr 1 <;> apply BitVec.eq_of_toNat_eq <;> rw [BitVec.toNat_ofNat] <;> omega
  | m f =>
    have h1 := f.data.isLt; have h2 := f.addr.isLt; have h3 := f.off.isLt
    show (Except.ok (m, Fields.m (MF.ofWord _)) : Except Reject (Mods × Fields)) = _
    simp only [fieldsNum]
    congr 3
    unfold MF.ofWord bitsOf
    congr 1 <;> apply BitVec.eq_of_toNat_eq <;> rw [BitVec.toNat_ofNat] <;> omega
  | b f =>
    have h1 := f.off.isLt
    show (Except.ok (m, Fields.b (BF.ofWord _)) : Except Reject (Mods × Fields)) = _
    simp only [fieldsNum]
    congr 3
    unfold BF.ofWord bitsOf
    congr 1 <;> apply BitVec.eq_of_toNat_eq <;> rw [BitVec.toNat_ofNat] <;> omega
  | w f =>
    have h1 := f.ld.isLt; have h2 := f.st.isLt; have h3 := f.cp.isLt; have h4 := f.mx.isLt; have h5 := f.zero.isLt
    show (Except.ok (m, Fields.w (WF.ofWord _)) : Except Reject (Mods × Fields)) = _
    simp only [fieldsNum]
    congr 3
    unfold WF.ofWord bitsOf
    congr 1 <;> apply BitVec.eq_of_toNat_eq <;> rw [BitVec.toNat_ofNat] <;> omega
theorem target_word (t : Target) : bitOf t.toWord.toNat 0 = false ∧ Target.ofWord t.toWord.toNat = t := by
  obtain ⟨ms, off⟩ := t
  have h1 := ms.isLt; have h2 := off.isLt
  have e : (Target.toWord ⟨ms, off⟩).toNat = ms.toNat * 2 ^ 28 + off.toNat * 2 := by
    unfold Target.toWord
    rw [BitVec.toNat_ofNat, Nat.mod_eq_of_lt]
    dsimp only; omega
  rw [e]
  refine ⟨?_, ?_⟩
  · unfold bitOf; rw [show (ms.toNat * 2 ^ 28 + off.toNat * 2) / 2 ^ 0 % 2 = 0 by omega]; rfl
  · unfold Target.ofWord bitsOf
    congr 1 <;> apply BitVec.eq_of_toNat_eq <;> rw [BitVec.toNat_ofNat] <;> omega
theorem fields_brm (s : Bool) (f : RF) (ts : List Target) (m : Mods) (rest : List Word) (ha : f.a.toNat < 4) (hl : ts.length = f.a.toNat + 1)
    (hop : bitsOf ((Fields.brm f ts).toWord 5 s).toNat 31 24 = 5) :
    takeFields m ((Fields.brm f ts).toWord 5 s) (ts.map Target.toWord ++ rest) = .ok (m, .brm f ts) := by
  have h1 := f.a.isLt; have h2 := f.b.isLt; have h3 := f.c.isLt; have h4 := f.k.isLt
  have h5 := bitN_lt s
  unfold takeFields
  dsimp only
  rw [hop, toWord_num 5 s _ (by decide)]
  simp only [fieldsNum]
  have hn : bitsOf (5 * 2 ^ 24 + (f.a.toNat * 2 ^ 17 + f.b.toNat * 2 ^ 10 + f.c.toNat * 2 ^ 3 + f.k.toNat * 2) + bitN s) 18 17 = f.a.toNat := by
    unfold bitsOf; omega
  have ht : (ts.map Target.toWord ++ rest).take (f.a.toNat + 1) = ts.map Target.toWord := by
    rw [List.take_left' (by simpa using hl)]
  simp only [show fmtOf 5 = .brm from rfl, hn, ht]
  rw [if_neg (by simp; omega)]
  have hany : (ts.map Target.toWord).any (fun t => bitOf t.toNat 0) = false := by
    rw [List.any_eq_false]
    intro w hw
    obtain ⟨t, _, rfl⟩ := List.mem_map.mp hw
    rw [(target_word t).1]; decide
  have hmap : (ts.map Target.toWord).map (fun t => Target.ofWord t.toNat) = ts := by
    rw [List.map_map]
    conv_rhs => rw [← List.map_id ts]
    exact List.map_congr_left fun t _ => (target_word t).2
  rw [hany, hmap, Bool.or_false]
  congr 3
  congr 1
  unfold RF.ofWord bitsOf
  congr 1 <;> apply BitVec.eq_of_toNat_eq <;> rw [BitVec.toNat_ofNat] <;> omega
theorem take_main {m : Mods} {n rank : Nat} {w : Word} {ws : List Word} (hk : modKind w.toNat = .none) :
    takeMods m n rank (w :: ws) = .ok (if n = 0 then { m with stop := bitOf w.toNat 0 } else { m with stray := m.stray || bitOf w.toNat 0 }, w, ws) := by
  rw [takeMods]
  rw [hk]
  cases n <;> rfl
theorem take_h {m : Mods} {w : Word} {ws : List Word} (hk : modKind w.toNat = .h) :
    takeMods m 0 0 (w :: ws) = takeMods { m with stop := bitOf w.toNat 0, h := some (ModH.ofWord w.toNat) } 1 1 ws := by
  rw [takeMods]
  rw [hk]
  rfl
theorem take_x {m : Mods} {n rank : Nat} {w : Word} {ws : List Word} (hk : modKind w.toNat = .x) (hn : n < 2) (hr : rank < 2) :
    takeMods m n rank (w :: ws) = takeMods { (if n = 0 then { m with stop := bitOf w.toNat 0 } else { m with stray := m.stray || bitOf w.toNat 0 } : Mods) with
      x := some (ModX.ofWord w.toNat) } (n + 1) 2 ws := by
  rw [takeMods]
  dsimp only
  rw [hk]
  dsimp only
  rw [if_neg (by simp; omega)]
  cases n <;> rfl
theorem take_i {m : Mods} {n rank : Nat} {w : Word} {ws : List Word} (hk : modKind w.toNat = .i) (hn : n < 2) (hr : rank < 3) :
    takeMods m n rank (w :: ws) = takeMods { (if n = 0 then { m with stop := bitOf w.toNat 0 } else { m with stray := m.stray || bitOf w.toNat 0 } : Mods) with
      i := some (BitVec.ofNat 24 (bitsOf w.toNat 24 1)) } (n + 1) 3 ws := by
  rw [takeMods]
  dsimp only
  rw [hk]
  dsimp only
  rw [if_neg (by simp; omega)]
  cases n <;> rfl
theorem take_encode (p : Parts) (rest : List Word) (ho : p.op < 240) (hs : p.mods.stray = false)
    (h3 : (p.mods.h.isSome && p.mods.x.isSome && p.mods.i.isSome) = false) :
    ∃ s', takeMods Mods.bare 0 0 (p.encode ++ rest) = .ok (p.mods, p.f.toWord p.op s', p.f.targets ++ rest) := by
  obtain ⟨op, ⟨stop, h, x, i, stray⟩, f⟩ := p
  dsimp only at *
  subst hs
  have hm (s') := word_fields op s' f ho
  unfold Parts.encode
  dsimp only
  cases h with
  | none =>
    cases x with
    | none =>
      cases i with
      | none => exact ⟨stop, by simp only [List.cons_append]; rw [take_main (hm _).1, (hm _).2.1]; rfl⟩
      | some i =>
        obtain ⟨k1, k2, k3⟩ := modi_word i stop
        exact ⟨false, by simp only [List.cons_append]; rw [take_i k1 (by decide) (by decide), take_main (hm _).1, (hm _).2.1, k2, k3]; rfl⟩
    | some x =>
      obtain ⟨j1, j2, j3⟩ := modx_word x stop
      cases i with
      | none => exact ⟨false, by simp only [List.cons_append]; rw [take_x j1 (by decide) (by decide), take_main (hm _).1, (hm _).2.1, j2, j3]; rfl⟩
      | some i =>
        obtain ⟨k1, k2, k3⟩ := modi_word i false
        exact ⟨false, by simp only [List.cons_append]; rw [take_x j1 (by decide) (by decide), take_i k1 (by decide) (by decide), take_main (hm _).1, (hm _).2.1, j2, j3, k2, k3]; rfl⟩
  | some h =>
    obtain ⟨l1, l2, l3⟩ := modh_word h stop
    cases x with
    | none =>
      cases i with
      | none => exact ⟨false, by simp only [List.cons_append]; rw [take_h l1, take_main (hm _).1, (hm _).2.1, l2, l3]; rfl⟩
      | some i =>
        obtain ⟨k1, k2, k3⟩ := modi_word i false
        exact ⟨false, by simp only [List.cons_append]; rw [take_h l1, take_i k1 (by decide) (by decide), take_main (hm _).1, (hm _).2.1, l2, l3, k2, k3]; rfl⟩
    | some x =>
      obtain ⟨j1, j2, j3⟩ := modx_word x false
      cases i with
      | none => exact ⟨false, by simp only [List.cons_append]; rw [take_h l1, take_x j1 (by decide) (by decide), take_main (hm _).1, (hm _).2.1, j2, j3, l2, l3]; rfl⟩
      | some i => simp at h3

end Sys2Proof.Laws
end

