-- ==== Sys2Proof/Laws/Floats.lean ====
section
/-! SUPPORT. Floating point: how the meanings read their operands and halves, and the order of exact values that `fmin` and `fmax` follow. -/
namespace Sys2Proof.Laws
open Sys2Proof.Machine Sys2Proof.Safety

/-! ## Operands and results -/

theorem toSigned_ofNat (w : Nat) (hw : 0 < w) (x : Nat) : toSigned w x = (BitVec.ofNat w x).toInt := by
  rw [← toSigned_toNat hw, BitVec.toNat_ofNat]
  unfold toSigned
  rw [Nat.mod_mod]
theorem fopnd_fc32 (u : Frag) (uni half : Bool) (f : RF) (l : Nat) : u.g.fopnd u.m uni half f l = fc32 uni half u f l := by
  unfold Group.fopnd fc32
  simp only [beq_iff_eq]
  split
  · cases uni <;> simp [Group.src, sVal_one, vVal_one]
  · split
    · rfl
    · split
      · rw [toSigned_toNat (by decide)]
      · apply BitVec.eq_of_toNat_eq
        have e : (u.m.i.map BitVec.toNat).getD 0 * 128 + f.c.toNat = (u.m.i.getD 0 ++ f.c).toNat := by
          rw [BitVec.toNat_append, ← Nat.shiftLeft_add_eq_or_of_lt f.c.isLt, Nat.shiftLeft_eq]
          cases u.m.i <;> simp
        rw [e]
        generalize u.m.i.getD 0 ++ f.c = z at *
        rw [BitVec.toNat_append, ← Nat.shiftLeft_add_eq_or_of_lt (BitVec.isLt _), Nat.shiftLeft_eq]
        have := z.isLt
        have h0 : (0 : BitVec 1).toNat = 0 := rfl
        simp only [BitVec.toNat_ofNat, h0]
        omega
theorem half_low (x : Word) : x.toNat % 65536 = half0 x := by simp [half0, BitVec.extractLsb'_toNat]
theorem half_high (x : Word) : x.toNat / 65536 = half1 x := by
  have := x.isLt
  simp only [half1, BitVec.extractLsb'_toNat, Nat.shiftRight_eq_div_pow]
  omega
theorem twice_eq (a b : Nat) : BitVec.ofNat 32 (a % 65536 + b * 65536) = twice a b := by
  apply BitVec.eq_of_toNat_eq
  unfold twice
  rw [BitVec.toNat_append, ← Nat.shiftLeft_add_eq_or_of_lt (BitVec.isLt _), Nat.shiftLeft_eq]
  simp only [BitVec.toNat_ofNat]
  omega
theorem both16_eq (op : Nat → Nat → Nat) (b c : Word) : both16 op b c = twice (op (half0 b) (half0 c)) (op (half1 b) (half1 c)) := by
  simp only [both16, half_low, half_high, twice_eq]
theorem fb_eq (u : Frag) (f : RF) (l : Nat) : u.fb f l = b32 u.m.modx.u u f l := by simp [Frag.fb, src_b32]
theorem does_f32 {i : Instr} {f : RF} {op : Frag → Nat → Nat → Nat} (he : ∀ s, exec i s = issue i s fun u s => u.fop32 s f (op u)) :
    Does i fun u => toV u f.a fun l => BitVec.ofNat 32 (op u (b32 u.m.modx.u u f l).toNat (fc32 u.m.modx.u false u f l).toNat) :=
  does_of he fun u s => by simp only [Frag.fop32, vec_toV, fb_eq, fopnd_fc32]
theorem does_f16 {i : Instr} {f : RF} {op : Frag → Nat → Nat → Nat} (he : ∀ s, exec i s = issue i s fun u s => u.fop16 s f (op u)) :
    Does i fun u => toV u f.a fun l =>
      let b := b32 u.m.modx.u u f l
      let c := fc32 u.m.modx.u true u f l
      twice (op u (half0 b) (half0 c)) (op u (half1 b) (half1 c)) :=
  does_of he fun u s => by simp only [Frag.fop16, vec_toV, fb_eq, fopnd_fc32, both16_eq, ofNat_toNat]
theorem does_f1 {i : Instr} {f : RF} {op : Frag → Word → Nat} {v : Frag → Word → Word} (he : ∀ s, exec i s = issue i s fun u s => u.fop1 s f (op u))
    (hv : ∀ u x, BitVec.ofNat 32 (op u x) = v u x) : Does i fun u => toV u f.a fun l => v u (b32 u.m.modx.u u f l) :=
  does_of he fun u s => by simp only [Frag.fop1, vec_toV, fb_eq, hv]
theorem cvtIn_eq (u : Frag) (f : RF) (l : Nat) : u.cvtIn f l = cvtOf u f l := by
  unfold Frag.cvtIn cvtOf
  have hk : f.c.toNat % 16 < 16 := Nat.mod_lt _ (by decide)
  generalize f.c.toNat % 16 = k at *
  have e8 : ∀ x : Word, (x.setWidth 8) = BitVec.ofNat 8 x.toNat := fun x => BitVec.eq_of_toNat_eq (by simp)
  have e16 : ∀ x : Word, (x.setWidth 16) = BitVec.ofNat 16 x.toNat := fun x => BitVec.eq_of_toNat_eq (by simp)
  have e4 : ∀ x : Word, (x.setWidth 4) = BitVec.ofNat 4 x.toNat := fun x => BitVec.eq_of_toNat_eq (by simp)
  by_cases h67 : k = 6 ∨ k = 7
  · have : (k == 6 || k == 7) = true := by simpa using h67
    simp only [this, src_b64]
    rcases h67 with rfl | rfl
    · simp [cvtSource, toSigned_toNat]
    · simp only [cvtSource]
      rw [Nat.mod_eq_of_lt (BitVec.isLt _)]
  · have : (k == 6 || k == 7) = false := by simpa using h67
    simp only [this, src_b32]
    unfold cvtSource
    interval_cases k <;> simp only [toSigned_ofNat _ (by decide : 0 < 8), toSigned_ofNat _ (by decide : 0 < 16), toSigned_ofNat _ (by decide : 0 < 4), toSigned_toNat (by decide : 0 < 32), e8, e16, e4, BitVec.toNat_ofNat, half0] <;> (try rfl) <;> (try omega)
    · rw [Nat.mod_eq_of_lt (BitVec.isLt _)]
    · rw [Nat.mod_eq_of_lt (BitVec.isLt _)]
theorem inf_le (f : FFmt) : f.inf + 2 ^ f.fb = 2 ^ (f.eb + f.fb) := by
  unfold FFmt.inf
  rw [Nat.sub_mul, Nat.one_mul, Nat.pow_add]
  exact Nat.sub_add_cancel (Nat.le_mul_of_pos_left _ (Nat.two_pow_pos _))
theorem sgn_le (f : FFmt) (n : Bool) : f.sgn n ≤ 2 ^ (f.eb + f.fb) := by cases n <;> simp [FFmt.sgn]
theorem overflow_le (f : FFmt) (rnd : Nat) (n : Bool) : f.overflow rnd n ≤ f.sgn n + f.inf := by
  unfold FFmt.overflow
  have : ∀ b : Bool, f.sgn n + (if b then f.inf else f.inf - 1) ≤ f.sgn n + f.inf := by intro b; cases b <;> simp
  exact this _
theorem clamp_cases (k b o s : Nat) : (if k ≤ b then o else s + b) = o ∨ ∃ x, x < k ∧ (if k ≤ b then o else s + b) = s + x := by
  split
  · exact .inl rfl
  · exact .inr ⟨b, by omega, rfl⟩
/-- A rounded value is a zero, an overflow or a finite pattern. -/
theorem round_cases (f : FFmt) (rnd : Nat) (n : Bool) (m : Nat) (e : Int) :
    f.round rnd n m e = f.sgn n ∨ f.round rnd n m e = f.overflow rnd n ∨ ∃ x, x < f.inf ∧ f.round rnd n m e = f.sgn n + x := by
  unfold FFmt.round
  split
  · exact .inl rfl
  · exact .inr (clamp_cases _ _ _ _)
theorem pack_lt (f : FFmt) (h : 0 < f.fb) (rnd : Nat) (v : Machine.Num) : f.pack rnd v < 2 * 2 ^ (f.eb + f.fb) := by
  have h1 := inf_le f
  have h2 := Nat.two_pow_pos f.fb
  have h3 : 2 ^ (f.fb - 1) < 2 ^ f.fb := Nat.pow_lt_pow_right (by decide) (by omega)
  cases v with
  | nan => simp only [FFmt.pack, FFmt.nan]; omega
  | inf n => have := sgn_le f n; simp only [FFmt.pack]; omega
  | fin n m e =>
    have h4 := sgn_le f n
    have h5 := overflow_le f rnd n
    simp only [FFmt.pack]
    rcases round_cases f rnd n m e with h | h | ⟨x, hx, h⟩ <;> rw [h] <;> omega
theorem cvtFloat_lt {t : FFmt} (h : 0 < t.fb) (rnd : Nat) (v : CvtVal) : cvtFloat t rnd v < 2 * 2 ^ (t.eb + t.fb) := by
  unfold cvtFloat
  split <;> exact pack_lt t h _ _
theorem half_into (f : RF) (old : Word) (y : Nat) (h : y < 65536) :
    BitVec.ofNat 32 (if f.c.toNat / 16 == 1 then old.toNat % 65536 + y * 65536 else old.toNat / 65536 * 65536 + y) = intoHalf f old y := by
  have := old.isLt
  apply BitVec.eq_of_toNat_eq
  unfold intoHalf
  simp only [beq_iff_eq]
  split <;> rw [BitVec.toNat_append, ← Nat.shiftLeft_add_eq_or_of_lt (BitVec.isLt _), Nat.shiftLeft_eq] <;>
    simp only [BitVec.toNat_ofNat, BitVec.extractLsb'_toNat, Nat.shiftRight_eq_div_pow] <;> omega
theorem half_vec (u : Frag) (s : State) (f : RF) (t : FFmt) (h : 0 < t.fb) (hw : t.eb + t.fb = 15) :
    u.cvtHalf s f t = .ok (s.modGroup u.g.id (toV u f.a fun l => intoHalf f (if u.m.modx.u then u.g.getS f.a.toNat else u.g.getV f.a.toNat l)
        (cvtFloat t u.m.modx.rnd.toNat (cvtOf u f l)))) := by
  have e (l : Nat) : u.g.src u.m.modx.u false f.a.toNat l = (if u.m.modx.u then u.g.getS f.a.toNat else u.g.getV f.a.toNat l).toNat := by
    cases u.m.modx.u
    · exact vVal_one _ _ _
    · exact sVal_one _ _
  simp only [Frag.cvtHalf, vec_toV, cvtIn_eq, e]
  congr 3
  funext l
  have := cvtFloat_lt h u.m.modx.rnd.toNat (cvtOf u f l)
  rw [hw] at this
  exact half_into f _ _ this

/-! ## The order of values -/

/-- The magnitude of a pattern without its sign, in units of the last place of a subnormal. -/
def mag (f : FFmt) (y : Nat) : Nat := if y / 2 ^ f.fb = 0 then y % 2 ^ f.fb else (2 ^ f.fb + y % 2 ^ f.fb) * 2 ^ (y / 2 ^ f.fb - 1)
theorem mag_lt' (M q r p t : Nat) (hr : r < M) (ht : t < M) (h : M * q + r < M * p + t) :
    (if q = 0 then r else (M + r) * 2 ^ (q - 1)) < if p = 0 then t else (M + t) * 2 ^ (p - 1) := by
  rcases Nat.lt_trichotomy q p with hlt | heq | hgt
  · rw [if_neg (by omega : p ≠ 0)]
    have h2 : M * 2 ^ (p - 1) ≤ (M + t) * 2 ^ (p - 1) := Nat.mul_le_mul_right _ (by omega)
    split
    · have : 1 ≤ 2 ^ (p - 1) := Nat.one_le_two_pow
      nlinarith
    · rename_i h0
      have h3 : (M + r) * 2 ^ (q - 1) < 2 * M * 2 ^ (q - 1) := Nat.mul_lt_mul_of_pos_right (by omega) (by positivity)
      have h4 : 2 * M * 2 ^ (q - 1) = M * 2 ^ q := by
        obtain ⟨k, rfl⟩ : ∃ k, q = k + 1 := ⟨q - 1, by omega⟩
        rw [Nat.add_sub_cancel, pow_succ]; ring
      have h5 : M * 2 ^ q ≤ M * 2 ^ (p - 1) := Nat.mul_le_mul_left _ (Nat.pow_le_pow_right (by omega) (by omega))
      omega
  · subst heq
    have hm : r < t := by omega
    split
    · exact hm
    · exact Nat.mul_lt_mul_of_pos_right (by omega) (by positivity)
  · have : M * (p + 1) ≤ M * q := Nat.mul_le_mul_left _ hgt
    rw [Nat.mul_succ] at this
    omega
theorem mag_lt (f : FFmt) {x y : Nat} (h : x < y) : mag f x < mag f y := by
  have hM : 0 < 2 ^ f.fb := by positivity
  refine mag_lt' _ _ _ _ _ (Nat.mod_lt _ hM) (Nat.mod_lt _ hM) ?_
  rw [Nat.div_add_mod, Nat.div_add_mod]; exact h
theorem mag_zero (f : FFmt) {x : Nat} (h : mag f x = 0) : x = 0 := by
  by_contra hx
  have := mag_lt f (Nat.pos_of_ne_zero hx)
  omega
/-- What a pattern unpacks to, in these terms. -/
theorem unpack_cases (f : FFmt) (h0 : 0 < f.eb) (x : Nat) :
    let y := x % 2 ^ (f.eb + f.fb)
    let n := bitOf x (f.eb + f.fb)
    (f.inf < y ∧ f.unpack x = .nan) ∨ (y = f.inf ∧ f.unpack x = .inf n) ∨
    (y < f.inf ∧ ∃ m d : Nat, f.unpack x = .fin n m (f.emin + d) ∧ m * 2 ^ d = mag f y) := by
  intro y n
  have hM : 0 < 2 ^ f.fb := by positivity
  have he : bitsOf x (f.eb + f.fb - 1) f.fb = y / 2 ^ f.fb := by
    unfold bitsOf
    rw [show f.eb + f.fb - 1 + 1 - f.fb = f.eb by omega]
    show _ = x % 2 ^ (f.eb + f.fb) / 2 ^ f.fb
    rw [pow_add, mul_comm, Nat.mod_mul_right_div_self]
  have hm : x % 2 ^ f.fb = y % 2 ^ f.fb := by
    show _ = x % 2 ^ (f.eb + f.fb) % 2 ^ f.fb
    rw [Nat.mod_mod_of_dvd]
    exact pow_dvd_pow 2 (by omega)
  have hy : y < 2 ^ f.eb * 2 ^ f.fb := by
    rw [← pow_add]; exact Nat.mod_lt _ (by positivity)
  have hq : y / 2 ^ f.fb < 2 ^ f.eb := Nat.div_lt_of_lt_mul (by rw [mul_comm]; exact hy)
  have hd := Nat.div_add_mod y (2 ^ f.fb)
  have hr := Nat.mod_lt y hM
  have hE : 1 ≤ 2 ^ f.eb := Nat.one_le_two_pow
  have hi : f.inf = 2 ^ f.fb * (2 ^ f.eb - 1) := by unfold FFmt.inf; ring
  unfold FFmt.unpack
  simp only [he, hm, beq_iff_eq]
  unfold mag
  generalize hqq : y / 2 ^ f.fb = q at *
  generalize hrr : y % 2 ^ f.fb = r at *
  by_cases h1 : q = 2 ^ f.eb - 1
  · rw [if_pos h1]
    rw [h1] at hd
    by_cases h2 : r = 0
    · rw [if_pos h2]
      exact .inr (.inl ⟨by omega, rfl⟩)
    · rw [if_neg h2]
      exact .inl ⟨by omega, rfl⟩
  · rw [if_neg h1]
    refine .inr (.inr ⟨?_, ?_⟩)
    · have : 2 ^ f.fb * (q + 1) ≤ 2 ^ f.fb * (2 ^ f.eb - 1) := Nat.mul_le_mul_left _ (by omega)
      rw [Nat.mul_succ] at this
      omega
    · by_cases h2 : q = 0
      · rw [if_pos h2]
        exact ⟨r, 0, by simp [n], by rw [if_pos h2]; simp⟩
      · rw [if_neg h2]
        refine ⟨2 ^ f.fb + r, q - 1, ?_, ?_⟩
        · congr 1
          omega
        · rw [if_neg h2]
theorem scaled_lt (s t : Bool) (m n : Nat) (k : Int) (d c : Nat) :
    (scaled s m (k + d) (min (k + d) (k + c)) < scaled t n (k + c) (min (k + d) (k + c))) ↔
      (if s then -((m * 2 ^ d : Nat) : Int) else (m * 2 ^ d : Nat)) < if t then -((n * 2 ^ c : Nat) : Int) else (n * 2 ^ c : Nat) := by
  have h1 : ((k + d) - min (k + d) (k + c)).toNat = d - min d c := by omega
  have h2 : ((k + c) - min (k + d) (k + c)).toNat = c - min d c := by omega
  unfold scaled
  rw [h1, h2]
  have e1 : m * 2 ^ d = m * 2 ^ (d - min d c) * 2 ^ min d c := by rw [mul_assoc, ← pow_add]; congr 2; omega
  have e2 : n * 2 ^ c = n * 2 ^ (c - min d c) * 2 ^ min d c := by rw [mul_assoc, ← pow_add]; congr 2; omega
  rw [e1, e2]
  generalize m * 2 ^ (d - min d c) = a
  generalize n * 2 ^ (c - min d c) = b
  have hp : (0 : Int) < 2 ^ min d c := by positivity
  have key (x y : Int) : x < y ↔ x * 2 ^ min d c < y * 2 ^ min d c := (mul_lt_mul_iff_of_pos_right hp).symm
  dsimp only
  rw [key]
  have n1 (b : Bool) (z : Nat) : (if b then -(z : Int) else z) * 2 ^ min d c =
      if b then -((z * 2 ^ min d c : Nat) : Int) else (z * 2 ^ min d c : Nat) := by
    cases b <;> simp
  rw [n1, n1]
theorem key_eq (f : FFmt) (x : Nat) : f.key x =
    if bitOf x (f.eb + f.fb) then -((x % 2 ^ (f.eb + f.fb) : Nat) : Int) else (x % 2 ^ (f.eb + f.fb) : Nat) := by
  unfold FFmt.key; rfl
theorem signed_lt {F : Nat → Nat} (hF : ∀ x y, x < y → F x < F y) (s t : Bool) (x y : Nat) (h0 : F 0 = 0) :
    ((if s then -((F x : Nat) : Int) else (F x : Nat)) < if t then -((F y : Nat) : Int) else (F y : Nat)) ↔
    ((if s then -(x : Int) else x) < if t then -(y : Int) else y) := by
  have a := hF x y
  have b := hF y x
  have hx : 0 < x → 0 < F x := fun h => h0 ▸ hF 0 x h
  have hy : 0 < y → 0 < F y := fun h => h0 ▸ hF 0 y h
  rcases Nat.lt_trichotomy x y with h | rfl | h <;> cases s <;> cases t <;> simp only [if_true, if_false, Bool.false_eq_true]
  all_goals
    rcases Nat.eq_zero_or_pos x with rfl | hx0 <;> first | (rcases Nat.eq_zero_or_pos y with rfl | hy0 <;> omega) | omega
theorem mag_z (f : FFmt) : mag f 0 = 0 := by simp [mag]
theorem less_iff (f : FFmt) (h0 : 0 < f.eb) {b c : Nat} (hb : f.unpack b ≠ .nan) (hc : f.unpack c ≠ .nan) :
    valueLess (f.unpack b) (f.unpack c) = decide (f.key b < f.key c) := by
  rw [key_eq, key_eq]
  have hinf : 0 < f.inf := by
    unfold FFmt.inf
    have : 2 ≤ 2 ^ f.eb := by calc 2 = 2 ^ 1 := rfl
                               _ ≤ _ := Nat.pow_le_pow_right (by omega) h0
    exact Nat.mul_pos (by omega) (by positivity)
  rcases unpack_cases f h0 b with ⟨_, h⟩ | ⟨h1, h2⟩ | ⟨h1, m, d, h2, h3⟩
  · exact absurd h hb
  · rcases unpack_cases f h0 c with ⟨_, h⟩ | ⟨k1, k2⟩ | ⟨k1, n, e, k2, k3⟩
    · exact absurd h hc
    · rw [h2, k2, h1, k1]
      cases bitOf b (f.eb + f.fb) <;> cases bitOf c (f.eb + f.fb) <;> simp [valueLess] <;> omega
    · rw [h2, k2, h1]
      generalize c % 2 ^ (f.eb + f.fb) = y at *
      cases bitOf b (f.eb + f.fb) <;> cases bitOf c (f.eb + f.fb) <;> simp [valueLess] <;> omega
  · rcases unpack_cases f h0 c with ⟨_, h⟩ | ⟨k1, k2⟩ | ⟨k1, n, e, k2, k3⟩
    · exact absurd h hc
    · rw [h2, k2, k1]
      generalize b % 2 ^ (f.eb + f.fb) = y at *
      cases bitOf b (f.eb + f.fb) <;> cases bitOf c (f.eb + f.fb) <;> simp [valueLess] <;> omega
    · rw [h2, k2]
      unfold valueLess
      dsimp only
      congr 1
      rw [eq_iff_iff, scaled_lt, h3, k3]
      exact signed_lt (fun x y h => mag_lt f h) _ _ _ _ (mag_z f)
theorem nan_iff (f : FFmt) (h0 : 0 < f.eb) (x : Nat) : f.isNan x = decide (f.unpack x = .nan) := by
  unfold FFmt.isNan
  rcases unpack_cases f h0 x with ⟨h1, h⟩ | ⟨h1, h2⟩ | ⟨h1, m, d, h2, h3⟩
  · rw [h]; simpa using h1
  · rw [h2, h1]; simp
  · rw [h2]; simp; omega
theorem zeros_iff (f : FFmt) (h0 : 0 < f.eb) {b c : Nat} (hb : b < 2 ^ (f.eb + f.fb + 1)) (hc : c < 2 ^ (f.eb + f.fb + 1)) :
    zerosApart (f.unpack b) (f.unpack c) = (f.key b == 0 && f.key c == 0 && b != c) := by
  have kz (x : Nat) : (f.key x == 0) = decide (x % 2 ^ (f.eb + f.fb) = 0) := by
    rw [key_eq]
    generalize x % 2 ^ (f.eb + f.fb) = y
    rw [Bool.eq_iff_iff]
    cases bitOf x (f.eb + f.fb) <;> simp
  have hp : 0 < 2 ^ (f.eb + f.fb) := by positivity
  have bit (x : Nat) (hx : x < 2 ^ (f.eb + f.fb + 1)) :
      x = (if bitOf x (f.eb + f.fb) then 1 else 0) * 2 ^ (f.eb + f.fb) + x % 2 ^ (f.eb + f.fb) := by
    have h1 := Nat.div_add_mod x (2 ^ (f.eb + f.fb))
    have h2 : x / 2 ^ (f.eb + f.fb) < 2 := Nat.div_lt_of_lt_mul (by rw [← pow_succ]; exact hx)
    have h3 : (if bitOf x (f.eb + f.fb) then 1 else 0) = x / 2 ^ (f.eb + f.fb) := by
      unfold bitOf
      interval_cases x / 2 ^ (f.eb + f.fb) <;> simp
    rw [h3, mul_comm]; exact h1.symm
  have hinf : 0 < f.inf := by
    unfold FFmt.inf
    have : 2 ≤ 2 ^ f.eb := by calc 2 = 2 ^ 1 := rfl
                               _ ≤ _ := Nat.pow_le_pow_right (by omega) h0
    exact Nat.mul_pos (by omega) (by positivity)
  have zer (x : Nat) : (∃ e, f.unpack x = .fin (bitOf x (f.eb + f.fb)) 0 e) ↔ x % 2 ^ (f.eb + f.fb) = 0 := by
    rcases unpack_cases f h0 x with ⟨h1, h⟩ | ⟨h1, h2⟩ | ⟨h1, m, d, h2, h3⟩
    · rw [h]
      refine ⟨fun ⟨e, he⟩ => by simp at he, fun h => by omega⟩
    · rw [h2]
      refine ⟨fun ⟨e, he⟩ => by simp at he, fun h => by omega⟩
    · rw [h2]
      refine ⟨fun ⟨e, he⟩ => ?_, fun h => ?_⟩
      · have hm : m = 0 := by simp at he; exact he.1
        rw [hm, Nat.zero_mul] at h3
        exact mag_zero f h3.symm
      · rw [h, mag_z] at h3
        have hm : m = 0 := by
          rcases Nat.mul_eq_zero.mp h3 with h | h
          · exact h
          · exact absurd h (by positivity)
        exact ⟨_, by rw [hm]⟩
  have apart (x y : Machine.Num) : zerosApart x y = true ↔ ∃ s t e k, x = .fin s 0 e ∧ y = .fin t 0 k ∧ s ≠ t := by
    constructor
    · intro h
      unfold zerosApart at h
      split at h
      · exact ⟨_, _, _, _, rfl, rfl, by simpa using h⟩
      · cases h
    · rintro ⟨s, t, e, k, rfl, rfl, h⟩
      simpa [zerosApart] using h
  have sg (x : Nat) (s e) (h : f.unpack x = .fin s 0 e) : s = bitOf x (f.eb + f.fb) := by
    rcases unpack_cases f h0 x with ⟨h1, h'⟩ | ⟨h1, h'⟩ | ⟨h1, m, d, h', h3⟩ <;> rw [h'] at h <;> simp at h
    exact h.1.symm
  rw [kz, kz, Bool.eq_iff_iff, apart]
  simp only [Bool.and_eq_true, decide_eq_true_eq, bne_iff_ne]
  constructor
  · rintro ⟨s, t, e, k, hx, hy, hst⟩
    have s1 := sg _ _ _ hx
    have s2 := sg _ _ _ hy
    subst s1 s2
    refine ⟨⟨(zer b).mp ⟨_, hx⟩, (zer c).mp ⟨_, hy⟩⟩, fun h => hst (by rw [h])⟩
  · rintro ⟨⟨hx, hy⟩, hn⟩
    obtain ⟨e, he⟩ := (zer b).mpr hx
    obtain ⟨k, hk⟩ := (zer c).mpr hy
    refine ⟨_, _, _, _, he, hk, fun h => hn ?_⟩
    rw [bit b hb, bit c hc, hx, hy, h]
theorem minmax_eq (f : FFmt) (h0 : 0 < f.eb) (big : Bool) {b c : Nat} (hb : b < 2 ^ (f.eb + f.fb + 1)) (hc : c < 2 ^ (f.eb + f.fb + 1)) :
    f.minmax big b c = oneOf f big b c := by
  unfold FFmt.minmax oneOf
  rw [nan_iff f h0, nan_iff f h0, zeros_iff f h0 hb hc]
  by_cases h1 : f.unpack b = .nan <;> by_cases h2 : f.unpack c = .nan <;> simp only [h1, h2, decide_true, decide_false, Bool.and_self, Bool.and_true, Bool.and_false,
    if_true, and_self, and_true, and_false, if_false, Bool.false_eq_true]
  rw [less_iff f h0 h1 h2]
  cases big <;> by_cases h3 : f.key b < f.key c <;> simp [h3, FFmt.sgn]
theorem word_fits (x : Word) : x.toNat < 2 ^ (fp32.eb + fp32.fb + 1) := x.isLt
theorem half0_fits (x : Word) : half0 x < 2 ^ (fp16.eb + fp16.fb + 1) := (x.extractLsb' 0 16).isLt
theorem half1_fits (x : Word) : half1 x < 2 ^ (fp16.eb + fp16.fb + 1) := (x.extractLsb' 16 16).isLt

end Sys2Proof.Laws
end

