-- ==== Sys2Proof/Laws/Shapes.lean ====
section
/-! SUPPORT. Fields of shape registers in the terms of bit vectors (R236, Tables 13-1 and 13-6). -/
namespace Sys2Proof.Laws
open Sys2Proof.Machine Sys2Proof.Safety

theorem shapeField_pos (code : Nat) : 0 < (shapeField code).2.1 := by
  unfold shapeField
  repeat' split
  all_goals simp
theorem setField_eq (t : BitVec 512) (code v : Nat) :
    setField t code v = replaced t (shapeField code).1 (shapeField code).2.1 v := by
  have hw := shapeField_pos code
  unfold setField replaced
  dsimp only
  generalize (shapeField code).1 = lo at *
  generalize (shapeField code).2.1 = w at *
  have e : lo + w - 1 + 1 - lo = w := by omega
  have key : t.toNat - bitsOf t.toNat (lo + w - 1) lo * 2 ^ lo = t.toNat / 2 ^ (lo + w) * 2 ^ (lo + w) + t.toNat % 2 ^ lo := by
    unfold bitsOf
    rw [e]
    have h1 := Nat.div_add_mod t.toNat (2 ^ lo)
    have h2 := Nat.div_add_mod (t.toNat / 2 ^ lo) (2 ^ w)
    rw [Nat.div_div_eq_div_mul, ← Nat.pow_add] at h2
    have h3 : t.toNat = 2 ^ lo * (2 ^ w * (t.toNat / 2 ^ (lo + w)) + t.toNat / 2 ^ lo % 2 ^ w) + t.toNat % 2 ^ lo := by rw [h2, h1]
    generalize t.toNat / 2 ^ (lo + w) = T at *
    generalize t.toNat / 2 ^ lo % 2 ^ w = X at *
    generalize t.toNat % 2 ^ lo = R at *
    rw [Nat.pow_add]
    have : t.toNat = T * (2 ^ lo * 2 ^ w) + R + X * 2 ^ lo := by rw [h3]; ring
    omega
  rw [key]
  have hm : v % 2 ^ w < 2 ^ w := Nat.mod_lt _ (Nat.two_pow_pos _)
  have hl : t.toNat % 2 ^ lo < 2 ^ lo := Nat.mod_lt _ (Nat.two_pow_pos _)
  have h1 : t.toNat / 2 ^ (lo + w) * 2 ^ (lo + w) + t.toNat % 2 ^ lo + v % 2 ^ w * 2 ^ lo =
      2 ^ lo * (2 ^ w * (t.toNat / 2 ^ (lo + w)) + v % 2 ^ w) + t.toNat % 2 ^ lo := by rw [Nat.pow_add]; ring
  rw [h1]
  apply BitVec.eq_of_getLsbD_eq
  intro i hi
  rw [BitVec.getLsbD_ofNat]
  simp only [hi, decide_true, Bool.true_and, BitVec.getLsbD_or, BitVec.getLsbD_and, BitVec.getLsbD_not, BitVec.getLsbD_shiftLeft, BitVec.getLsbD_ofNat]
  rw [Nat.testBit_two_pow_mul_add _ hl]
  by_cases c : i < lo
  · simp [c, BitVec.getLsbD]
  · simp only [c, if_false]
    rw [Nat.testBit_two_pow_mul_add _ hm]
    by_cases d : i - lo < w
    · simp [d, Nat.testBit_mod_two_pow, Nat.testBit_two_pow_sub_one, show i - lo < 512 by omega]
    · simp [d, Nat.testBit_two_pow_sub_one, Nat.testBit_div_two_pow, show i - lo - w + (lo + w) = i by omega, BitVec.getLsbD]

theorem shapeField_wide (c : Nat) (hc : c ≤ 1) : shapeField c = (64 * c, 64, false) := by
  obtain rfl | rfl : c = 0 ∨ c = 1 := by omega
  all_goals rfl
theorem shapeField_word (c : Nat) (hc : 2 ≤ c) (hd : c < 18) : (shapeField c).2.2 = false := by
  unfold shapeField
  rw [if_neg (by simp; omega), if_neg (by simp; omega)]
  repeat' split
  all_goals first | rfl | (exfalso; simp_all; omega)
theorem shapeField_orig (c : Nat) (hd : 18 ≤ c) : (shapeField c).2 = (20, true) := by
  unfold shapeField
  simp only [beq_iff_eq]
  repeat rw [if_neg (by omega)]
theorem getField_wide (t : BitVec 512) {c : Nat} (hc : c ≤ 1) : BitVec.ofNat 64 (getField t c) = (t >>> (64 * c)).setWidth 64 := by
  unfold getField
  rw [shapeField_wide c hc]
  apply BitVec.eq_of_toNat_eq
  dsimp only
  unfold bitsOf
  rw [show 64 * c + 64 - 1 + 1 - 64 * c = 64 by omega]
  simp [Nat.shiftRight_eq_div_pow]
theorem getField_word (t : BitVec 512) {c : Nat} (hc : 2 ≤ c) : BitVec.ofNat 32 (getField t c) = fieldWord t c := by
  unfold getField fieldWord
  by_cases d : 18 ≤ c
  · have e := shapeField_orig c d
    have e1 : (shapeField c).2.1 = 20 := by rw [e]
    have e2 : (shapeField c).2.2 = true := by rw [e]
    simp only [e1, e2, d, if_true]
    have : bitsOf t.toNat ((shapeField c).1 + 20 - 1) (shapeField c).1 = ((t >>> (shapeField c).1).setWidth 20).toNat := by
      unfold bitsOf
      rw [show (shapeField c).1 + 20 - 1 + 1 - (shapeField c).1 = 20 by omega]
      simp [Nat.shiftRight_eq_div_pow]
    rw [this, sext_toNat (by decide), ofNat_toNat]
  · have e := shapeField_word c hc (by omega)
    have := shapeField_pos c
    simp only [e, d, if_false, Bool.false_eq_true]
    simp [bitsOf, Nat.shiftRight_eq_div_pow, show (shapeField c).1 + (shapeField c).2.1 - 1 + 1 - (shapeField c).1 = (shapeField c).2.1 by omega]

end Sys2Proof.Laws
end

