-- ==== Sys2Proof/Laws/Syncs.lean ====
section
/-! SUPPORT. Waits, fences, matrix units, queues, mailboxes and parked pushes. -/
namespace Sys2Proof.Laws
open Sys2Proof.Machine Sys2Proof.Safety

/-! ## Matrix units -/

theorem register_queue {s t : State} {o : Op} {es} (h : s.register o es = some t) : t.jqueue = s.jqueue := by
  unfold State.register at h
  dsimp only at h
  split at h
  · cases h
  · cases h; rfl
theorem mma_eq {f : RF} {u : Frag} {s : State} (h : MmaLegal f u s) :
    (if u.rnd != 0 && !isInt (shapeOf (u.g.getT f.b.toNat)).fmt then u.raise s trapField
    else if (s.versionOf u.g).vregs ≤ f.a.toNat + 31 then u.raise s trapOperand
    else if !mmaShapesOk (shapeOf (u.g.getT f.b.toNat)) (shapeOf (u.g.getT f.c.toNat)) then u.raise s trapShape
    else
      match u.mmaBad s (shapeOf (u.g.getT f.b.toNat)) (shapeOf (u.g.getT f.c.toNat)) with
      | some (p, c) => u.fault s c p
      | none =>
        if 15 ≤ u.g.mx || 32 ≤ (s.bench (u.g.core / 4)).length then .hold false
        else
          match mmaStarted f u s with
          | none => .hold false
          | some s1 => .ok (u.upd s1 fun g => { g with mx := g.mx + 1, mmas := g.mmas ++ [mmaIssued f u s.nextId] })) =
   (if 15 ≤ u.g.mx || 32 ≤ (s.bench (u.g.core / 4)).length then .hold false
        else
          match mmaStarted f u s with
          | none => .hold false
          | some s1 => .ok (u.upd s1 fun g => { g with mx := g.mx + 1, mmas := g.mmas ++ [mmaIssued f u s.nextId] })) := by
  obtain ⟨h1, h2, h3, h4⟩ := h
  rw [if_neg, if_neg (by omega), if_neg (by rw [h3]; decide), h4]
  rcases h1 with h1 | h1
  · simp [Frag.rnd, h1]
  · simp [h1]

/-! ## Waits, fences and queues -/

theorem waitHolds_iff (g : Machine.Group) (f : WF) : waitHolds g f = true ↔ waitsFor f g := by
  simp [waitHolds, waitsFor, or_assoc]
theorem fenceRel_eq (u : Frag) : (u.m.modx.ord.toNat == 0 || u.isRel) = fenceRel u := by
  unfold Frag.isRel fenceRel
  congr 1
  rw [Bool.eq_iff_iff]; simp [BitVec.toNat_eq]
theorem fenceAcq_eq (u : Frag) : (u.m.modx.ord.toNat == 0 || u.isAcq) = fenceAcq u := by
  unfold Frag.isAcq fenceAcq
  rw [Bool.eq_iff_iff]; simp [BitVec.toNat_eq]
theorem leave_queue (s : State) (c t : Nat) (p : Write → Bool) : (s.leave c t p).jqueue = s.jqueue := by
  unfold State.leave
  dsimp only
  split
  · rfl
  · unfold State.failCommits
    split <;> rfl
theorem release_queue (s : State) (c sc : Nat) : (s.release c sc).jqueue = s.jqueue := by
  unfold State.release
  split
  · exact leave_queue _ _ _ _
  · rfl
theorem acquire_queue (s : State) (c : Nat) : (s.acquire c).jqueue = s.jqueue := rfl
theorem acquireFree_queue (s : State) (c : Nat) (near : List Nat) : (s.acquireFree c near).jqueue = s.jqueue := rfl
theorem queueNo_eq (f : RF) (u : Frag) : u.queueNo f = queueOf f u := by
  unfold Frag.queueNo queueOf; simp only [beq_iff_eq]
theorem ptr_eq (g : Machine.Group) (r : Nat) : g.ptr r = (s64 g r).toNat := sVal_pair g r
theorem pop_fits {f : RF} {r : Region} {t : Tgt} {u : Frag} {s : State} (h : Pops f r t u s) (park : Bool) :
    u.pop s f park = u.popFrom s f r t park := by
  obtain ⟨a1, a2, a3, a4, a5, a6, a7⟩ := h
  unfold Frag.pop
  dsimp only
  rw [a1, a2, ptr_eq]
  dsimp only
  rw [if_neg (by decide), if_neg (by simp [a3, a4, a5]), a6]
  dsimp only
  rw [if_neg (by rw [a7]; decide)]
theorem pop_ready {f : RF} {r : Region} {t : Tgt} {bs} {u : Frag} {s : State} (h : Pops f r t u s) (h1 : Ready f r t bs u s)
    (park : Bool) : u.pop s f park = u.takeHead s f t bs := by
  rw [pop_fits h]
  unfold Frag.popFrom
  rw [h1.head, h1.first]
theorem pop_empty {f : RF} {r : Region} {t : Tgt} {u : Frag} {s : State} (h : Pops f r t u s) (h1 : Empty r u s) {park : Bool} :
    u.pop s f park = u.noRecord s f r park := by
  rw [pop_fits h]
  unfold Frag.popFrom
  rcases h1 with h1 | h1
  · rw [h1]
  · cases hq : s.poppers r.id u.g.stage with
    | nil => exact absurd hq h1
    | cons x xs => cases (r.queue u.g.stage).head? <;> rfl
theorem takeHead_eq {f : RF} {r : Region} {t : Tgt} {bs} {u : Frag} {s : State} (h : Ready f r t bs u s) :
   (∀ coff, s.taskEntry u.g bs = some coff → u.takeHead s f t bs = .post (u.setPc (s.takeRecord u.g u.g.stage f.a.toNat t bs) (BitVec.ofNat 32 coff))) ∧
   (s.taskEntry u.g bs = none → u.takeHead s f t bs = .trap { Trap.at_ trapTask u.x.pc with resume := u.next } (s.takeRecord u.g u.g.stage f.a.toNat t bs) (s.takeRecord u.g u.g.stage f.a.toNat t bs)) := by
  unfold Frag.takeHead
  rw [ptr_eq, h.free, h.done, if_neg (by decide), h.sound, if_neg (by decide)]
  dsimp only
  exact ⟨fun c hc => by rw [hc], fun hc => by rw [hc]⟩
theorem takes_of {i : Instr} {f : RF} {park : Bool} (hi : ∀ s, exec i s = issue i s fun u s => u.pop s f park) : Takes i f := by
  intro r t
  refine ⟨?_, ?_, ?_⟩
  · intro bs coff s g e p h ⟨hp, h1, h2⟩ hq
    rw [hi]
    exact issue_post h ((pop_ready hp h1 _).trans ((takeHead_eq h1).1 _ h2)) hq
  · intro bs s g e p h hp h1 h2 s1 z hq
    rw [hi]
    exact issue_trap h ((pop_ready hp h1 _).trans ((takeHead_eq h1).2 h2)) hq
  · intro s g e p h ⟨hp, h1, h2⟩ hq
    rw [hi]
    refine issue_post h ((pop_empty hp h1).trans ?_) hq
    unfold Frag.noRecord
    rw [if_pos h2]
    rfl
theorem exec_qpop (m : Mods) (f : RF) (s : State) : exec (.qpop m f) s = execQpop m f s := rfl
theorem exec_qtry (m : Mods) (f : RF) (s : State) : exec (.qtry m f) s = execQtry m f s := rfl

/-! ## Queue steps and mailboxes -/

theorem completePush_qpush {s : State} {x : Region} {q q' p o : Nat} {g : Machine.Group} {e : Nat} (h : OldestPush s x q g e (.qpush q' p o))
   (hh : s.sbHolds g p 64 false = false) :
   s.completePush x q = match (s.release g.core 0).readRecord g p with
          | .error c => { s with free := s.free + 2 }.wakeRaise g.id e (g.accessTrap e c p)
          | .ok b => (b.2.enterQueue x.id q b.1).wakeNext g.id e := by
  obtain ⟨o, h1, h2, h3⟩ := h
  unfold State.completePush
  rw [h1]
  dsimp only
  rw [h2]
  dsimp only
  rw [h3]
  dsimp only
  rw [if_neg (by rw [hh]; decide)]
  try (cases (s.release g.core 0).readRecord g p <;> rfl)
theorem completePush_tdone {s : State} {x : Region} {q q' o : Nat} {bs} {g : Machine.Group} {e : Nat} (h : OldestPush s x q g e (.tdone q' o bs)) :
   s.completePush x q = ((((s.release g.core 0).enterQueue x.id q bs).endTask g.id).acquireFree g.core [] |>.wakeNext g.id e).stopIfShed g.id := by
  obtain ⟨o, h1, h2, h3⟩ := h
  unfold State.completePush
  rw [h1]
  dsimp only
  rw [h2]
  dsimp only
  rw [h3]
theorem qpushComplete_eq {s : State} {r q : Nat} {x : Region} {t : State} (h1 : s.region? r = some x) (h2 : x.rstate = 1) (h3 : x.room q = true)
   (h : s.completePush x q = t) : Steps (.qpushComplete r q) s t := by
  refine steps_of (execQpushComplete r q s) rfl rfl ?_
  rw [h1]
  dsimp only
  rw [if_pos (by simp [h2, h3]), h]
theorem fetchPtr_eq (f : MF) (u : Frag) : addrPlus (u.g.ptr f.addr.toNat) (offBytes f 16) = fetchPtr f u := by
  exact (uniAddr_eq u f 16).symm
theorem fetch_ready {f : MF} {r : Region} {k : Nat} {u : Frag} {s : State} (h : Fetches f r k u s) :
    u.withdraw s (fetchPtr f u) r k = .post (s.withdrawn u r k r.withdraw) :=
  if_neg (by rw [h.free, h.done]; decide)
theorem withdrawn_none (s : State) (u : Frag) (r : Region) (k n : Nat) (h : n ≠ 1) : s.withdrawn u r k (n, 0) = fetchStarted k n 0 0 0 u s := by
  unfold State.withdrawn fetchStarted
  simp only [Nat.zero_mod, Nat.zero_div]
  rw [if_neg (by simpa using h)]

end Sys2Proof.Laws
end

