-- ==== Sys2Proof/Laws/Turns.lean ====
section
/-! SUPPORT. A turn of a slot and a step of the device: what runs, and what the schedule leaves unchanged. -/
namespace Sys2Proof.Laws
open Sys2Proof.Machine Sys2Proof.Safety

theorem tick_queue (s : State) (d : Nat) : (s.tick d).jqueue = s.jqueue := by
  unfold State.tick; split <;> rfl
theorem foldl_queue {α : Type} {f : State → α → State} (h : ∀ s x, (f s x).jqueue = s.jqueue) (l : List α) (s : State) :
    (l.foldl f s).jqueue = s.jqueue := by
  induction l generalizing s with
  | nil => rfl
  | cons x l ih => exact (ih _).trans (h _ _)
@[simp] theorem withCur_jqueue (s : State) (g e : Nat) : (s.withCur g e).jqueue = s.jqueue := rfl
@[simp] theorem withCur_mem (s : State) (g e : Nat) : (s.withCur g e).mem = s.mem := rfl
@[simp] theorem modEntry_state_jqueue (s : State) (g e : Nat) (f : Entry → Entry) : (s.modEntry g e f).jqueue = s.jqueue := rfl
@[simp] theorem modEntry_state_mem (s : State) (g e : Nat) (f : Entry → Entry) : (s.modEntry g e f).mem = s.mem := rfl
@[simp] theorem spend_jqueue (s : State) (cl w : Nat) : (s.spend cl w).jqueue = s.jqueue := rfl
@[simp] theorem spend_mem (s : State) (cl w : Nat) : (s.spend cl w).mem = s.mem := rfl
/-- Caching translations changes what is cached and the free counter. -/
theorem rememberAll_only {α : Type} (v : State → α) (h : ∀ (s : State) n t, v { s with free := n, tlb := t } = v s) (s : State) (c : Nat)
    (vas : List Nat) : v (s.rememberAll c vas) = v s := by
  unfold State.rememberAll
  split
  · rfl
  · exact h _ _ _
theorem giveSlot_queue (s : State) (k : Slot) (p : Machine.Group × Nat) : (s.giveSlot k p).jqueue = s.jqueue := by
  unfold State.giveSlot
  generalize (s.unitAt p.1 p.2).2 = n
  generalize (s.unitAt p.1 p.2).1 = i
  dsimp only
  rw [withCur_jqueue, modEntry_state_jqueue, spend_jqueue, setSlot_jqueue]
  exact rememberAll_only State.jqueue (fun _ _ _ => rfl) s p.1.ctx (s.fetchAddrs p.1 p.2 n)
theorem trapUnit_queue {s t : State} {f : Machine.Group → Nat → Trap} (hs : QueueOk s) (h : s.trapUnit f = .next t) : QueueOk t := by
  unfold State.trapUnit at h
  split at h
  · cases h
  · cases h
    exact unlessHeld_queue (a := { s with issued := false }) hs
theorem foldl_mem {α : Type} {f : State → α → State} (h : ∀ s x, (f s x).mem = s.mem) (l : List α) (s : State) :
    (l.foldl f s).mem = s.mem := by
  induction l generalizing s with
  | nil => rfl
  | cons x l ih => exact (ih _).trans (h _ _)
theorem tick_mem (s : State) (d : Nat) : (s.tick d).mem = s.mem := by
  unfold State.tick; split <;> rfl
theorem giveSlot_mem (s : State) (k : Slot) (p : Machine.Group × Nat) : (s.giveSlot k p).mem = s.mem := by
  unfold State.giveSlot
  generalize (s.unitAt p.1 p.2).2 = n
  generalize (s.unitAt p.1 p.2).1 = i
  dsimp only
  rw [withCur_mem, modEntry_state_mem, spend_mem, setSlot_mem]
  exact rememberAll_only State.mem (fun _ _ _ => rfl) s p.1.ctx (s.fetchAddrs p.1 p.2 n)
theorem stopBoundaries_only {α : Type} (v : State → α) (h : ∀ (s : State) (gs : List Machine.Group), v { s with groups := gs } = v s) (s : State)
    (run : Instr → State → Host.Outcome State Fault Refusal) (core slot : Nat) : v (s.stopBoundaries run core slot) = v s := by
  unfold State.stopBoundaries
  generalize s.atBoundary run core slot = l
  have key : ∀ (l : List Nat) (t : State), v (l.foldl (fun (t : State) g => t.stopGroup g true) t) = v t := by
    intro l
    induction l with
    | nil => exact fun _ => rfl
    | cons x l ih => exact fun t => (ih _).trans (h _ _)
  exact key l s
theorem ready_queue (s : State) (run : Instr → State → Host.Outcome State Fault Refusal) (core slot : Nat) :
    (s.meetFolds.stopBoundaries run core slot).jqueue = s.jqueue := stopBoundaries_only State.jqueue (fun _ _ => rfl) _ _ _ _
theorem ready_mem (s : State) (run : Instr → State → Host.Outcome State Fault Refusal) (core slot : Nat) :
    (s.meetFolds.stopBoundaries run core slot).mem = s.mem := stopBoundaries_only State.mem (fun _ _ => rfl) _ _ _ _
theorem turn_none {s s1 : State} {core slot : Nat} {run : Instr → State → Host.Outcome State Fault Refusal}
    (hs : s.meetFolds.stopBoundaries run core slot = s1)
    (h : (s1.slotAt core slot).choose (s1.candidates run core slot) = none) : s.turn run core slot = .next s1 := by
  unfold State.turn; dsimp only; rw [hs, h]
theorem turn_some {s s1 : State} {core slot : Nat} {run : Instr → State → Host.Outcome State Fault Refusal} {g : Machine.Group} {e : Nat}
    (hs : s.meetFolds.stopBoundaries run core slot = s1)
    (h : (s1.slotAt core slot).choose (s1.candidates run core slot) = some (g, e)) : s.turn run core slot =
      run (s1.unitAt g e).1 (s1.giveSlot (s1.slotAt core slot) (g, e)) := by
  unfold State.turn; dsimp only; rw [hs, h]
theorem unitAt_ok {s : State} {g : Machine.Group} {e : Nat} {i n} (h : decode (s.fetchWords g (g.entry e).pc.toNat maxUnitWords) = .ok (i, n)) :
    (s.unitAt g e).1 = i := by unfold State.unitAt; dsimp only; rw [h]
theorem unitAt_trunc {s : State} {g : Machine.Group} {e : Nat} (h : decode (s.fetchWords g (g.entry e).pc.toNat maxUnitWords) = .error .truncated) :
    (s.unitAt g e).1 = .codeFetchFault := by unfold State.unitAt; dsimp only; rw [h]
theorem unitAt_regs {s : State} {g : Machine.Group} {e : Nat} {i n}
    (h : decode (s.fetchWords g (g.entry e).pc.toNat maxUnitWords) = .error .illegalOperand)
    (hi : readUnit (s.fetchWords g (g.entry e).pc.toNat maxUnitWords) = .ok (i, n)) :
    (s.unitAt g e).1 = i := by unfold State.unitAt; dsimp only; rw [h, hi]
theorem unitAt_err {s : State} {g : Machine.Group} {e : Nat} {r} (h : decode (s.fetchWords g (g.entry e).pc.toNat maxUnitWords) = .error r)
    (hr : r ≠ .truncated) (ho : r ≠ .illegalOperand) :
    (s.unitAt g e).1 = .unassignedOpcodeUnit r := by
  unfold State.unitAt; dsimp only; rw [h]
  cases r <;> first | rfl | exact absurd rfl hr | exact absurd rfl ho
theorem move_slot {s : State} {run : Instr → State → Host.Outcome State Fault Refusal} {dt core slot rest}
    (h : s.agenda = (dt, .slot core slot) :: rest) :
    s.move run = (({ s.noteStalls run dt with agenda := rest } : State).tick dt).turn run core slot := by
  unfold State.move; rw [h]; rfl
theorem move_event {s : State} {run : Instr → State → Host.Outcome State Fault Refusal} {dt i rest}
    (h : s.agenda = (dt, .event i) :: rest) (hi : i.parts = none) :
    s.move run = run i (({ s.noteStalls run dt with agenda := rest, cur := none } : State).tick dt) := by
  unfold State.move; rw [h]; dsimp only; rw [hi]; rfl
theorem giveSlot_cur (s : State) (k : Slot) (g : Machine.Group) (e : Nat) :
    (s.giveSlot k (g, e)).cur = some (g.id, e) := by
  unfold State.giveSlot State.withCur; rfl

theorem blame_onlyObs (s : State) (x : Stall) : OnlyObs s (s.blame x) := by
  unfold State.blame
  simp only
  split
  · exact .refl s
  · split
    · exact .refl s
    · exact emit_onlyObs _ _ _ _
theorem noteOne_onlyObs (s : State) (run : Instr → State → Host.Outcome State Fault Refusal) (olds : List Stall) (t : State)
    (p : Machine.Group × Nat) : OnlyObs t (s.noteOne run olds t p) := by
  unfold State.noteOne
  simp only
  split
  · exact (OnlyObs.refl t).set _
  · exact blame_onlyObs _ _
  · exact .refl t
/-- Noting stalls writes the trace ring and the observation registers only. -/
theorem noteStalls_onlyObs (s : State) (run : Instr → State → Host.Outcome State Fault Refusal) (dt : Nat) :
    OnlyObs s (s.noteStalls run dt) := by
  unfold State.noteStalls
  simp only
  split
  · exact .refl s
  · exact ((OnlyObs.refl s).set _).trans (OnlyObs.foldl (fun t p => noteOne_onlyObs s run _ t p) _ _)
/-- Noting stalls posts no record. -/
theorem noteStalls_queue (s : State) (run : Instr → State → Host.Outcome State Fault Refusal) (dt : Nat) :
    (s.noteStalls run dt).jqueue = s.jqueue := (noteStalls_onlyObs s run dt).queue
/-- Without BLAME packets and samples nothing is noted in a step that takes no time. -/
theorem noteStalls_off {s : State} (run : Instr → State → Host.Outcome State Fault Refusal) (h : s.obs.blmin = 0 ∨ s.obs.ring = 0)
    (k : s.obs.sampEn = false) : s.noteStalls run 0 = s := by
  unfold State.noteStalls
  rw [if_pos (by rcases h with h | h <;> simp [h, k])]

end Sys2Proof.Laws
end

