-- ==== Sys2Proof/Laws/Traps.lean ====
section
/-! SUPPORT. Traps of units that cannot run, special registers, and what taking a trap leaves. -/
namespace Sys2Proof.Laws
open Sys2Proof.Machine Sys2Proof.Safety

/-! ## Special registers -/

theorem wide_eq (n : Nat) : ((srInfo n).map SrInfo.wide).getD false = wideSr n := by
  unfold srInfo
  split <;> simp_all [wideSr]
theorem setV_congr (g : Machine.Group) (r : Nat) (m : Word) {f k : Nat → Word} (h : ∀ l, laneIn m l = true → f l = k l) : g.setV r m f = g.setV r m k := by
  have e (x : Vector Word 32) : (Vector.ofFn fun (l : Fin 32) => if laneIn m l then f l else x[l]) = Vector.ofFn fun (l : Fin 32) => if laneIn m l then k l else x[l] := by
    congr 1
    funext l
    by_cases c : laneIn m l = true
    · rw [if_pos c, if_pos c, h _ c]
    · rw [if_neg c, if_neg c]
  unfold Group.setV
  cases g.v[r]? with
  | none => rfl
  | some x => dsimp only; rw [e x]
theorem putV_sr (g : Machine.Group) (wide : Bool) (a : BitVec 7) (m : Word) (v : Nat → Nat) : g.putV false wide a.toNat m 0 v =
   if wide then (g.setV a.toNat m fun l => loWord (BitVec.ofNat 64 (v l))).setV (a.toNat + 1) m fun l => hiWord (BitVec.ofNat 64 (v l))
    else g.setV a.toNat m fun l => BitVec.ofNat 32 (v l) := by
  unfold Group.putV
  dsimp only
  rw [if_neg (by decide), show m ||| 0 = m from BitVec.or_zero]
  have h1 (k : Machine.Group) (r : Nat) (f : Nat → Word) : (k.setV r m fun l => if laneIn m l then f l else 0) = k.setV r m f :=
    setV_congr k r m fun l hl => by rw [if_pos hl]
  rw [h1, h1]
  simp only [hiWord_ofNat, ← loWord_ofNat]

/-! ## Units that trap -/

theorem issuing_of {s : State} {g : Machine.Group} {e : Nat} (h : AtUnit s g e) : s.issuing = some (g, e) := by
  obtain ⟨hc, hg, hf, h1, h2⟩ := h
  simp [State.issuing, hc, hg, hf]
theorem atUnit_of {s : State} {g : Machine.Group} {e : Nat} (h : AtUnit s g e) (unit : State → State)
   (hq : (unit { s with issued := false }).jqueue.length ≤ max 4096 s.jqueue.length) :
    ({ s with issued := false } : State).atUnit g e unit = unit { s with issued := false } := by
  obtain ⟨hc, hg, hf, h1, h2⟩ := h
  have h1' : g.late.find? (fun f => (f.lanes g.live &&& (g.entry e).mask) != 0) = none := by
    rw [List.find?_eq_none]; simpa using h1
  have hb : ({ s with issued := false } : State).boundary g e = none := by simp only [State.boundary, h1', h2, Bool.false_eq_true, if_false]
  unfold State.atUnit
  rw [hb]
  exact unlessHeld_of_le (a := { s with issued := false }) hq
theorem trapUnit_of {s : State} {g : Machine.Group} {e : Nat} (h : AtUnit s g e) (t : Machine.Group → Nat → Trap)
   (hq : (State.trapped g.id e (g.entry e) (t g e) { s with issued := false } { s with issued := false }).jqueue.length ≤ max 4096 s.jqueue.length) :
   s.trapUnit t = .next (State.trapped g.id e (g.entry e) (t g e) { s with issued := false } { s with issued := false }) := by
  unfold State.trapUnit
  rw [issuing_of h]
  dsimp only
  exact congrArg Host.Outcome.next (atUnit_of h (fun s1 => State.trapped g.id e (g.entry e) (t g e) s1 s1) hq)
theorem exec_unassigned (code : Reject) (s : State) : exec (.unassignedOpcodeUnit code) s = execUnassignedOpcodeUnit code s := rfl
theorem exec_fetch (s : State) : exec .codeFetchFault s = execCodeFetchFault s := rfl
theorem issue_illegal {i : Instr} {s : State} {g : Machine.Group} {e : Nat} {p : Parts} {r : Reject} (h : AtUnit s g e) (hp : i.parts = some p) (hr : g.unitCheck e p = some r)
   (hw : s.checkWaits g p = false)
   (body : Frag → State → Res) (hq : (State.trapped g.id e (g.entry e) (Trap.at_ (rejectCode r) (g.entry e).pc) { s with issued := false } { s with issued := false }).jqueue.length ≤ max 4096 s.jqueue.length) :
   issue i s body = .next (State.trapped g.id e (g.entry e) (Trap.at_ (rejectCode r) (g.entry e).pc) { s with issued := false } { s with issued := false }) := by
  have hc : ({ s with issued := false } : State).checked i g e body = State.trapped g.id e (g.entry e) (Trap.at_ (rejectCode r) (g.entry e).pc) { s with issued := false } { s with issued := false } := by
    unfold State.checked
    rw [hp]
    dsimp only
    rw [if_neg (by rw [show ({ s with issued := false } : State).checkWaits g p = false from hw]; decide), hr]
  unfold issue
  rw [issuing_of h]
  dsimp only
  refine congrArg Host.Outcome.next ((atUnit_of h (fun s0 => s0.checked i g e body) ?_).trans hc)
  rw [hc]; exact hq

/-! ## Requests -/

theorem ofNat64_s64 (g : Machine.Group) (r : Nat) : BitVec.ofNat 64 (g.sVal true r) = s64 g r := by rw [sVal_pair, ofNat_toNat]
theorem level_eq (f : RF) (u : Frag) : (if f.k == 0 then (u.g.getV f.c.toNat (lowLane u.x.mask)).toNat else if f.k == 1 then (u.g.getS f.c.toNat).toNat else f.c.toNat) = levelAsked f u := by
  simp only [levelAsked, beq_iff_eq]
theorem tag_eq (f : RF) (u : Frag) : (if f.k == 1 then (u.g.getS f.c.toNat).toNat else (f.c.signExtend 32).toNat) = tagAsked f u := by
  simp only [tagAsked, beq_iff_eq]
theorem targetCore_queue (s : State) (n : Nat) : (s.targetCore n).jqueue = s.jqueue := rfl
theorem modIsland_queue (s : State) (n : Nat) (f : Island → Island) : (s.modIsland n f).jqueue = s.jqueue := rfl
theorem targetEngine_queue (s : State) (c : Nat) : (s.targetEngine c).jqueue = s.jqueue := modIsland_queue _ _ _
theorem retarget_queue (s : State) (n : Nat) : (s.retarget n).jqueue = s.jqueue :=
  (modIsland_queue _ _ _).trans ((modIsland_queue _ _ _).trans ((targetEngine_queue _ _).trans (targetCore_queue _ _)))
theorem requestLevel_queue (s : State) (c k l : Nat) : (s.requestLevel c k l).2.jqueue = s.jqueue := by
  unfold State.requestLevel
  dsimp only
  split
  · rfl
  · exact retarget_queue _ _

/-! ## Entry -/

theorem OnlyMem.groups {a b : State} (h : OnlyMem a b) : b.groups = a.groups := by obtain ⟨_, _, _, _, rfl⟩ := h; rfl
theorem commitNew_groups (s t : State) (c : Nat) (r : Reach) : (s.commitNew t c r).groups = s.groups := rfl
theorem performN_groups (bs : List Byte) (s : State) (c k : Nat) (m : Bool) (o : Option Origin) : (s.performN c k m o bs).groups = s.groups := by
  unfold State.performN
  split
  · exact (putN_onlyMem _ _ _).groups
  · rfl
theorem foldl_groups {α : Type} {f : State → α → State} (h : ∀ s x, (f s x).groups = s.groups) (l : List α) (s : State) :
    (l.foldl f s).groups = s.groups := by
  induction l generalizing s with
  | nil => rfl
  | cons x l ih => exact (ih _).trans (h _ _)
theorem writeTgt_groups (s : State) (c : Nat) (t : Tgt) (bs : List Byte) (o : Option Origin) : (s.writeTgt c t bs o).groups = s.groups := by
  have hh : (s.holdTgt t bs.length).groups = s.groups := (holdTgt_onlyMem s t _).groups
  unfold State.writeTgt
  dsimp only
  split
  · split
    · exact (putN_onlyMem _ _ _).groups.trans hh
    · exact (performN_groups _ _ _ _ _ _).trans hh
  · exact (foldl_groups (fun s k => performN_groups _ s _ k _ _) _ _).trans hh
  · exact hh

/-- The groups are as they were, but for failures that wait for a fragment's next boundary (R200). -/
def OnlyLate (a b : State) : Prop := ∃ l : Machine.Group → List Late, b.groups = a.groups.map fun g => { g with late := l g }

theorem OnlyLate.of {a b : State} (h : b.groups = a.groups) : OnlyLate a b := ⟨fun g => g.late, by simp [h]⟩
theorem OnlyLate.trans {a b c : State} (h : OnlyLate a b) (k : c.groups = b.groups) : OnlyLate a c := by
  obtain ⟨l, h⟩ := h
  exact ⟨l, k.trans h⟩
theorem failCommits_late (s : State) (bad : List Origin) : OnlyLate s (s.failCommits bad) := by
  unfold State.failCommits
  split
  · exact .of rfl
  · exact ⟨_, rfl⟩
theorem leave_late (s : State) (c t : Nat) (p : Write → Bool) : OnlyLate s (s.leave c t p) := by
  unfold State.leave
  dsimp only
  split
  · exact .of rfl
  · exact failCommits_late _ _
theorem flushOwn_late (s : State) (c : Nat) (ks : List Nat) (n : Nat) : OnlyLate s (s.flushOwn c ks n) := by
  unfold State.flushOwn
  dsimp only
  split
  · exact .of rfl
  · exact leave_late _ _ _ _
theorem putTgt_late (s : State) (c : Nat) (t : Tgt) (bs : List Byte) : OnlyLate s (s.putTgt c t bs) := by
  refine (flushOwn_late s c t.localKeys bs.length).trans ?_
  exact (foldl_groups (fun u _ => (doneBytes_onlyMem u _ _ _ _ _).groups) _ _).trans (holdTgt_onlyMem _ t _).groups

/-- A record's store changes no group (R279), but that stores to replicated pages which it makes leave its core may fail (R196). -/
theorem writeRecord_late (s : State) (g : Machine.Group) (o : Nat) (bs : List Byte) : OnlyLate s (s.writeRecord g o bs).1 := by
  unfold State.writeRecord
  split
  · exact .of ((commitNew_groups _ _ _ _).trans (writeTgt_groups _ _ _ _ _))
  · dsimp only
    split
    · exact putTgt_late { s with free := s.free + 1 } _ _ _
    · exact .of rfl
  · exact .of rfl
/-- Such a group is found as it was, but for its failures. -/
theorem OnlyLate.group {a b : State} (h : OnlyLate a b) (n : Nat) : ∃ l : Machine.Group → List Late,
    b.group? n = (a.group? n).map fun g => { g with late := l g } := by
  obtain ⟨l, h⟩ := h
  refine ⟨l, ?_⟩
  unfold State.group?
  rw [h, List.find?_map]
  rfl
theorem entry_mod_same (g : Machine.Group) {e : Nat} {f : Entry → Entry} (he : e < 72) : (g.modEntry e f).entry e = f (g.entry e) := by
  unfold Group.modEntry Group.setEntry Group.entry
  simp [he]
theorem entry_mod_other (g : Machine.Group) {e j : Nat} (f : Entry → Entry) (hj : j ≠ e) : (g.modEntry e f).entry j = g.entry j := by
  unfold Group.modEntry Group.setEntry Group.entry
  simp [hj.symm]

end Sys2Proof.Laws
end

