-- ==== Sys2Proof/Tests/Slice0.lean ====
section
/-! SUPPORT. Tests: words and what they decode to, terms that the checks refuse, values of the spec's own examples, and for each
statement states and operands that meet what its clauses ask for. -/
namespace Sys2Proof.Tests
set_option Elab.async false
open Sys2Proof.Machine Sys2Proof.Safety

/-! ## A small machine -/

/-- A group of 32 lanes at offset 0, as placing makes it. -/
def g0 : Machine.Group :=
  { ({ State.reset with nextId := 0 } : State).newGroup Region.probe 0 0 0 0 0 0 0 0 0 with
    legacy := false, entries := (Vector.replicate 72 Entry.free).setIfInBounds 0 { Entry.free with st := .ready, mask := 0xFFFFFFFF } }

/-- The machine with that group in issue, after `f` changed it. -/
def on (f : Machine.Group → Machine.Group) : State := { State.reset.probe [] with groups := [f g0], cur := some (0, 0) }

/-- The conditions of a unit that nothing delays, and what else a clause asks, hold somewhere. -/
def Meets (i : Instr) (P : Frag → State → Prop) : Prop :=
  ∃ s g e p, Clear s i g e p ∧ P (frag g e p) (past s g e p)

/-- The same with room in the on-die queue for what the unit posts. -/
def MeetsRoom (i : Instr) (P : Frag → State → Prop) (eff : Frag → State → State) : Prop :=
  ∃ s g e p, Clear s i g e p ∧ P (frag g e p) (past s g e p) ∧
    (eff (frag g e p) (past s g e p)).finish.jqueue.length ≤ max 4096 s.jqueue.length

/-- The same with room for what a trap posts. -/
def MeetsTrap (i : Instr) (P : Frag → State → Prop) (t : Frag → Trap) : Prop :=
  ∃ s g e p, Clear s i g e p ∧ P (frag g e p) (past s g e p) ∧
    (State.trapped g.id e (g.entry e) (t (frag g e p)) (past s g e p) (past s g e p)).jqueue.length ≤ max 4096 s.jqueue.length

/-- Room for what a step of the device posts. -/
def Room (s t : State) : Prop := t.settle.jqueue.length ≤ max 4096 s.jqueue.length

theorem clear_of {s : State} {g : Machine.Group} (i : Instr) (p : Parts) (h1 : i.parts = some p) (h2 : p.check = none)
    (h3 : p.mods.stop = false) (hg : s.groups = [g]) (hc : s.cur = some (g.id, 0)) (hb : s.unitHeld g 0 p = false)
    (hf : (g.entry 0).isFragment = true) (hl : g.late = []) (hs : g.softErr = []) (hm : g.touched p (execLanes g 0 p) = []) (hv : g.movedRegs p = []) :
    Clear s i g 0 p :=
  ⟨hc, by show s.groups.find? _ = _; rw [hg, List.find?_cons]; simp, hf, h1, h2, by rw [hl]; rfl, by rw [hs]; rfl, hb, by unfold Group.softReads; rw [hs]; rfl, hm, hv, by rw [h3]; rfl⟩

theorem meets {s : State} {g : Machine.Group} {i : Instr} {P : Frag → State → Prop} {p : Parts} (h1 : i.parts = some p)
    (hP : P (frag g 0 p) (past s g 0 p)) (h2 : p.check = none := by decide) (h3 : p.mods.stop = false := by rfl)
    (hg : s.groups = [g] := by rfl) (hc : s.cur = some (g.id, 0) := by rfl) (hb : s.unitHeld g 0 p = false := by decide)
    (hf : (g.entry 0).isFragment = true := by rfl) (hl : g.late = [] := by rfl) (hs : g.softErr = [] := by rfl)
    (hm : g.touched p (execLanes g 0 p) = [] := by rfl) (hv : g.movedRegs p = [] := by rfl) : Meets i P :=
  ⟨s, g, 0, p, clear_of i p h1 h2 h3 hg hc hb hf hl hs hm hv, hP⟩

theorem meetsRoom {s : State} {g : Machine.Group} {i : Instr} {P : Frag → State → Prop} {eff : Frag → State → State} {p : Parts}
    (h1 : i.parts = some p) (hP : P (frag g 0 p) (past s g 0 p))
    (hr : (eff (frag g 0 p) (past s g 0 p)).finish.jqueue.length ≤ max 4096 s.jqueue.length)
    (h2 : p.check = none := by decide) (h3 : p.mods.stop = false := by rfl)
    (hg : s.groups = [g] := by rfl) (hc : s.cur = some (g.id, 0) := by rfl) (hb : s.unitHeld g 0 p = false := by decide)
    (hf : (g.entry 0).isFragment = true := by rfl) (hl : g.late = [] := by rfl) (hs : g.softErr = [] := by rfl)
    (hm : g.touched p (execLanes g 0 p) = [] := by rfl) (hv : g.movedRegs p = [] := by rfl) : MeetsRoom i P eff :=
  ⟨s, g, 0, p, clear_of i p h1 h2 h3 hg hc hb hf hl hs hm hv, hP, hr⟩

theorem meetsTrap {s : State} {g : Machine.Group} {i : Instr} {P : Frag → State → Prop} {t : Frag → Trap} {p : Parts}
    (h1 : i.parts = some p) (hP : P (frag g 0 p) (past s g 0 p))
    (hr : (State.trapped g.id 0 (g.entry 0) (t (frag g 0 p)) (past s g 0 p) (past s g 0 p)).jqueue.length ≤ max 4096 s.jqueue.length)
    (h2 : p.check = none := by decide) (h3 : p.mods.stop = false := by rfl)
    (hg : s.groups = [g] := by rfl) (hc : s.cur = some (g.id, 0) := by rfl) (hb : s.unitHeld g 0 p = false := by decide)
    (hf : (g.entry 0).isFragment = true := by rfl) (hl : g.late = [] := by rfl) (hs : g.softErr = [] := by rfl)
    (hm : g.touched p (execLanes g 0 p) = [] := by rfl) (hv : g.movedRegs p = [] := by rfl) : MeetsTrap i P t :=
  ⟨s, g, 0, p, clear_of i p h1 h2 h3 hg hc hb hf hl hs hm hv, hP, hr⟩

/-- Whether nothing delays a unit of the group. -/
def clearly (i : Instr) : Bool :=
  match i.parts with
  | some p => decide (p.check = none) && !p.mods.stop && !(on id).unitHeld g0 0 p
  | none => false

theorem runs {i : Instr} (h : clearly i = true) : Meets i fun _ _ => True := by
  unfold clearly at h
  split at h
  · rename_i p hp
    simp only [Bool.and_eq_true, decide_eq_true_eq, Bool.not_eq_true'] at h
    exact meets (s := on id) (g := g0) hp trivial h.1.1 h.1.2 (hb := h.2)
  · exact absurd h (by decide)

theorem all_run {is : List Instr} (h : is.all clearly = true) : ∀ i ∈ is, Meets i fun _ _ => True :=
  fun i hi => runs (List.all_eq_true.mp h i hi)

/-! ## Witnesses: what each statement's clauses ask of a state can hold -/

/-- Modifier words that select M1. -/
def sel1 : Mods := { Mods.bare with x := some { ModX.zero with msel := 1 } }

/-- Modifier words with U. -/
def uni : Mods := { Mods.bare with x := some { ModX.zero with u := true } }

theorem test_meets_UniformArithmetic : ∀ i ∈ ([.sadd32 Mods.bare ⟨0, 1, 2, 1⟩, .ssub32 Mods.bare ⟨63, 1, 63, 2⟩, .smul32 Mods.bare ⟨0, 1, 2, 1⟩,
    .sadd64 Mods.bare ⟨62, 2, 4, 1⟩, .ssub64 Mods.bare ⟨62, 2, 4, 1⟩, .smul64 Mods.bare ⟨62, 2, 4, 1⟩] : List Instr), Meets i fun _ _ => True :=
  all_run (by decide)
theorem test_meets_UniformLogic : ∀ i ∈ ([Instr.smulhI32, .smulhN32, .sand, .sor, .sxor, .sshl, .sshr, .ssar, .sminI32, .sminN32, .smaxI32,
    .smaxN32].map fun c => c Mods.bare ⟨63, 0, 63, 1⟩ : List Instr), Meets i fun _ _ => True := all_run (by decide)
theorem test_meets_UniformCompareAndMove : ∀ i ∈ ([.smovi Mods.bare ⟨63, 0xFFFF⟩] ++ [Instr.scmpEq, .scmpNe, .scmpLtI32, .scmpLtN32, .scmpLeI32,
    .scmpLeN32, .scmpGtI32, .scmpGtN32, .scmpGeI32, .scmpGeN32, .ssel].map fun c => c Mods.bare ⟨63, 0, 63, 1⟩ : List Instr), Meets i fun _ _ => True :=
  all_run (by decide)
theorem test_meets_VectorArithmetic : ∀ i ∈ ([.iabs Mods.bare ⟨127, 0, 0, 0⟩, .iadd64 Mods.bare ⟨126, 0, 2, 0⟩, .isub64 uni ⟨62, 0, 2, 1⟩,
    .imul64 Mods.bare ⟨126, 0, 2, 0⟩] ++ [Instr.iadd32, .isub32, .imul32, .imad, .imulhI32, .imulhN32].map
      fun c => c Mods.bare ⟨127, 0, 127, 0⟩ : List Instr), Meets i fun _ _ => True := all_run (by decide)
theorem test_meets_VectorLogic : ∀ i ∈ ([Instr.iand, .ior, .ixor, .ishl32, .ishl64, .ishr32, .ishr64, .isar32, .isar64, .iminI32, .iminN32,
    .imaxI32, .imaxN32].map fun c => c Mods.bare ⟨126, 0, 126, 0⟩ : List Instr), Meets i fun _ _ => True := all_run (by decide)
theorem test_meets_VectorBitFields : ∀ i ∈ ([Instr.popcB32, .popcB64, .clzB32, .clzB64, .brev].map (fun c => c Mods.bare ⟨126, 0, 0, 0⟩) ++
    [Instr.bfeI32, .bfeN32, .bfi].map fun c => c Mods.bare ⟨127, 0, 127, 0⟩ : List Instr), Meets i fun _ _ => True := all_run (by decide)
theorem test_meets_VectorCompareAndSelect : ∀ i ∈ ([Instr.icmpI32, .icmpN32, .icmpI64, .icmpN64].map (fun c => c Mods.bare ⟨0x5F, 0, 2, 0⟩) ++
    [Instr.iselB32, .iselB64].map fun c => c Mods.bare ⟨126, 15, 2, 0⟩ : List Instr), Meets i fun _ _ => True := all_run (by decide)
theorem test_meets_MaskUnits : ∀ i ∈ ([Instr.mand, .mor, .mxor].map (fun c => c Mods.bare ⟨15, 0, 15, 0⟩) ++
    [.mnot Mods.bare ⟨15, 0, 0, 0⟩, .mpopc Mods.bare ⟨63, 15, 0, 0⟩, .mfirst Mods.bare ⟨63, 15, 0, 0⟩] : List Instr), Meets i fun _ _ => True :=
  all_run (by decide)

/-- A second fragment, of lanes 16 to 31 of the group. -/
def pair (e : Entry) (m1 : Word) (g : Machine.Group) : Machine.Group :=
  { g with mr := g.mr.set 1 m1,
           entries := (g.entries.set 0 { Entry.free with st := .ready, mask := 0xFFFF }).set 1 { e with mask := 0xFFFF0000 } }
def ready : Entry := { Entry.free with st := .ready }
def waitsElsewhere : Entry := { Entry.free with st := .collective, named := 1, pc := 64 }

theorem test_meets_VotesAndShuffles :
    Meets (.vote Mods.bare ⟨1, 2, 0, 2⟩) (fun u _ => u.m.modx.msel = 0) ∧
    Meets (.vote sel1 ⟨1, 2, 0, 2⟩) (fun u _ => u.m.modx.msel ≠ 0 ∧ inMismatch u = false ∧ namedLanes u &&& ~~~gatheredLanes u ≠ 0) ∧
    Meets (.vote sel1 ⟨1, 2, 0, 2⟩) (fun u _ => u.m.modx.msel ≠ 0 ∧ inMismatch u = false ∧ namedLanes u &&& ~~~gatheredLanes u = 0) ∧
    Meets (.vote sel1 ⟨1, 2, 0, 2⟩) (fun u _ => u.m.modx.msel ≠ 0 ∧ inMismatch u = true) :=
  ⟨meets (s := on id) (g := g0) rfl rfl,
   meets (s := on (pair ready 0x10001)) (g := pair ready 0x10001 g0) rfl (by decide),
   meets (s := on (pair ready 0xFFFF)) (g := pair ready 0xFFFF g0) rfl (by decide),
   meets (s := on (pair waitsElsewhere 0x10001)) (g := pair waitsElsewhere 0x10001 g0) rfl (by decide)⟩
theorem test_run_collectives : ∀ i ∈ ([.rdlane Mods.bare ⟨1, 2, 31, 2⟩, .wrlane Mods.bare ⟨1, 2, 31, 2⟩] ++ [Instr.shflIdx, .shflUp,
    .shflDown, .shflXor, .bcast].map (fun c => c Mods.bare ⟨1, 2, 31, 2⟩) : List Instr), Meets i fun _ _ => True := all_run (by decide)
theorem test_meets_LaneReadsAndReduction : Meets (.redux sel1 ⟨1, 2, 7, 2⟩) fun u _ =>
    u.m.modx.msel ≠ 0 ∧ inMismatch u = false ∧ namedLanes u &&& ~~~gatheredLanes u = 0 :=
  meets (s := on (pair ready 0xFFFF)) (g := pair ready 0xFFFF g0) rfl (by decide)
theorem test_meets_FloatArithmetic : ∀ i ∈ ([Instr.faddF32, .faddF16x2, .fsubF32, .fsubF16x2, .fmulF32, .fmulF16x2, .ffmaF32, .ffmaF16x2].map
    fun c => c Mods.bare ⟨127, 0, 127, 0⟩ : List Instr), Meets i fun _ _ => True := all_run (by decide)
theorem test_meets_FloatComparesAndFunctions : ∀ i ∈ ([.fcmp Mods.bare ⟨0x5F, 2, 3, 0⟩, .fclass Mods.bare ⟨127, 0, 2, 2⟩] ++ [Instr.fsqrt, .frcp,
    .frsq, .fexp2, .flog2, .fsin, .fcos].map (fun c => c Mods.bare ⟨127, 0, 0, 0⟩) : List Instr), Meets i fun _ _ => True := all_run (by decide)
theorem test_meets_Conversions : ∀ i ∈ ([Instr.cvtF32, .cvtF16, .cvtBf16, .cvtInt32, .cvtInt64, .cvtSmall].map (fun c => c Mods.bare ⟨126, 0, 10, 2⟩) ++
    [.kbpack Mods.bare ⟨127, 0, 0, 2⟩, .kbunpack Mods.bare ⟨127, 0, 0, 2⟩] : List Instr), Meets i fun _ _ => True := all_run (by decide)
theorem test_meets_FloatMinMax : ∀ i ∈ ([Instr.fminF32, .fmaxF32, .fminF16x2, .fmaxF16x2].map fun c => c Mods.bare ⟨127, 0, 127, 0⟩ : List Instr),
    Meets i fun _ _ => True := all_run (by decide)
theorem test_meets_StraightControl : ∀ i ∈ ([.nop Mods.bare ⟨0, 0, 0, 0⟩, .bra Mods.bare ⟨0x7FFFFF⟩, .brcU Mods.bare ⟨63, 0x8000⟩,
    .call Mods.bare ⟨127, 0x7FFF⟩, .callU Mods.bare ⟨63, 0x7FFF⟩, .retU Mods.bare ⟨0, 63, 0, 0⟩] : List Instr), Meets i fun _ _ => True :=
  all_run (by decide)

/-- Entries all in use but the last, which is `last`; the first a fragment, with M1 set in lane 0. -/
def full (last : Entry) (g : Machine.Group) : Machine.Group :=
  { g with mr := g.mr.set 1 1,
           entries := ((Vector.replicate 72 { Entry.free with st := .joinWait }).set 0 { Entry.free with st := .ready, mask := 0xFFFFFFFF }).set 71 last }
def joinW : Entry := { Entry.free with st := .joinWait }
/-- A fragment in its handler, of no lane: a trap of another fragment is held (R282). -/
def inH : Entry := { Entry.free with st := .ready, inH := true }

theorem test_meets_DivergentBranches :
    Meets (.brc Mods.bare ⟨1, 500⟩) (fun u s => mayFold ⟨1, 500⟩ u s = false ∧ u.g.used + created (brcPaths ⟨1, 500⟩ u) ≤ 72) ∧
    Meets (.brc Mods.bare ⟨1, 5⟩) (fun u s => mayFold ⟨1, 5⟩ u s = true ∧ u.g.used + created (brcPaths ⟨1, 5⟩ u) ≤ 72) ∧
    Meets (.brm Mods.bare ⟨0, 0, 0, 0⟩ [⟨1, 5⟩]) (fun u _ => u.g.used + created (brmPaths u [⟨1, 5⟩] 1 u.x.mask) ≤ 72) ∧
    Meets (.jmpi Mods.bare ⟨0, 2, 0, 0⟩) (fun u s => u.g.used + created (indirectPaths ⟨0, 2, 0, 0⟩ u s) ≤ 72) ∧
    Meets (.ret Mods.bare ⟨0, 2, 0, 0⟩) (fun u s => u.g.used + created (indirectPaths ⟨0, 2, 0, 0⟩ u s) ≤ 72) :=
  ⟨meets (s := on (full Entry.free)) (g := full Entry.free g0) rfl (by decide +kernel), meets (s := on (full Entry.free)) (g := full Entry.free g0) rfl (by decide +kernel),
   meets (s := on (full Entry.free)) (g := full Entry.free g0) rfl (by decide +kernel),
   meets (s := on (full joinW)) (g := full joinW g0) rfl (by decide +kernel), meets (s := on (full joinW)) (g := full joinW g0) rfl (by decide +kernel)⟩

/-- V2 of lane 1 differs from that of the others. -/
def twoWays (g : Machine.Group) : Machine.Group := (full inH g).setV 2 2 fun _ => 64

theorem test_meets_SplitOverflow :
    MeetsTrap (.brc Mods.bare ⟨1, 500⟩) (fun u s => mayFold ⟨1, 500⟩ u s = false ∧ 72 < u.g.used + created (brcPaths ⟨1, 500⟩ u))
      (fun u => Trap.at_ trapSplit u.x.pc) ∧
    MeetsTrap (.brm Mods.bare ⟨0, 0, 0, 0⟩ [⟨1, 5⟩]) (fun u _ => 72 < u.g.used + created (brmPaths u [⟨1, 5⟩] 1 u.x.mask))
      (fun u => Trap.at_ trapSplit u.x.pc) ∧
    MeetsTrap (.jmpi Mods.bare ⟨0, 2, 0, 0⟩) (fun u s => 72 < u.g.used + created (indirectPaths ⟨0, 2, 0, 0⟩ u s))
      (fun u => Trap.at_ trapSplit u.x.pc) ∧
    MeetsTrap (.ret Mods.bare ⟨0, 2, 0, 0⟩) (fun u s => 72 < u.g.used + created (indirectPaths ⟨0, 2, 0, 0⟩ u s))
      (fun u => Trap.at_ trapSplit u.x.pc) ∧
    MeetsTrap (.jset Mods.bare ⟨0⟩) (fun u _ => 72 < u.g.used + 1) (fun u => Trap.at_ trapSplit u.x.pc) :=
  ⟨meetsTrap (s := on (full inH)) (g := full inH g0) rfl (by decide +kernel) (by decide +kernel),
   meetsTrap (s := on (full inH)) (g := full inH g0) rfl (by decide +kernel) (by decide +kernel),
   meetsTrap (s := on twoWays) (g := twoWays g0) rfl (by decide +kernel) (by decide +kernel),
   meetsTrap (s := on twoWays) (g := twoWays g0) rfl (by decide +kernel) (by decide +kernel),
   meetsTrap (s := on (full inH)) (g := full inH g0) rfl (by decide +kernel) (by decide +kernel)⟩

theorem ite_len {b : Bool} {x y : State} {n : Nat} (h : x.jqueue.length ≤ n) (k : y.jqueue.length ≤ n) :
    (if b then x else y).jqueue.length ≤ n := by cases b <;> assumption

/-- A `brc` that may be folded where no entry is free. -/
theorem test_meets_SplitOverflow_folded : ∃ s g e p, Clear s (.brc Mods.bare ⟨1, 5⟩) g e p ∧
    let u := frag g e p
    let s1 : State := { past s g e p with free := s.free + 1 }
    mayFold ⟨1, 5⟩ u (past s g e p) = true ∧ 72 < g.used + created (brcPaths ⟨1, 5⟩ u) ∧
    (if Config.freeBit s.free then { foldedInto ⟨1, 5⟩ u s1 with issued := true }
      else State.trapped g.id e (g.entry e) (Trap.at_ trapSplit (g.entry e).pc) s1 s1).jqueue.length ≤ max 4096 s.jqueue.length :=
  ⟨on (full inH), full inH g0, 0, _, clear_of _ _ rfl (by decide) rfl rfl rfl (by decide) rfl rfl rfl rfl rfl,
   by decide +kernel, by decide +kernel, ite_len (by decide +kernel) (by decide +kernel)⟩

/-- A fragment at its JOIN, whose parent waits. -/
def atJoin (g : Machine.Group) : Machine.Group :=
  { g with entries := (g.entries.set 0 { Entry.free with st := .ready, mask := 0xFFFF, join := 0, parent := 1, depth := 1 }).set 1 { joinW with mask := 0xFFFF0000, pend := 0xFFFF } }
def someKilled (g : Machine.Group) : Machine.Group := { g with mr := g.mr.set 1 1 }

theorem test_meets_JoinsAndExits :
    Meets (.jset Mods.bare ⟨0⟩) (fun u _ => u.g.used + 1 ≤ 72) ∧
    MeetsRoom (.join Mods.bare ⟨0, 0, 0, 0⟩) (fun u _ => u.x.pc = u.x.join ∧ u.x.parent < 72) (fun u s =>
      ((s.modGroup u.g.id fun g => g.joinAt u.e).maskPacket u.g.id u.e 0 2).resumedTrace u.g) ∧
    Meets (.join Mods.bare ⟨0, 0, 0, 0⟩) (fun u _ => ¬(u.x.pc = u.x.join ∧ u.x.parent < 72)) ∧
    MeetsRoom (.exit Mods.bare ⟨0, 0, 0, 0⟩) (fun _ _ => True) (fun u s =>
      ((s.maskPacket u.g.id u.e 0 0).loseLanes u.g.id u.x.mask true).resumedTrace u.g) ∧
    Meets (.kill Mods.bare ⟨0, 2, 0, 0⟩) (fun u _ => u.g.mreg u.x.mask (⟨0, 2, 0, 0⟩ : RF).b.toNat &&& u.x.mask = 0) ∧
    MeetsRoom (.kill Mods.bare ⟨0, 1, 0, 0⟩) (fun u _ => u.g.mreg u.x.mask (⟨0, 1, 0, 0⟩ : RF).b.toNat &&& u.x.mask ≠ 0) (fun u s =>
      let k := u.g.mreg u.x.mask (⟨0, 1, 0, 0⟩ : RF).b.toNat &&& u.x.mask
      ((s.maskPacket u.g.id u.e (u.x.mask &&& ~~~k) 1).loseLanes u.g.id k true).resumedTrace u.g) :=
  ⟨meets (s := on (full Entry.free)) (g := full Entry.free g0) rfl (by decide +kernel),
   meetsRoom (s := on atJoin) (g := atJoin g0) rfl (by decide +kernel) (by decide +kernel),
   meets (s := on id) (g := g0) rfl (by decide +kernel),
   meetsRoom (s := on atJoin) (g := atJoin g0) rfl trivial (by decide +kernel),
   meets (s := on id) (g := g0) rfl (by decide +kernel),
   meetsRoom (s := on someKilled) (g := someKilled g0) rfl (by decide +kernel) (by decide +kernel)⟩

/-- S0 and S1 hold a scratchpad pointer, to offset `n` of the core; every lane's V0 and V1 one to 64 times its number. -/
def atSpad (n : Word) (g : Machine.Group) : Machine.Group :=
  ((((g.setS 0 n).setS 1 0x10000000).setV 0 0xFFFFFFFF fun l => BitVec.ofNat 32 (64 * l))).setV 1 0xFFFFFFFF fun _ => 0x10000000

theorem test_meets_LoadsIssue :
    Meets (.ldB32 Mods.bare ⟨2, 0, 0⟩) (fun u s => u.mustWait s (loadAcc ⟨2, 0, 0⟩ 4 false false u) = false ∧
      u.failing s (loadAcc ⟨2, 0, 0⟩ 4 false false u) = []) ∧
    Meets (.sldB64 Mods.bare ⟨2, 0, 0⟩) (fun u s => u.mustWait s (uniformAcc ⟨2, 0, 0⟩ 8 (.load 2 true false) Frag.isAcq u) = false ∧
      u.failing s (uniformAcc ⟨2, 0, 0⟩ 8 (.load 2 true false) Frag.isAcq u) = []) ∧
    Meets (.tset Mods.bare ⟨2, 0, 0⟩) (fun u s => u.mustWait s (uniformAcc ⟨2, 0, 0⟩ 64 (.tset 2) (fun _ => false) u) = false ∧
      u.failing s (uniformAcc ⟨2, 0, 0⟩ 64 (.tset 2) (fun _ => false) u) = []) ∧
    Meets (.ldB32 Mods.bare ⟨2, 0, 0⟩) (fun u s => u.mustWait s (loadAcc ⟨2, 0, 0⟩ 4 false false u) = true) ∧
    Meets (.ldsB32 Mods.bare ⟨2, 0, 0⟩) (fun u s => u.mustWait s (loadAcc ⟨2, 0, 0⟩ 4 false true u) = false ∧
      u.failing s (loadAcc ⟨2, 0, 0⟩ 4 false true u) ≠ []) :=
  ⟨meets (s := on (atSpad 0)) (g := atSpad 0 g0) rfl (by decide +kernel),
   meets (s := on (atSpad 4088)) (g := atSpad 4088 g0) rfl (by decide +kernel),
   meets (s := on (atSpad 4032)) (g := atSpad 4032 g0) rfl (by decide +kernel),
   meets (s := on fun g => { atSpad 0 g with ld := 63 }) (g := { atSpad 0 g0 with ld := 63 }) rfl (by decide +kernel),
   meets (s := on id) (g := g0) rfl (by decide +kernel)⟩
theorem test_run_loads : ∀ i ∈ ([.pref Mods.bare ⟨0, 0, 0⟩] ++ [Instr.ldN8, .ldI8, .ldN16, .ldI16, .ldB64, .ldsB64, .sldB32].map
    fun c => c Mods.bare ⟨2, 0, 0⟩ : List Instr), Meets i fun _ _ => True := all_run (by decide)
theorem test_meets_StoresAndAtomicsIssue :
    Meets (.stB32 Mods.bare ⟨2, 0, 0⟩) (fun u s => u.mustWait s (storeAcc ⟨2, 0, 0⟩ 4 false u) = false ∧
      u.failing s (storeAcc ⟨2, 0, 0⟩ 4 false u) = []) ∧
    Meets (.red32 Mods.bare ⟨2, 0, 0⟩) (fun u s => u.mustWait s (atomAcc ⟨2, 0, 0⟩ 4 false u) = false ∧
      u.failing s (atomAcc ⟨2, 0, 0⟩ 4 false u) = []) :=
  ⟨meets (s := on (atSpad 0)) (g := atSpad 0 g0) rfl (by decide +kernel),
   meets (s := on (atSpad 0)) (g := atSpad 0 g0) rfl (by decide +kernel)⟩
theorem test_run_stores : ∀ i ∈ ([Instr.st8, .st16, .stB64, .stsB32, .stsB64, .atom32, .atom64, .red64].map
    fun c => c Mods.bare ⟨2, 0, 0⟩ : List Instr), Meets i fun _ _ => True := all_run (by decide)

theorem some_of {α : Type} {x : Option α} (h : x.isSome = true) : x ≠ none := by rintro rfl; cases h

/-- Whether a result is a given number. -/
def gives {α : Type} (x : Except α Nat) (n : Nat) : Bool :=
  match x with
  | .ok k => k == n
  | .error _ => false
theorem of_gives {α : Type} {x : Except α Nat} {n : Nat} (h : gives x n = true) : x = .ok n := by
  unfold gives at h
  split at h
  · rw [beq_iff_eq.mp h]
  · cases h

/-- A barrier of `n` arrivals at offset 4080. -/
def withBar (n : Nat) : State :=
  let bs := (bytesOf 16 (txbWord n 0 n 0 0)).zipIdx
  let m := bs.foldl (fun (m : Memory) p => m.set (spadKey 0 4080 + p.2) p.1) (on (atSpad 4080)).mem
  { on (atSpad 4080) with mem := m }

/-- A row of 64 one-byte integers in scratchpad, from offset `n` on. -/
def row8 (n : Nat) : BitVec 512 :=
  BitVec.ofNat 512 (2 ^ 60 + n + 4 * 2 ^ 128 + 8 * 2 ^ 132 + 1 * 2 ^ 138 + 64 * 2 ^ 176 + 64 * 2 ^ 368)
/-- A tile of 64 by 32 one-byte integers in planes from offset `n` on. -/
def tile8 (n : Nat) : BitVec 512 :=
  BitVec.ofNat 512 (2 ^ 60 + n + 4 * 2 ^ 128 + 1 * 2 ^ 132 + 1 * 2 ^ 136 + 2 * 2 ^ 138 + 256 * 2 ^ 144 + 64 * 2 ^ 176 + 32 * 2 ^ 200 + 8 * 2 ^ 272 +
    64 * 2 ^ 368 + 32 * 2 ^ 384)
def shapes (a b : BitVec 512) (g : Machine.Group) : Machine.Group := (g.setT 0 a).setT 1 b

theorem test_meets_CopiesIssue :
    Meets (.cpyT Mods.bare ⟨0, 1, 0, 0⟩) (fun u s => copyAllowed (shapeOf (u.g.getT 0)) (shapeOf (u.g.getT 1)) = true ∧
      u.barCheck s ⟨0, 1, 0, 0⟩ = .ok none ∧ u.basesBad s (shapeOf (u.g.getT 0)) (shapeOf (u.g.getT 1)) = none ∧
      u.g.cp < 127 ∧ inFlight u s < 128 ∧ copyStarted ⟨0, 1, 0, 0⟩ none u s ≠ none) ∧
    Meets (.cpyLB32 Mods.bare ⟨0, 0, 0, 0⟩) (fun u s => u.barCheck s ⟨0, 0, 0, 0⟩ = .ok none ∧
      copyLanesFit ⟨0, 0, 0, 0⟩ 4 u s = true ∧ u.g.cp < 127 ∧ laneCopyStarted ⟨0, 0, 0, 0⟩ 4 none u s ≠ none) :=
  ⟨meets (s := on (shapes (row8 0) (row8 64))) (g := shapes (row8 0) (row8 64) g0) rfl
     ⟨by decide +kernel, rfl, by decide +kernel, by decide +kernel, by decide +kernel, some_of (by decide +kernel)⟩,
   meets (s := on (atSpad 0)) (g := atSpad 0 g0) rfl ⟨rfl, by decide +kernel, by decide +kernel, some_of (by decide +kernel)⟩⟩
theorem test_run_copies : ∀ i ∈ ([Instr.cpyLB64, .cpyLB128].map fun c => c Mods.bare ⟨2, 0, 0, 0⟩ : List Instr), Meets i fun _ _ => True :=
  all_run (by decide)
theorem test_meets_BarrierUnits :
    Meets (.txbInit Mods.bare ⟨127, 0, 0⟩) (Reaches ⟨127, 0, 0⟩ (spadKey 0 4080)) ∧
    MeetsRoom (.txbArrive Mods.bare ⟨0, 0, 0⟩) (fun u s => Reaches ⟨0, 0, 0⟩ (spadKey 0 4080) u s ∧ u.unreleased s 3 = false ∧
        takes (.arrive 1) (s.barrier (spadKey 0 4080)) = true)
      (fun u s => ((s.release u.g.core 3).txbEvent (spadKey 0 4080) (.arrive 1)).1) ∧
    Meets (.txbWait Mods.bare ⟨0, 0, 0⟩) (fun u s => Reaches ⟨0, 0, 0⟩ (spadKey 0 4080) u s ∧ txbBad (s.barrier (spadKey 0 4080)) = false ∧
        txbPhase (s.barrier (spadKey 0 4080)) = (u.g.getS 0).toNat % 16) :=
  ⟨meets (s := on (atSpad 4080)) (g := atSpad 4080 g0) rfl ⟨of_gives (by decide +kernel), by decide +kernel⟩,
   meetsRoom (s := withBar 1) (g := atSpad 4080 g0) rfl ⟨⟨of_gives (by decide +kernel), by decide +kernel⟩, by decide +kernel, by decide +kernel⟩ (by decide +kernel),
   meets (s := withBar 1) (g := atSpad 4080 g0) rfl ⟨⟨of_gives (by decide +kernel), by decide +kernel⟩, by decide +kernel, by decide +kernel⟩⟩
theorem test_run_barriers : Meets (.txbExpect Mods.bare ⟨0, 0, 0⟩) fun _ _ => True := runs (by decide)
theorem test_meets_ScratchpadQueries :
    Meets (.sbq Mods.bare ⟨2, 0, 3, 1⟩) (fun u _ => ptrTag (u.g.ptr 0) = 1 ∧ spaceBad (u.g.ptr 0) 0 = false) ∧
    Meets (.poisq Mods.bare ⟨2, 0, 3, 1⟩) (fun u s => u.poisBad s ⟨2, 0, 3, 1⟩ = none ∧ u.poisWaits s ⟨2, 0, 3, 1⟩ false = false) ∧
    Meets (.poisclr Mods.bare ⟨0, 0, 3, 1⟩) (fun u s => u.poisBad s ⟨0, 0, 3, 1⟩ = none ∧ u.poisWaits s ⟨0, 0, 3, 1⟩ true = false) ∧
    Meets (.benchq Mods.bare ⟨2, 0, 2, 2⟩) fun _ _ => True :=
  ⟨meets (s := on (atSpad 0)) (g := atSpad 0 g0) rfl (by decide +kernel), meets (s := on (atSpad 0)) (g := atSpad 0 g0) rfl (by decide +kernel),
   meets (s := on (atSpad 0)) (g := atSpad 0 g0) rfl (by decide +kernel), runs (by decide)⟩
theorem test_meets_ShapeRegistersAndZero :
    Meets (.mzero Mods.bare ⟨0, 0, 0, 0⟩) (fun u s => (⟨0, 0, 0, 0⟩ : RF).a.toNat + 31 < (s.versionOf u.g).vregs) ∧
    ∀ i ∈ ([.tfield Mods.bare ⟨15, 63, 21, 2⟩, .tget Mods.bare ⟨62, 15, 1, 2⟩] : List Instr), Meets i fun _ _ => True :=
  ⟨meets (s := on id) (g := g0) rfl (by decide +kernel), all_run (by decide)⟩
theorem test_meets_MatrixMultiplyIssues :
    Meets (.mma Mods.bare ⟨0, 0, 1, 0⟩) fun u s => MmaLegal ⟨0, 0, 1, 0⟩ u s ∧ u.g.mx < 15 ∧ (s.bench (u.g.core / 4)).length < 32 ∧
      mmaStarted ⟨0, 0, 1, 0⟩ u s ≠ none :=
  meets (s := on (shapes (tile8 0) (tile8 0))) (g := shapes (tile8 0) (tile8 0) g0) rfl
    ⟨⟨.inl rfl, by decide +kernel, by decide +kernel, by decide +kernel⟩, by decide +kernel, by decide +kernel, some_of (by decide +kernel)⟩

/-! ### Synchronisation, tasks and system units -/

/-- A poisoned `mma` that counts and that no `wait` has matched. -/
def lostMma : MmaRec := { op := 0, pc := 0, base := 0, lanes := 1, poisoned := true, counted := true, matched := false }
/-- Every class shed. -/
def shedAll (f : Machine.Group → Machine.Group) : State := { on f with power := { State.reset.power with shedlvl := 8 } }
/-- A pipeline of one stage of one core, with records in its queue. -/
def pipe (rs : List (List Byte)) : Region :=
  { Region.probe with kind := 3, stages := [{ kidx := 0, maxc := 1, minc := 1, gpc := 1, qlog := 4 }], queues := [rs], seedN := 1, cores := [(0, 0)] }
/-- A record of entry 1, without successor. -/
def rec1 : List Byte := bytesOf 64 0x10001
/-- An object with entry 1 and a handler. -/
def twoEntries : Obj :=
  { Obj.probe [] with kernels := [{ kflags := 0, pregs := 1, priv := 4096, spad := 4096, ords := 0, versions :=
    [{ Version.blank with stages := [(1, 64), (0xFFFF, 128)] }] }] }
/-- The group in that pipeline. -/
def inPipe (rs : List (List Byte)) (f : Machine.Group → Machine.Group) : State := { on f with regions := [pipe rs], objs := [twoEntries] }

theorem test_meets_WaitsAndFences :
    Meets (.wait Mods.bare ⟨0, 0, 0, 0, 0⟩) (fun u _ => waitsFor ⟨0, 0, 0, 0, 0⟩ u.g) ∧
    Meets (.wait Mods.bare ⟨63, 31, 127, 15, 0⟩) (fun u _ => ¬waitsFor ⟨63, 31, 127, 15, 0⟩ u.g ∧ (⟨63, 31, 127, 15, 0⟩ : WF).mx.toNat = 15) ∧
    Meets (.wait Mods.bare ⟨0, 0, 0, 0, 0⟩) (fun u _ => ¬waitsFor ⟨0, 0, 0, 0, 0⟩ u.g ∧ (⟨0, 0, 0, 0, 0⟩ : WF).mx.toNat ≠ 15 ∧
      (u.g.mmas.any fun r => r.hits u.x.mask) = false) ∧
    Meets (.wait Mods.bare ⟨0, 0, 0, 0, 0⟩) (fun u _ => ¬waitsFor ⟨0, 0, 0, 0, 0⟩ u.g ∧ (u.g.mmas.any fun r => r.hits u.x.mask) = true) ∧
    Meets (.fence Mods.bare ⟨0, 0, 0, 0⟩) (fun u s => fenceHeld u s = false) ∧
    Meets (.sleep Mods.bare ⟨0, 0⟩) (fun _ _ => (⟨0, 0⟩ : IF).imm = 0) ∧
    Meets (.sleep Mods.bare ⟨0, 0xFFFF⟩) (fun _ _ => (⟨0, 0xFFFF⟩ : IF).imm ≠ 0) :=
  ⟨meets (s := on fun g => { g with ld := 1 }) (g := { g0 with ld := 1 }) rfl (by unfold waitsFor; decide +kernel),
   meets (s := on fun g => { g with ld := 1 }) (g := { g0 with ld := 1 }) rfl (by unfold waitsFor; decide +kernel),
   meets (s := on id) (g := g0) rfl (by unfold waitsFor; decide +kernel),
   meets (s := on fun g => { g with mmas := [lostMma] }) (g := { g0 with mmas := [lostMma] }) rfl (by unfold waitsFor; decide +kernel),
   meets (s := on id) (g := g0) rfl (by decide +kernel), meets (s := on id) (g := g0) rfl (by decide +kernel),
   meets (s := on id) (g := g0) rfl (by decide +kernel)⟩
theorem test_meets_WorkgroupBarrierAndSleep :
    MeetsRoom (.wgsync Mods.bare ⟨0, 0, 0, 0⟩) (fun u s => s.isShed (s.prioOf u.g) = false ∧ u.unreleased s 2 = false)
      (fun u s => (u.parked (s.release u.g.core 2) .wgsync).wgsyncDone u.g.wg) ∧
    Meets (.wgsync Mods.bare ⟨0, 0, 0, 0⟩) (fun u s => s.isShed (s.prioOf u.g) = true) :=
  ⟨meetsRoom (s := on id) (g := g0) rfl (by decide +kernel) (by decide +kernel), meets (s := shedAll id) (g := g0) rfl (by decide +kernel)⟩

/-- The value of a result, and a default. -/
def valueOf {α β : Type} (d : β) (x : Except α β) : β :=
  match x with
  | .ok y => y
  | .error _ => d
def isOk {α β : Type} (x : Except α β) : Bool :=
  match x with
  | .ok _ => true
  | .error _ => false
theorem of_isOk {α β : Type} (d : β) {x : Except α β} (h : isOk x = true) : x = .ok (valueOf d x) := by
  unfold isOk at h
  split at h
  · rfl
  · cases h

theorem test_meets_QueueUnits_push :
    (∃ x, MeetsRoom (.qpush Mods.bare ⟨0, 0, 0, 2⟩) (fun u s => Pushes ⟨0, 0, 0, 2⟩ (pipe []) u s ∧ (pipe []).room (queueOf ⟨0, 0, 0, 2⟩ u) = true ∧
      s.pushers 0 (queueOf ⟨0, 0, 0, 2⟩ u) = [] ∧ (s.release u.g.core 0).readRecord u.g (s64 u.g (⟨0, 0, 0, 2⟩ : RF).b.toNat).toNat = .ok x)
      (fun u _ => x.2.enterQueue 0 (queueOf ⟨0, 0, 0, 2⟩ u) x.1)) ∧
    Meets (.qpush Mods.bare ⟨0, 0, 1, 2⟩) (fun u s => s.region? u.g.region = some (pipe []) ∧ (pipe []).stages.length ≤ queueOf ⟨0, 0, 1, 2⟩ u) :=
  ⟨⟨_, meetsRoom (s := inPipe [] (atSpad 0)) (g := atSpad 0 g0) rfl
      ⟨⟨rfl, by decide, by decide, of_isOk () (by decide +kernel), by decide +kernel, by decide +kernel⟩, by decide +kernel, by decide +kernel,
       of_isOk ([], on id) (by decide +kernel)⟩ (by decide +kernel)⟩,
   meets (s := inPipe [] id) (g := g0) rfl ⟨rfl, by decide⟩⟩
theorem test_meets_QueueUnits_pop :
    (∃ t, MeetsRoom (.qpop Mods.bare ⟨2, 0, 0, 0⟩) (fun u s => Pops ⟨2, 0, 0, 0⟩ (pipe [rec1]) t u s ∧ Ready ⟨2, 0, 0, 0⟩ (pipe [rec1]) t rec1 u s ∧
      s.taskEntry u.g rec1 = some 64)
      fun u s => (s.takeRecord u.g u.g.stage 2 t rec1).modGroup u.g.id (goes u (BitVec.ofNat 32 64))) ∧
    (∃ t, Meets (.qtry Mods.bare ⟨2, 0, 0, 0⟩) (fun u s => Pops ⟨2, 0, 0, 0⟩ (pipe []) t u s ∧ Empty (pipe []) u s ∧ s.drained (pipe []) = false)) :=
  ⟨⟨_, meetsRoom (s := inPipe [rec1] (atSpad 0)) (g := atSpad 0 g0) rfl
      ⟨⟨by decide +kernel, rfl, by decide, rfl, by decide +kernel, of_isOk (.bytes 0 none) (by decide +kernel), by decide +kernel⟩,
       ⟨by decide +kernel, by decide +kernel, by decide +kernel, by decide +kernel, by decide +kernel⟩, by decide +kernel⟩ (by decide +kernel)⟩,
   ⟨_, meets (s := inPipe [] (atSpad 0)) (g := atSpad 0 g0) rfl
      ⟨⟨by decide +kernel, rfl, by decide, rfl, by decide +kernel, of_isOk (.bytes 0 none) (by decide +kernel), by decide +kernel⟩, .inl (by decide +kernel), by decide +kernel⟩⟩⟩

/-- The group running task `k` in that pipeline, while its counter at 0x100040 is `n`. -/
def inTask (k : Task) (n : Nat) : State :=
  let s := inPipe [] fun g => { g with task := some k }
  { s with mem := (((s.mem.set 0x100040 (BitVec.ofNat 8 n)).set 0x100044 0).set 0x100048 0x80).set 0x10004A 0x10 }
def withTask (k : Task) : Machine.Group := { g0 with task := some k }
/-- A task with that counter as successor, which releases the record at 0x100080 into queue 0. -/
def succTask : Task := { succ := 0x100040, argp := 0 }
def U0 : Instr := .tdone Mods.bare ⟨0, 0, 0, 0⟩

theorem test_meets_TaskEnds_trap :
    MeetsTrap U0 (fun u s => s.region? u.g.region = some (pipe []) ∧ (u.g.task = none ∨ (pipe []).kind = 1 ∨ u.g.fragments ≠ [u.e]))
      (fun u => Trap.at_ trapQueue u.x.pc) :=
  meetsTrap (s := inPipe [] (full inH)) (g := full inH g0) rfl ⟨rfl, .inl rfl⟩ (by decide +kernel)
theorem test_meets_TaskEnds_last : MeetsRoom U0 (fun u s => Ends (pipe []) ⟨0, 0⟩ u s ∧ (⟨0, 0⟩ : Task).succ = 0)
    (fun u s => ((s.release u.g.core 0).endTask u.g.id).stopIfShed u.g.id) :=
  meetsRoom (s := inTask ⟨0, 0⟩ 0) (g := withTask ⟨0, 0⟩) rfl ⟨⟨rfl, rfl, by decide, by decide +kernel, by decide +kernel⟩, rfl⟩ (by decide +kernel)
def Counts (n : Nat) (w : Tgt) (u : Frag) (s : State) : Prop :=
  Ends (pipe []) succTask u s ∧ Counter succTask w u s ∧ (counted succTask w u s).1 = n
theorem test_meets_TaskEnds_counts :
    (∃ w, MeetsRoom U0 (Counts 0 w) fun u s => taskEnded u ((counted succTask w u s).2.event 0x84 u.g.ctx 0x33 succTask.succ)) ∧
    (∃ w, MeetsRoom U0 (Counts 2 w) fun u s => taskEnded u (counted succTask w u s).2) :=
  ⟨⟨_, meetsRoom (s := inTask succTask 0) (g := withTask succTask) rfl ⟨⟨rfl, rfl, by decide, by decide +kernel, by decide +kernel⟩,
      ⟨by decide, of_isOk (.bytes 0 none) (by decide +kernel), by decide +kernel⟩, by decide +kernel⟩ (by decide +kernel)⟩,
   ⟨_, meetsRoom (s := inTask succTask 2) (g := withTask succTask) rfl ⟨⟨rfl, rfl, by decide, by decide +kernel, by decide +kernel⟩,
      ⟨by decide, of_isOk (.bytes 0 none) (by decide +kernel), by decide +kernel⟩, by decide +kernel⟩ (by decide +kernel)⟩⟩
/-- Nothing holds the record that the counter names; and a copy that writes it does. -/
def copyIn : SbEntry := { core := 0, lo := 0, hi := 64, write := true, op := 5, part := 0 }
/-- The counter's record is at the start of the core's scratchpad. -/
def spadTask (l : List SbEntry) : State :=
  { inTask succTask 1 with sideboard := l, nextId := 6, mem := ((((inTask succTask 1).mem.set 0x100048 0).set 0x10004A 0).set 0x10004F 0x10) }
theorem of_isSome {α : Type} (d : α) {x : Option α} (h : x.isSome = true) : x = some (x.getD d) := by
  cases x
  · cases h
  · rfl
theorem recordFree_of {k : Task} {w : Tgt} {u : Frag} {s : State}
    (h : ((counted k w u s).2.counterNames u.g k.succ).all (fun x => !x.2.2.sbHolds u.g x.2.1 64 false) = true) : recordFree k w u s := by
  intro d p z hc
  rw [hc] at h
  simpa using h
theorem test_meets_TaskEnds_releases :
    (∃ w, MeetsRoom U0 (fun u s => Counts 1 w u s ∧ recordFree succTask w u s) (recordReleased (pipe []) succTask w)) ∧
    ∃ w, ∃ x : Nat × Nat × State, Meets U0 fun u s => Counts 1 w u s ∧ (counted succTask w u s).2.counterNames u.g succTask.succ = some x ∧
      x.2.2.sbHolds u.g x.2.1 64 false = true :=
  ⟨⟨_, meetsRoom (s := inTask succTask 1) (g := withTask succTask) rfl ⟨⟨⟨rfl, rfl, by decide, by decide +kernel, by decide +kernel⟩,
      ⟨by decide, of_isOk (.bytes 0 none) (by decide +kernel), by decide +kernel⟩, by decide +kernel⟩, recordFree_of (by decide +kernel)⟩ (by decide +kernel)⟩,
   ⟨_, _, meets (s := spadTask [copyIn]) (g := withTask succTask) rfl ⟨⟨⟨rfl, rfl, by decide, by decide +kernel, by decide +kernel⟩,
      ⟨by decide, of_isOk (.bytes 0 none) (by decide +kernel), by decide +kernel⟩, by decide +kernel⟩, of_isSome (0, 0, on id) (by decide +kernel), by decide +kernel⟩⟩⟩

/-- The group's fragment parked. -/
def parkedBy (k : Park) (g : Machine.Group) : Machine.Group :=
  { atSpad 0 g with task := some ⟨0, 0⟩, entries := g.entries.set 0 { Entry.free with st := .parked, mask := 0xFFFFFFFF, park := k } }
def pushPark : Park := .qpush 0 (2 ^ 60) 0
/-- Its pointer is in no space. -/
def badPark : Park := .qpush 0 (2 ^ 63) 0
def donePark : Park := .tdone 0 0 rec1
def popPark : Park := .qpop 2 (2 ^ 60) 0
def parkedIn (rs : List (List Byte)) (k : Park) : State := inPipe rs (parkedBy k)

theorem test_meets_QueueSteps_push : ∃ x, OldestPush (parkedIn [] pushPark) (pipe []) 0 (parkedBy pushPark g0) 0 pushPark ∧
    (parkedIn [] pushPark).sbHolds (parkedBy pushPark g0) (2 ^ 60) 64 false = false ∧
    ((parkedIn [] pushPark).release 0 0).readRecord (parkedBy pushPark g0) (2 ^ 60) = .ok x ∧
    Room (parkedIn [] pushPark) ((x.2.enterQueue 0 0 x.1).wakeNext 0 0) :=
  ⟨_, ⟨0, by decide +kernel, rfl, rfl⟩, by decide +kernel, of_isOk ([], on id) (by decide +kernel), by unfold Room; decide +kernel⟩
theorem test_meets_QueueSteps_refused : ∃ c, OldestPush (parkedIn [] badPark) (pipe []) 0 (parkedBy badPark g0) 0 badPark ∧
    (parkedIn [] badPark).sbHolds (parkedBy badPark g0) (2 ^ 63) 64 false = false ∧
    ((parkedIn [] badPark).release 0 0).readRecord (parkedBy badPark g0) (2 ^ 63) = .error c ∧
    Room (parkedIn [] badPark) ({ parkedIn [] badPark with free := (parkedIn [] badPark).free + 2 }.wakeRaise 0 0
      ((parkedBy badPark g0).accessTrap 0 c (2 ^ 63))) :=
  ⟨causeSpace, ⟨0, by decide +kernel, rfl, rfl⟩, by decide +kernel, rfl, by unfold Room; decide +kernel⟩
theorem test_meets_QueueSteps_done : OldestPush (parkedIn [] donePark) (pipe []) 0 (parkedBy donePark g0) 0 donePark ∧
    Room (parkedIn [] donePark)
      (((((((parkedIn [] donePark).release 0 0).enterQueue 0 0 rec1).endTask 0).acquireFree 0 []).wakeNext 0 0).stopIfShed 0) :=
  ⟨⟨0, by decide +kernel, rfl, rfl⟩, by unfold Room; decide +kernel⟩
theorem test_meets_QueueSteps_pop : ∃ t, OldestPop (parkedIn [rec1] popPark) (pipe [rec1]) 0 (parkedBy popPark g0) 0 popPark ∧
    ((pipe [rec1]).queue 0).head? = some rec1 ∧ (parkedIn [rec1] popPark).isShed ((parkedIn [rec1] popPark).prioOf (parkedBy popPark g0)) = false ∧
    (parkedIn [rec1] popPark).sbHolds (parkedBy popPark g0) (2 ^ 60) 64 true = false ∧
    (parkedIn [rec1] popPark).popTgt (parkedBy popPark g0) (2 ^ 60) = .ok t ∧
    (parkedIn [rec1] popPark).pendingAt 0 (parkedIn [rec1] popPark).nextId t 64 = false ∧ (parkedIn [rec1] popPark).headBad 0 0 = false ∧
    (parkedIn [rec1] popPark).taskEntry (parkedBy popPark g0) rec1 = some 64 :=
  ⟨_, ⟨0, by decide +kernel, rfl, rfl⟩, by decide +kernel, by decide +kernel, by decide +kernel, of_isOk (.bytes 0 none) (by decide +kernel), by decide +kernel, by decide +kernel, by decide +kernel⟩
/-- Outcomes of withdrawals wait to be written. -/
def mail (status : Nat) : State := { on id with mailboxes := [{ key := spadKey 0 64, wg := 0, core := 0, status := status, x := 1, y := 2, z := 3 }] }
theorem test_meets_QueueSteps_mail :
    Room (mail 2) ((({ mail 2 with mailboxes := [] } : State).release 0 2).mailBytes 0 (spadKey 0 64 + 12) (bytesOf 4 2)) ∧
    Room (mail 1) (((({ mail 1 with mailboxes := [] } : State).mailBytes 0 (spadKey 0 64) (bytesOf 4 1 ++ bytesOf 4 2 ++ bytesOf 4 3)).release 0
      2).mailBytes 0 (spadKey 0 64 + 12) (bytesOf 4 1)) := by unfold Room; constructor <;> decide +kernel

/-- A grid that gives its groups workgroups: `n` of them, of which one has begun. -/
def grid (fetch : Bool) (n : Nat) : Region := { Region.probe with fetch := fetch, gx := n }
def inGrid (fetch : Bool) (n : Nat) : State := { on (atSpad 64) with regions := [grid fetch n] }
def F0 : MF := ⟨0, 0, 0⟩

theorem test_meets_WorkWithdrawal :
    MeetsRoom (.fetchw Mods.bare F0) (fun u s => Fetches F0 (grid false 1) (spadKey 0 64) u s ∧ ¬((grid false 1).kind = 1 ∧ (grid false 1).fetch = true ∧
      (grid false 1).cset ≤ 1)) (fetchStarted (spadKey 0 64) 3 0 0 0) ∧
    Meets (.fetchw Mods.bare F0) (fun u s => Fetches F0 (grid true 1) (spadKey 0 64) u s ∧ (grid true 1).count ≤ (grid true 1).cursor) ∧
    Meets (.fetchw Mods.bare F0) (fun u s => Fetches F0 (grid true 2) (spadKey 0 64) u s ∧ (grid true 2).cursor < (grid true 2).count) :=
  ⟨meetsRoom (s := inGrid false 1) (g := atSpad 64 g0) rfl ⟨⟨of_gives (by decide +kernel), rfl, by decide +kernel, by decide +kernel⟩, by decide +kernel⟩ (by decide +kernel),
   meets (s := inGrid true 1) (g := atSpad 64 g0) rfl ⟨⟨of_gives (by decide +kernel), rfl, by decide +kernel, by decide +kernel⟩, by decide +kernel⟩,
   meets (s := inGrid true 2) (g := atSpad 64 g0) rfl ⟨⟨of_gives (by decide +kernel), rfl, by decide +kernel, by decide +kernel⟩, by decide +kernel⟩⟩

theorem error_of {α : Type} {x : Except Nat α} {c : Nat} (h : (match x with | .ok _ => false | .error d => d == c) = true) : x = .error c := by
  split at h
  · cases h
  · rw [beq_iff_eq.mp h]

/-- S0 and S1 point at 0x100000. -/
def atRcb (g : Machine.Group) : Machine.Group := g.setS 0 0x100000
theorem test_meets_RegionLaunch :
    ∃ x c, MeetsRoom (.launch Mods.bare ⟨2, 0, 0, 0⟩) (fun u s => u.unreleased s 0 = false ∧ s.region? u.g.region = some Region.probe ∧
      (s.release u.g.core 0).readRcb u.g (s64 u.g (⟨2, 0, 0, 0⟩ : RF).b.toNat).toNat 4 = .ok x ∧
      x.2.checkRcb u.g.ctx Region.probe.eff (ofBytes x.1) = .error c) fun u _ => x.2.modGroup u.g.id (toS 2 (BitVec.ofNat 32 c)) :=
  ⟨_, reasonBadRcb, meetsRoom (s := on atRcb) (g := atRcb g0) rfl
    ⟨by decide +kernel, rfl, of_isOk ([], on id) (by decide +kernel), error_of (by decide +kernel)⟩ (by decide +kernel)⟩

/-- The group in its handler. -/
def handling (g : Machine.Group) : Machine.Group :=
  { g with hLanes := 0xFFFFFFFF, entries := g.entries.set 0 { Entry.free with st := .ready, mask := 0xFFFFFFFF, inH := true } }

theorem test_meets_SpecialRegisters :
    Meets (.getsr Mods.bare ⟨2, 0x8003⟩) (fun _ _ => True) ∧
    Meets (.setsr Mods.bare ⟨2, 0x40⟩) (fun _ _ => srNo ⟨2, 0x40⟩ = 0x40) ∧
    Meets (.setsr Mods.bare ⟨2, 0x42⟩) (fun u _ => srNo ⟨2, 0x42⟩ = 0x42 ∧ u.x.inH = true) ∧
    MeetsTrap (.setsr Mods.bare ⟨2, 0x42⟩) (fun u _ => srNo ⟨2, 0x42⟩ = 0x42 ∧ u.x.inH = false) (fun u => Trap.at_ trapField u.x.pc) :=
  ⟨runs (by decide), meets (s := on id) (g := g0) rfl (by decide), meets (s := on handling) (g := handling g0) rfl (by decide +kernel),
   meetsTrap (s := on (full inH)) (g := full inH g0) rfl (by decide +kernel) (by decide +kernel)⟩
theorem test_meets_SystemQueries :
    (∀ i ∈ ([.featq Mods.bare ⟨2, 0, 0, 0⟩, .sigq Mods.bare ⟨2, 0, 0, 2⟩, .trace Mods.bare ⟨0, 0⟩] : List Instr), Meets i fun _ _ => True) ∧
    Meets (.time Mods.bare ⟨2, 0, 0, 0⟩) (fun u s => u.busy s = false) :=
  ⟨all_run (by decide), meets (s := on id) (g := g0) rfl (by decide +kernel)⟩
theorem test_meets_PerformanceAndTransferRequests :
    Meets (.setperf Mods.bare ⟨2, 0, 15, 2⟩) (fun _ _ => True) ∧
    MeetsRoom (.xfer Mods.bare ⟨2, 0, 0, 2⟩) (fun _ _ => True) (fun u s =>
      (s.requestXfer u.g.ctx u.g.obj u.g.kidx (tagAsked ⟨2, 0, 0, 2⟩ u) (some u.g) none).2.modGroup u.g.id
        (toS 2 (BitVec.ofNat 32 (s.requestXfer u.g.ctx u.g.obj u.g.kidx (tagAsked ⟨2, 0, 0, 2⟩ u) (some u.g) none).1))) :=
  ⟨runs (by decide), meetsRoom (s := on id) (g := g0) rfl trivial (by decide +kernel)⟩
theorem test_meets_SoftwareTrapsAndReturn :
    MeetsTrap (.trap Mods.bare ⟨0, 7⟩) (fun _ _ => True) (fun u => { Trap.at_ trapSoftware u.x.pc with resume := u.next, arg := 7 }) ∧
    Meets (.brk Mods.bare ⟨0, 0⟩) (fun u s => s.brkPoint u.g = none) ∧
    Meets (.rfe Mods.bare ⟨0, 0, 0, 0⟩) (fun u _ => u.x.inH = true ∧ u.x.mask = u.g.hLanes) ∧
    MeetsTrap (.rfe Mods.bare ⟨0, 0, 0, 0⟩) (fun u _ => ¬(u.x.inH = true ∧ u.x.mask = u.g.hLanes)) (fun u => Trap.at_ trapField u.x.pc) :=
  ⟨meetsTrap (s := on (full inH)) (g := full inH g0) rfl trivial (by decide +kernel), meets (s := on id) (g := g0) rfl (by decide +kernel),
   meets (s := on handling) (g := handling g0) rfl (by decide +kernel),
   meetsTrap (s := on (full inH)) (g := full inH g0) rfl (by decide +kernel) (by decide +kernel)⟩
theorem test_meets_UnexecutableUnits : AtUnit (on id) g0 0 := ⟨rfl, rfl, rfl, by decide +kernel, rfl⟩
theorem test_meets_IllegalUnits : ∃ p, (Instr.mor Mods.bare ⟨0, 1, 2, 0⟩).parts = some p ∧ g0.unitCheck 0 p = some .illegalOperand ∧ (on id).checkWaits g0 p = false := ⟨_, rfl, by decide, by decide⟩

/-! ### Steps of the device -/

/-- An access of one lane that has issued. -/
def op1 (k : OpKind) (acc : Tgt) : Op :=
  { id := 0, kind := k, g := 0, e := 0, pc := 0, ver := 0, ctx := 0, core := 0, size := 4, uni := false, mask := 0xFFFFFFFF, rel := false
    acq := false, scope := 0, accs := [{ lane := 31, addr := 0, tgt := acc, data := [1, 2, 3, 4], data2 := [], st := .pending, way := { Way.none with port := some 11 } }], lowered := false
    bar := none
    sectors := [], srcDone := false, firstBad := none, grant := .granted 3, prio := 7, issued := 0, readyAt := none, poisoned := false
    seen := ⟨0, [], []⟩, begun := 0, crossed := none, saved := false, touched := false, prev := none, wild := none
    limit := none, privs := [] }
/-- The machine with some operations. -/
def withOps (os : List Op) : State := { on id with ops := os, wlog := [] }
def loadOp : Op := op1 (.load 2 false false) (.bytes 0x200000 none)
def storeOp : Op := op1 .store (.bytes 0x200000 none)
def farOp : Op := op1 (.load 2 false false) (.remote 1 0)

def mmaOp : Op := { op1 (.mma (tile8 0) (tile8 0) 0 0 1) (.bytes 0 none) with grant := .waiting }
/-- A copy with a sector to land. -/
def copyOp : Op := { op1 (.copyT (row8 0) (row8 64)) (.bytes 0 none) with sectors := copySectors (shapeOf (row8 0)) }

/-- A pass that ends at `n`. -/
def withPass (n : Nat) : State := { on id with passes := [{ id := 0, cluster := 95, ops := [], quarters := 4, pairs := 48, endAt := n }] }

/-- The engine of a cluster has granted a pass in this cycle. -/
def granting (cl : Nat) : State :=
  withPower (fun p => { p with clu := p.clu.modify cl fun k => { k with granted := some ((on id).engineCycle cl) } }) (on id)
theorem test_meets_MatrixEngineSteps :
    192 ≤ (withPass 192000).engineWork 95 ∧ (on id).engineWork 0 < 192 ∧ ((withOps [mmaOp]).markReady 0).arbiter 0 ≠ [] ∧
    (∀ n ∈ [0, 1], ((withPass n).passes.find? fun q => q.cluster == 95) = some { id := 0, cluster := 95, ops := [], quarters := 4, pairs := 48, endAt := n }) ∧
    (on id).cluster 0 ≠ { (on id).cluster 0 with granted := some ((on id).engineCycle 0) } ∧ ((on id).cluster 0).granted ≠ some ((on id).engineCycle 0) ∧
    ((granting 0).cluster 0).granted = some ((granting 0).engineCycle 0) ∧
    48 * (withPass 1).engineTime 95 < 1 ∧ 0 ≤ 48 * (withPass 0).engineTime 95 ∧
    (withOps [{ mmaOp with grant := .granted 3 }]).op? 0 = some { mmaOp with grant := .granted 3 } := by decide +kernel
/-- A load with acquire that has not crossed its boundary holds a later access of its fragment. -/
theorem test_meets_WaitsAndFences_acquire : AtUnit (withOps [{ loadOp with acq := true }]) g0 0 ∧
    (∀ i ∈ [Instr.stB32 Mods.bare ⟨2, 4, 0⟩, .cpyT Mods.bare ⟨0, 1, 0, 0⟩, .fetchw Mods.bare ⟨0, 4, 0⟩], ∃ p, i.parts = some p ∧ p.check = none ∧
      (p.mods.stop && (withOps [{ loadOp with acq := true }]).stopMatters g0 0) = false) ∧
    ∃ o ∈ (withOps [{ loadOp with acq := true }]).ops, o.g = g0.id ∧ o.acq = true ∧ o.kind.isAccess = true ∧ (o.mask &&& (g0.entry 0).mask) ≠ 0 := by
  refine ⟨⟨rfl, rfl, rfl, by decide +kernel, rfl⟩, ?_, ⟨_, List.mem_singleton.mpr rfl, rfl, rfl, rfl, by decide +kernel⟩⟩
  intro i hi
  simp only [List.mem_cons, List.not_mem_nil, or_false] at hi
  rcases hi with rfl | rfl | rfl <;> exact ⟨_, rfl, by decide, rfl⟩
/-- A lane waits for a peer, and one port is up. -/
def linkedFar : State := { withOps [farOp] with links := (List.replicate 12 Link.reset).set 11 { Link.reset with up := true } }
theorem test_meets_AccessesPerform :
    (withOps [loadOp]).op? 0 = some loadOp ∧ answers loadOp.kind = true ∧ storeOp.kind.silent = true ∧ loadOp.kind.isAccess = true ∧
    (withOps [loadOp]).inFull 0 = false ∧ ({ withOps [loadOp] with inq := List.replicate 64 { core := 0, op := 1 } } : State).inFull 0 = true ∧
    Room (withOps [loadOp]) ((((withOps [loadOp]).performLanes 0 [31]).respond 0 0 1).endAccess 0) ∧
    Room (withOps [storeOp]) (((withOps [storeOp]).performLanes 0 [31]).endAccess 0) ∧
    OnPort linkedFar 11 ∧ linkedFar.op? 0 = some farOp ∧ Config.memTop - 1 + [(1 : Byte)].length ≤ Config.memTop ∧
    (∀ b ∈ farOp.accs, AwaitsPeer linkedFar farOp 31 b 4) ∧ Room linkedFar (answered farOp 31 [1, 2, 3, 4] false linkedFar) ∧
    Room linkedFar (linkedFar.failLanes 0 (fun _ => false) causeRemote) ∧ linkedFar.memPoisoned 8 4 = false ∧
    Room linkedFar ((linkedFar.homeRmw 8 4 fun old => atomNew 0 4 old 1 0).2.sendOver [some 11]) ∧ ({ on id with mpoison := [0] } : State).memPoisoned 0 64 = true ∧
    (on id).op? 0 = none ∧ (withOps [copyOp]).op? 0 = some copyOp ∧ isCopy copyOp.kind = true := by
  refine ⟨by decide +kernel, by decide, by decide, by decide, by decide +kernel, by decide +kernel, by unfold Room; decide +kernel, by unfold Room; decide +kernel,
    by unfold OnPort; decide, by decide +kernel, by decide, ?_, by unfold Room; decide +kernel, by unfold Room; decide +kernel, by decide +kernel, by unfold Room; decide +kernel, by decide +kernel, by decide +kernel, by decide +kernel, by decide⟩
  intro b hb
  have h : b ∈ [({ lane := 31, addr := 0, tgt := .remote 1 0, data := [1, 2, 3, 4], data2 := [], st := .pending, way := { Way.none with port := some 11 } } : LaneAcc)] := hb
  rw [List.mem_singleton] at h
  subst h
  exact ⟨rfl, rfl, rfl, ⟨11, _, rfl, rfl, rfl⟩, by decide, by decide +kernel, fun _ => ⟨rfl, by decide +kernel⟩⟩
theorem test_meets_CopiesProgress :
    isCopy copyOp.kind = true ∧ copyOp.saved = false ∧ (withOps [copyOp]).asyncReady copyOp = true ∧ copyOp.stoppedAt 0 = false ∧
    copyOp.sectors ≠ [] ∧ copyOp.srcDone = false := by decide +kernel
theorem test_meets_HostRegisterWrites :
    ((1 : Nat) < ({ State.reset with jack := 2 } : State).jack ∧ State.reset.jack ≤ 0xFFFFFFFF) ∧
    Room State.reset (withPower (fun p => { p with nomf := 0xFFFFF, resthold := 0xFFFF, ntenter := 511, ntexit := 511, tlfrac := 255 }) State.reset) ∧
    (0 : Nat) ≤ State.reset.obs.twr ∧ State.reset.devnumSet = false ∧ ¬(10 ≤ bitsOf 0 55 52 ∧ bitsOf 0 55 52 ≤ 14) ∧
    Room State.reset { State.reset with xinvq := [0] } := by unfold Room; decide +kernel
/-- A command in intake slot 255. -/
def posted : State := { State.reset with intake := State.reset.intake.set 255 (bytesOf 64 0x10001) }
theorem test_meets_HostRegisterReads :
    ((posted.intake[255]?.map fun b => argOf b 0 1) = some 1 ∧ (posted.accept[255]?.map fun a => a.outcome) = some 0 ∧ posted.jfull = false ∧
      posted.resetting = false ∧ ({ posted with resetting := true } : State).resetting = true) ∧
    Room State.reset { State.reset with reply := some (.value (State.reset.errsCor * 2 ^ 32 + State.reset.errsUnc)), errsCor := 0, errsUnc := 0 } ∧
    (State.reset.links[11]?).isSome = true := by unfold Room; decide +kernel
theorem test_meets_HostMemory :
    Config.memTop < Config.memTop - 7 + 8 ∧ Config.memTop - 8 + 8 ≤ Config.memTop ∧
    Room (on id) (((on id).hostWrite (Config.memTop - 8) [1]).wroteMem (Config.memTop - 8) 1) ∧ (on id).memPoisoned 0x100000 8 = false ∧
    Room (on id) ((on id).homeRmw 0x100000 8 fun old => hostAtomicValue .cas 8 old 0 7).2 ∧ ({ on id with mpoison := [0x4000] } : State).memPoisoned 0x100000 8 = true := by unfold Room; decide +kernel

/-- A command of context 0 and code `n` that is accepted. -/
def cmd (n : Nat) : Cmd := { seq := 1, ctx := 0, opc := n, bytes := List.replicate 320 0 }
def offers (k : Cmd) : State := { on id with ctxs := State.reset.ctxs.set 0 { Context.probe with accepted := [k] } }
/-- A context of which nothing is left. -/
def closing : State :=
  { State.reset with ctxs := State.reset.ctxs.set 0 { Context.probe with st := .closing, started := [cmd 2], closing := some (cmd 2) } }

theorem test_meets_ContextsAndResets :
    Next (offers (cmd 1)) 0 1 (cmd 1) ∧ (((offers (cmd 2)).ctx 0).accepted.find? fun d => d.opc == 2) = some (cmd 2) ∧
    closing.closable 0 = true ∧ (closing.ctx 0).closing = some (cmd 2) ∧ State.reset.closable 0 = false ∧
    State.reset.fwStaged = none ∧ (offers (cmd 2)).resetting = false ∧ (withOps [loadOp]).abandon.ops ≠ [] ∧ State.reset.abandon.ops = [] ∧
    Room State.reset State.reset.abandon.endReset := by
  unfold Next Room
  decide +kernel
theorem test_meets_ObjectCommands :
    (∀ n ∈ [3, 4, 5, 6, 9], Next (offers (cmd n)) 0 n (cmd n)) ∧ ((offers (cmd 4)).beginCmd (cmd 4)).objByTag 0 1 = none ∧
    ((offers (cmd 4)).beginCmd (cmd 4)).objByTag 0 0 ≠ none := by
  unfold Next
  decide +kernel
/-- Context 0 on its way out, with a group or with none. -/
def goingOut (n : Nat) : State :=
  let s := on id
  { s with groups := s.groups.take n, wgs := s.wgs.take n, ctxs := State.reset.ctxs.set 0 { Context.probe with migrating := some (1, 2), started := [cmd 7] } }
/-- An image of a context with nothing in it, sealed or not, in host memory. -/
def emptyImage (flags : Byte) : List Byte :=
  bytesOf 4 0x494D584B ++ bytesOf 4 1 ++ bytesOf 8 256 ++ List.replicate 8 0 ++ [flags] ++ List.replicate 55 0 ++
    (List.replicate 4 (bytesOf 8 256)).flatten ++ List.replicate 144 0
/-- A command that names 256 bytes of host memory at 0. -/
def importCmd : Cmd := { cmd 8 with bytes := List.replicate 32 0 ++ bytesOf 8 256 ++ List.replicate 280 0 }
/-- MIGRATE_IN of such an image, which the context's window lets it read. -/
def importing (flags : Byte) : State :=
  let s := offers importCmd
  { s with hostwin := s.hostwin.set 0 (1, 0xFFFF), mem := (emptyImage flags).zipIdx.foldl (fun m p => m.set (hostKey p.2) p.1) s.mem }
/-- The state in which it opens its context. -/
def opened (flags : Byte) : State :=
  ((importing flags).beginCmd importCmd).openCtx 0 0 0 (bitOf flags.toNat 0) (defaultsOf (((emptyImage flags).drop 32).take 16))
theorem test_meets_AttestationAndMigration_import :
    (∀ n ∈ [0, 3], Next (importing n) 0 8 importCmd ∧ argOf importCmd.bytes 24 8 = 0 ∧ argOf importCmd.bytes 32 8 = 256 ∧
      ((importing n).beginCmd importCmd).hostAllowed 0 0 256 false = true ∧
      ((importing n).beginCmd importCmd).peekN (hostKey 0) 256 = emptyImage n ∧ inHeaderOk (emptyImage n) = true) ∧
    inHeaderOk (emptyImage 2) = false ∧ bitOf (rdImg (emptyImage 3) 24 1) 1 = true ∧ bitOf (rdImg (emptyImage 0) 24 1) 1 = false ∧
    Room (importing 3) (((opened 3).modCtx 0 fun x => { x with sealed := some (emptyImage 3) }).completeCmd importCmd 0) ∧
    ∃ y, (opened 0).bringIn 0 (emptyImage 0) = .ok y ∧ Room (importing 0) (y.completeCmd importCmd 0) :=
  ⟨by unfold Next; decide +kernel, by decide +kernel, by decide +kernel, by decide +kernel, by unfold Room; decide +kernel,
   _, of_isOk (on id) (by decide +kernel), by unfold Room; decide +kernel⟩
/-- A context that waits for its key, with a buffer of 124 bytes in host memory. -/
def keyCmd : Cmd := { cmd 10 with bytes := List.replicate 16 0 ++ bytesOf 8 124 ++ [1] ++ List.replicate 295 0 }
def keying : State :=
  let s := offers keyCmd
  { s with hostwin := s.hostwin.set 0 (1, 0xFFFF), ctxs := s.ctxs.modify 0 fun x => { x with conf := true } }
theorem test_meets_AttestationAndMigration_key :
    Next keying 0 10 keyCmd ∧ argOf keyCmd.bytes 24 1 = 1 ∧ ((keying.beginCmd keyCmd).ctx 0).conf = true ∧ ((keying.beginCmd keyCmd).ctx 0).key = none ∧
    124 ≤ argOf keyCmd.bytes 16 8 ∧ (keying.beginCmd keyCmd).hostAllowed 0 0 124 false = true ∧
    ({ keying with hostwin := State.reset.hostwin } : State).hostAllowed 0 0 124 false = false := by
  unfold Next
  decide +kernel
theorem test_meets_AttestationAndMigration :
    (∀ n ∈ [7, 8, 10], Next (offers (cmd n)) 0 n (cmd n)) ∧ argOf (cmd 10).bytes 24 1 = 0 ∧ ((offers (cmd 7)).ctx 0).migrating = none ∧
    ((offers (cmd 10)).ctx 0).conf = false ∧ (∀ n ∈ [0, 1], ((goingOut n).ctx 0).migrating = some (1, 2)) ∧
    (((goingOut 1).releaseOut 0).parkOut 0).outReady 0 = false ∧ (((goingOut 0).releaseOut 0).parkOut 0).outReady 0 = true ∧
    ((((goingOut 0).releaseOut 0).parkOut 0).ctx 0).started.find? (fun k => k.seq == 1) = some (cmd 7) := by
  unfold Next
  decide +kernel

/-- A grid of which nothing has begun, and a pipeline that waits. -/
def newGrid : Region := { Region.probe with cursor := 0, begun := false, rstate := 0 }
def placing : State := { on id with regions := [newGrid], groups := [], wgs := [] }
def newPipe : Region := { pipe [] with rstate := 0, cores := [], queues := [] }
def piping : State := { placing with regions := [newPipe], objs := [twoEntries] }
theorem test_meets_WorkPlacement_grid :
    placing.region? 0 = some newGrid ∧ placing.turnOf newGrid = true ∧ newGrid.cursor < newGrid.count ∧ placing.neverFits newGrid = false ∧
    placing.startVersion 0 0 0 newGrid.eff false = some 0 ∧ placing.spadPick [383] (placing.spadNeed newGrid 0) = some 0 ∧
    placing.gridFits newGrid [383] = true := by decide +kernel
/-- A task pool with a record, of which a core may be added. -/
def poolIn (n : Nat) : State := { placing with regions := [{ pipe [rec1] with stages := [{ kidx := 0, maxc := 2, minc := 1, gpc := 1, qlog := 4 }], cores := [(n, 0)] }], objs := [twoEntries] }
theorem test_meets_WorkPlacement_pool : ∃ x, (poolIn 0).region? 0 = some x ∧ (poolIn 0).turnOf x = true ∧ x.kind = 3 ∧ x.rstate = 1 ∧ x.queue 0 ≠ [] ∧
    x.cores.length < 2 ∧ (poolIn 0).coreFits x 0 383 = true ∧ ((poolIn 0).fewest 383 fun d => (poolIn 0).coreFits x 0 d) = true := by
  refine ⟨{ pipe [rec1] with stages := [{ kidx := 0, maxc := 2, minc := 1, gpc := 1, qlog := 4 }], cores := [(0, 0)] }, ?_⟩
  decide +kernel
theorem test_meets_WorkPlacement_fewest : placing.fewest 383 (fun c => placing.gridFits newGrid [c]) = true := by decide +kernel
theorem test_meets_WorkPlacement_pipe :
    piping.region? 0 = some newPipe ∧ piping.turnOf newPipe = true ∧ piping.neverFits newPipe = false ∧
    (newPipe.stages.any fun t => (piping.startVersion newPipe.ctx newPipe.obj t.kidx newPipe.eff newPipe.debug).isNone) = false ∧
    (piping.startPipe newPipe [0]).isSome = true := by decide +kernel
/-- A seed record at 0x100000. -/
def seeding : Region := { pipe [] with seedP := 0x100000 }
theorem test_meets_WorkPlacement_seed :
    seeding.seeded < seeding.seedN ∧ seeding.room 0 = true ∧ ({ on id with regions := [seeding] } : State).seedRecord seeding ≠ none ∧
    ({ on id with regions := [{ seeding with seedP := 2 ^ 63 }] } : State).seedRecord { seeding with seedP := 2 ^ 63 } = none := by decide +kernel
/-- Two stages, of which the second has work. -/
def twoStages : Region :=
  { pipe [] with kind := 2, stages := [{ kidx := 0, maxc := 2, minc := 1, gpc := 1, qlog := 4 }, { kidx := 0, maxc := 2, minc := 1, gpc := 1, qlog := 4 }],
                 queues := [[], List.replicate 16 rec1], cores := [(0, 0), (1, 0), (2, 1)], low := 16, high := 239, rivl := 50 }
def dressing (c : List (Nat × Nat)) : State := { on id with time := 50000, regions := [{ twoStages with cores := c }], ctxs := placing.ctxs }
theorem test_meets_WorkPlacement_dresser :
    (on id).isShed twoStages.eff.prio = false ∧ ((on id).ctx 0).st = .open_ ∧ (50000 - twoStages.startedAt) % (1000 * twoStages.rivl) = 0 ∧
    twoStages.dressedAt ≠ some 50000 ∧ twoStages.startedAt < 50000 ∧
    (dressing twoStages.cores).region? 0 = some twoStages ∧ (dressing twoStages.cores).receiver twoStages = some 1 ∧
    (dressing twoStages.cores).donor twoStages 1 = some 0 ∧ twoStages.cores.contains (1, 0) = true ∧
    (dressing [(0, 0), (2, 1)]).receiver { twoStages with cores := [(0, 0), (2, 1)] } = some 1 ∧
    (dressing [(0, 0), (2, 1)]).donor { twoStages with cores := [(0, 0), (2, 1)] } 1 = none := by decide +kernel
theorem test_meets_WorkPlacement_grant : ({ dressing [(0, 0), (2, 1)] with objs := [twoEntries], groups := [], wgs := [] } : State).coreFits
    { twoStages with cores := [(0, 0), (2, 1)] } 1 383 = true := by decide +kernel
theorem test_meets_WorkPlacement_window :
    ({ pipe [] with blockedAt := some 0, dlwin := 65535 } : Region).warned = false ∧ 0 + 1000000 * 65535 ≤ 65535000000 ∧
    (on id).isShed (pipe []).eff.prio = false := by decide +kernel

theorem test_meets_PreemptionSteps_shed :
    (shedAll fun g => { g with stopped := true }).wg? 0 = some Workgroup.probe ∧
    (shedAll fun g => { g with stopped := true }).isShed ((shedAll fun g => { g with stopped := true }).wgPrio Workgroup.probe) = true ∧
    (shedAll fun g => { g with stopped := true }).allStopped Workgroup.probe = true ∧
    (shedAll fun g => { g with stopped := true }).imageFits Workgroup.probe = true := by decide +kernel
/-- Workgroup 0 being saved, and saved. -/
def leaving : Workgroup := { Workgroup.probe with phase := .saving }
def away : Workgroup := { Workgroup.probe with phase := .saved }
def savingWg : State := { on fun g => { g with stopped := true } with wgs := [leaving] }
def savedWg : State := { on fun g => { g with phase := .saved } with wgs := [away] }
theorem test_meets_PreemptionSteps_save :
    savingWg.wg? 0 = some leaving ∧ ((savingWg.setOf leaving).all fun y => y.phase != .saving || savingWg.wgDrained y) = true ∧
    savedWg.wg? 0 = some away ∧ ((savedWg.setOf away).all fun y => savedWg.mayRestore y) = true ∧
    savedWg.restoreFits (savedWg.setOf away) [380] = true ∧
    (savedWg.regions.any fun q => savedWg.wgPrio away < q.eff.prio && savedWg.fitsNow q) = false := by decide +kernel
/-- A region of a higher class beside a workgroup of a lower one that fills its core. -/
def low : Workgroup := Workgroup.probe
def urgent : Region := { Region.probe with id := 1, cursor := 0, begun := false, rstate := 0, eff := { Context.probe.deflt with prio := 7 } }
def crowded : State :=
  { on id with regions := [{ Region.probe with eff := { Context.probe.deflt with prio := 0 } }, urgent] }
theorem test_meets_PreemptionSteps_room :
    crowded.region? 1 = some urgent ∧ crowded.wg? 0 = some low ∧ crowded.mayPlace urgent = true ∧ urgent.waits = true ∧
    (crowded.preemptable urgent.eff.prio).contains low = true ∧ ((crowded.preemptable urgent.eff.prio).all fun z => !crowded.preemptBefore z low) = true := by
  decide +kernel

/-- The machine 640 us after reset. -/
def later : State := { State.reset with time := 640000 }
theorem test_meets_PowerLevelSteps :
    later.time = 10000 * (later.time / 10000) ∧ later.time % 10000 = 0 ∧ later.time % 1000 = 0 ∧ (later.island 0).sampAt < later.time ∧
    State.reset.time ≤ (State.reset.island 0).sampAt ∧ later.power.refilled < later.time ∧ State.reset.time ≤ State.reset.power.refilled ∧
    later.power.charged < later.time ∧ State.reset.time ≤ State.reset.power.charged ∧
    Room later (later.sample 0) ∧ Room State.reset (withPower (fun p => ({ p with temp := p.temp.set 3 125000 } : Power).rates) State.reset) := by unfold Room; decide +kernel
/-- A frame whose CRC matches, and a later time. -/
def framed : State := { State.reset with power := State.reset.power.frame 0x0E10 0, time := 100000 }
theorem test_meets_TelemetryAndShedding :
    frameCrc 1 = false ∧ frameCrc 0x0E10 = true ∧ State.reset.power.frameAt = none ∧ framed.power.frameAt = some 0 ∧ framed.power.tloss = false ∧
    (0 + 100000 ≤ framed.time) ∧ State.reset.power.tloss = false ∧
    ({ State.reset.power with shedreq := 8 } : Power).shedlvl < 8 ∧ (withPower (fun p => { p with shedlvl := 8 }) State.reset).power.shedreq < 8 := by decide +kernel
/-- A context halted, with no group. -/
def halted : State := { State.reset with ctxs := State.reset.ctxs.set 0 { Context.probe with halt := true } }
/-- Sampling of context 0 whose period has passed. -/
def sampling : State :=
  { on id with obs := { State.reset.obs with sampEn := true, sampPeriod := 1 }, power := { State.reset.power with
    isl := State.reset.power.isl.map fun i => { i with mcyc := 512000 } } }
theorem test_meets_DebugSteps :
    (on id).quiet 0 = false ∧ halted.quiet 0 = true ∧ State.reset.obs.sampEn = false ∧ sampling.obs.sampEn = true ∧ sampling.sampleDue 0 0 = true ∧
    Room State.reset ((State.reset.modCtx 63 fun x => { x with halt := true }).mapGroups (haltsInPlace State.reset 63)) := by unfold Room; decide +kernel
/-- A port that has failed nine times, or is down. -/
def failing (up : Bool) : State := { on id with links := State.reset.links.set 11 { Link.reset with up := up, retries := 9 } }
/-- A notification is owed to a context of which every group is of a shed class, or not. -/
def owed (shed : Bool) : State :=
  let s := if shed then shedAll id else inPipe [] id
  { s with time := 200000, ctxs := s.ctxs.modify 0 fun x => { x with withheld := [(0, 0)] }, objs := [{ Obj.probe [] with kernels :=
      [{ kflags := 0, pregs := 1, priv := 4096, spad := 4096, ords := 0, versions := [{ Version.blank with stages := [(0xFFFE, 64)] }] }] }] }
theorem test_meets_LinkAndErrorSteps_notify :
    (∀ b ∈ [true, false], ((owed b).ctx 0).dying = false ∧ ((owed b).ctx 0).notifyDue = false ∧ ((owed b).ctx 0).queued = [] ∧
      (owed b).notifyOwed 0 = true ∧ (owed b).notifiable 0 ≠ [] ∧ ((owed b).notifiable 0).all (fun g => (owed b).isShed ((owed b).prioOf g)) = b) ∧
    ((owed false).notifyTarget 0).isSome = true := by decide +kernel
theorem test_meets_LinkAndErrorSteps :
    ((failing true).links[11]?).any (fun l => l.up && 9 ≤ l.retries) = true ∧ ((failing false).links[11]?).any (fun l => !l.up) = true ∧
    Room (failing true) ((withLink 11 (fun l => { l with up := false }) (failing true)).rePort (some 11)) ∧
    ((inPipe [rec1] id).region? 0 = some (pipe [rec1]) ∧ 0 < ((pipe [rec1]).queue 0).length) ∧ ((on id).group? 0).isSome = true ∧
    (State.reset.xinvWaits 0 0 0 = false) ∧ (State.reset.ctx 0).notifyDue = false ∧ State.reset.notifyOwed 0 = false ∧ (383 : Nat) < 384 ∧
    Config.memTop - 1 < Config.memTop ∧ Room State.reset ((State.reset.poisonSpad (383 * 8192 + 8191)).countError false) := by unfold Room; decide +kernel

/-! ### The whole machine -/

theorem test_meets_QueueBoundKept : QueueOk State.reset := by unfold QueueOk; decide
theorem test_meets_EncodeDecode : ∃ p, (Instr.mor Mods.bare ⟨2, 0, 0, 0⟩).parts = some p ∧ WellFormed (.mor Mods.bare ⟨2, 0, 0, 0⟩) := ⟨_, rfl, by decide⟩
theorem test_meets_StepRunsUnit : ∃ rest, (State.reset.withFetchWord 32 0x01000000).agenda = (0, .slot 0 0) :: rest := ⟨_, rfl⟩
/-- A group with a handler and a record page. -/
def withFrecp : Machine.Group := { g0 with frecp := 0x100000 }
def handlers : State := inPipe [] fun g => { g with frecp := 0x100000 }
theorem test_meets_TrapEntry :
    handlers.group? 0 = some withFrecp ∧ (withFrecp.entry 0).isFragment = true ∧ (withFrecp.entry 0).inH = false ∧ withFrecp.inHandler = false ∧
    handlers.frecpOk withFrecp = true ∧ handlers.stageEntry withFrecp 0xFFFF = some 128 ∧
    (on fun g => { g with frecp := 0x100000 }).frecpOk withFrecp = true ∧ (on fun g => { g with frecp := 0x100000 }).stageEntry withFrecp 0xFFFF = none ∧
    (on id).frecpOk g0 = false ∧ (handling g0).inHandler = true ∧ ((handling g0).entry 0).inH = true := by decide +kernel
/-- A store of one lane to scratchpad. -/
def spadStore : Op := op1 .store (.bytes (spadKey 0 64) none)
theorem test_meets_StoreLands :
    (withOps [storeOp]).op? 0 = some storeOp ∧ storeOp.rel = false ∧ ((withOps [storeOp]).readyLane storeOp 31).isSome = true ∧
    (withOps [storeOp]).heldAs 0x8000 = none ∧ (withOps [spadStore]).heldAs (spadKey 0 64 / 64) = none ∧ (∀ i, i < 4 → isSpadKey (0x200000 + i) = false) ∧
    ((withOps [storeOp]).txbs.all fun b => 0x200000 + storeOp.size ≤ b || b + 16 ≤ 0x200000) = true ∧ (withOps [storeOp]).mem.wf = true ∧
    ((withOps [spadStore]).readyLane spadStore 31).isSome = true ∧ (∀ i, i < 4 → isSpadKey (spadKey 0 64 + i) = true) ∧ spadKey 0 64 < 2 ^ 60 := by
  decide +kernel

/-! ### Where units wait, trap and take their other ways -/

def withRnd (n : BitVec 3) : Mods := { Mods.bare with x := some { ModX.zero with rnd := n } }
/-- The group with accesses outstanding: a store of its fragment. -/
def busyStore (f : Machine.Group → Machine.Group) : State := { on f with ops := [{ storeOp with accs := storeOp.accs.map fun a => { a with lane := 0 } }] }
/-- A scratchpad range of the core being written. -/
def held : State := { on (atSpad 0) with sideboard := [{ core := 0, lo := 0, hi := 64, write := true, op := 0, part := 0 }] }

/-- One line in S2, for the lines that `poisq` names. -/
def line64 (g : Machine.Group) : Machine.Group := (atSpad 0 g).setS 3 64
def heldLine : State := { on line64 with sideboard := held.sideboard }
def cpFull (g : Machine.Group) : Machine.Group := { shapes (row8 0) (row8 64) (atSpad 0 g) with cp := 127 }
def mxFull (g : Machine.Group) : Machine.Group := { shapes (tile8 0) (tile8 0) g with mx := 15 }
/-- A `txb.wait` of phase 1 on a barrier in phase 0. -/
def phase1 (g : Machine.Group) : Machine.Group := (atSpad 4080 g).setS 2 1
def withBar2 : State := { on phase1 with mem := (withBar 1).mem }
/-- The version has 64 registers. -/
def few (f : Machine.Group → Machine.Group) : State :=
  { on f with objs := [{ Obj.probe [] with kernels := [{ kflags := 0, pregs := 1, priv := 4096, spad := 4096, ords := 0, versions :=
    [{ Version.blank with vregs := 64 }] }] }] }
/-- The pipeline once it has drained. -/
def ended : Region := { pipe [] with seedN := 0 }
def inEnded : State := { inPipe [] (atSpad 0) with regions := [ended] }

theorem test_waits_on_accesses :
    Meets (.fence Mods.bare ⟨0, 0, 0, 0⟩) (fun u s => fenceHeld u s = true) ∧ Meets (.time Mods.bare ⟨2, 0, 0, 0⟩) (fun u s => u.busy s = true) ∧
    Meets (.launch Mods.bare ⟨2, 0, 0, 0⟩) (fun u s => u.unreleased s 0 = true) ∧
    Meets (.wgsync Mods.bare ⟨0, 0, 0, 0⟩) (fun u s => s.isShed (s.prioOf u.g) = false ∧ u.unreleased s 2 = true) :=
  ⟨meets (s := busyStore id) (g := g0) rfl (by decide +kernel), meets (s := busyStore id) (g := g0) rfl (by decide +kernel),
   meets (s := busyStore id) (g := g0) rfl (by decide +kernel), meets (s := busyStore id) (g := g0) rfl (by decide +kernel)⟩
theorem test_waits_on_sideboard :
    Meets (.poisq Mods.bare ⟨2, 0, 3, 1⟩) (fun u s => u.poisBad s ⟨2, 0, 3, 1⟩ = none ∧ u.poisWaits s ⟨2, 0, 3, 1⟩ false = true) ∧
    Meets (.poisclr Mods.bare ⟨0, 0, 3, 1⟩) (fun u s => u.poisBad s ⟨0, 0, 3, 1⟩ = none ∧ u.poisWaits s ⟨0, 0, 3, 1⟩ true = true) ∧
    Meets (.fetchw Mods.bare F0) (fun u s => s.mailboxKey u.g (fetchPtr F0 u) = .ok (spadKey 0 0) ∧ s.region? u.g.region = some Region.probe ∧
      (s.sbHolds u.g (fetchPtr F0 u) 16 true || s.pendingAt u.g.core s.nextId (.bytes (spadKey 0 0 + 12) none) 4) = true) :=
  ⟨meets (s := heldLine) (g := line64 g0) rfl (by decide +kernel), meets (s := heldLine) (g := line64 g0) rfl (by decide +kernel),
   meets (s := held) (g := atSpad 0 g0) rfl ⟨of_gives (by decide +kernel), rfl, by decide +kernel⟩⟩
theorem test_copies_wait_and_trap :
    Meets (.cpyT Mods.bare ⟨0, 1, 0, 0⟩) (fun u s => copyAllowed (shapeOf (u.g.getT 0)) (shapeOf (u.g.getT 1)) = true ∧
      u.barCheck s ⟨0, 1, 0, 0⟩ = .ok none ∧ u.basesBad s (shapeOf (u.g.getT 0)) (shapeOf (u.g.getT 1)) = none ∧ 127 ≤ u.g.cp) ∧
    MeetsTrap (.cpyT Mods.bare ⟨0, 1, 0, 0⟩) (fun u _ => copyAllowed (shapeOf (u.g.getT 0)) (shapeOf (u.g.getT 1)) = false)
      (fun u => Trap.at_ trapShape u.x.pc) ∧
    Meets (.cpyLB128 Mods.bare ⟨0, 0, 0, 0⟩) (fun u s => u.barCheck s ⟨0, 0, 0, 0⟩ = .ok none ∧ copyLanesFit ⟨0, 0, 0, 0⟩ 16 u s = true ∧ 127 ≤ u.g.cp) :=
  ⟨meets (s := on cpFull) (g := cpFull g0) rfl ⟨by decide +kernel, rfl, by decide +kernel, by decide +kernel⟩,
   meetsTrap (s := on (full inH)) (g := full inH g0) rfl (by decide +kernel) (by decide +kernel),
   meets (s := on cpFull) (g := cpFull g0) rfl ⟨rfl, by decide +kernel, by decide +kernel⟩⟩
theorem test_barrier_other_ways :
    MeetsRoom (.txbExpect Mods.bare ⟨0, 0, 0⟩) (fun u s => Reaches ⟨0, 0, 0⟩ (spadKey 0 4080) u s ∧
        takes (.expect (u.g.getS 0).toNat) (s.barrier (spadKey 0 4080)) = true)
      (fun u s => (s.txbEvent (spadKey 0 4080) (.expect (u.g.getS 0).toNat)).1) ∧
    Meets (.txbWait Mods.bare ⟨2, 0, 0⟩) (fun u s => Reaches ⟨2, 0, 0⟩ (spadKey 0 4080) u s ∧ txbBad (s.barrier (spadKey 0 4080)) = false ∧
        txbPhase (s.barrier (spadKey 0 4080)) ≠ (u.g.getS 2).toNat % 16) :=
  ⟨meetsRoom (s := withBar 1) (g := atSpad 4080 g0) rfl ⟨⟨of_gives (by decide +kernel), by decide +kernel⟩, by decide +kernel⟩ (by decide +kernel),
   meets (s := withBar2) (g := phase1 g0) rfl ⟨⟨of_gives (by decide +kernel), by decide +kernel⟩, by decide +kernel, by decide +kernel⟩⟩
theorem test_matrix_other_ways :
    MeetsTrap (.mzero Mods.bare ⟨96, 0, 0, 0⟩) (fun u s => (s.versionOf u.g).vregs ≤ (⟨96, 0, 0, 0⟩ : RF).a.toNat + 31) (fun u => Trap.at_ trapOperand u.x.pc) ∧
    MeetsTrap (.mma (withRnd 1) ⟨0, 0, 1, 0⟩) (fun u _ => u.m.modx.rnd ≠ 0 ∧ isInt (shapeOf (u.g.getT 0)).fmt = false) (fun u => Trap.at_ trapField u.x.pc) ∧
    MeetsTrap (.mma Mods.bare ⟨96, 0, 1, 0⟩) (fun u s => (u.m.modx.rnd = 0 ∨ isInt (shapeOf (u.g.getT 0)).fmt = true) ∧ (s.versionOf u.g).vregs ≤ 96 + 31)
      (fun u => Trap.at_ trapOperand u.x.pc) ∧
    MeetsTrap (.mma Mods.bare ⟨0, 0, 1, 0⟩) (fun u s => (u.m.modx.rnd = 0 ∨ isInt (shapeOf (u.g.getT 0)).fmt = true) ∧ 0 + 31 < (s.versionOf u.g).vregs ∧
      mmaShapesOk (shapeOf (u.g.getT 0)) (shapeOf (u.g.getT 1)) = false) (fun u => Trap.at_ trapShape u.x.pc) ∧
    Meets (.mma Mods.bare ⟨0, 0, 1, 0⟩) (fun u s => MmaLegal ⟨0, 0, 1, 0⟩ u s ∧ 15 ≤ u.g.mx) :=
  ⟨meetsTrap (s := few (full inH)) (g := full inH g0) rfl (by decide +kernel) (by decide +kernel),
   meetsTrap (s := on (full inH)) (g := full inH g0) rfl (by decide +kernel) (by decide +kernel),
   meetsTrap (s := few (full inH)) (g := full inH g0) rfl (by decide +kernel) (by decide +kernel),
   meetsTrap (s := on (full inH)) (g := full inH g0) rfl (by decide +kernel) (by decide +kernel),
   meets (s := on mxFull) (g := mxFull g0) rfl ⟨⟨.inl rfl, by decide +kernel, by decide +kernel, by decide +kernel⟩, by decide +kernel⟩⟩
theorem test_queues_other_ways :
    MeetsRoom (.qpush Mods.bare ⟨0, 0, 0, 2⟩) (fun u s => Pushes ⟨0, 0, 0, 2⟩ (pipe (List.replicate 16 rec1)) u s ∧
        ((pipe (List.replicate 16 rec1)).room (queueOf ⟨0, 0, 0, 2⟩ u) = false ∨ s.pushers 0 (queueOf ⟨0, 0, 0, 2⟩ u) ≠ []))
      (fun u s => u.parked { s with nextId := s.nextId + 1 } (.qpush (queueOf ⟨0, 0, 0, 2⟩ u) (s64 u.g 0).toNat s.nextId)) ∧
    (∃ t, MeetsRoom (.qpop Mods.bare ⟨2, 0, 0, 0⟩) (fun u s => Pops ⟨2, 0, 0, 0⟩ ended t u s ∧ Empty ended u s ∧ s.drained ended = true)
      (fun u s => s.modGroup u.g.id (toS 2 2))) ∧
    ∃ t, MeetsRoom (.qpop Mods.bare ⟨2, 0, 0, 0⟩) (fun u s => Pops ⟨2, 0, 0, 0⟩ (pipe []) t u s ∧ Empty (pipe []) u s ∧ s.drained (pipe []) = false)
      (fun u s => u.parked { s with nextId := s.nextId + 1 } (.qpop 2 (s64 u.g 0).toNat s.nextId)) :=
  ⟨meetsRoom (s := inPipe (List.replicate 16 rec1) (atSpad 0)) (g := atSpad 0 g0) rfl
      ⟨⟨rfl, by decide, by decide, of_isOk () (by decide +kernel), by decide +kernel, by decide +kernel⟩, .inl (by decide +kernel)⟩ (by decide +kernel),
   ⟨_, meetsRoom (s := inEnded) (g := atSpad 0 g0) rfl
      ⟨⟨by decide +kernel, rfl, by decide, rfl, by decide +kernel, of_isOk (.bytes 0 none) (by decide +kernel), by decide +kernel⟩, .inl (by decide +kernel), by decide +kernel⟩ (by decide +kernel)⟩,
   ⟨_, meetsRoom (s := inPipe [] (atSpad 0)) (g := atSpad 0 g0) rfl
      ⟨⟨by decide +kernel, rfl, by decide, rfl, by decide +kernel, of_isOk (.bytes 0 none) (by decide +kernel), by decide +kernel⟩, .inl (by decide +kernel), by decide +kernel⟩ (by decide +kernel)⟩⟩

/-- A grid of one workgroup of one group of the object (Tables 03-5, 04-1). -/
def rcb1 : Nat := 2 ^ 648 + 2 ^ 656 + 2 ^ 1024 * (1 + 2 ^ 32 + 2 ^ 64 + 2 ^ 128 + 2 ^ 136)
def withRcb : State :=
  let m := (bytesOf 256 rcb1).zipIdx.foldl (fun (m : Memory) p => m.set (0x100000 + p.2) p.1) (on atRcb).mem
  { on atRcb with mem := m }
def startCmd : Cmd := { cmd 5 with bytes := List.replicate 64 0 ++ bytesOf 256 rcb1 }
theorem test_launch_accepts :
    ∃ x o, MeetsRoom (.launch Mods.bare ⟨2, 0, 0, 0⟩) (fun u s => u.unreleased s 0 = false ∧ s.region? u.g.region = some Region.probe ∧
      (s.release u.g.core 0).readRcb u.g (s64 u.g (⟨2, 0, 0, 0⟩ : RF).b.toNat).toNat 4 = .ok x ∧
      x.2.checkRcb u.g.ctx Region.probe.eff (ofBytes x.1) = .ok o) fun u _ =>
        (x.2.addRegion (regionOf 0 u.g.ctx (s64 u.g 0).toNat 0 (some 0) Region.probe.eff o (ofBytes x.1)) 0).modGroup u.g.id (toS 2 0) :=
  ⟨_, _, meetsRoom (s := withRcb) (g := atRcb g0) rfl
    ⟨by decide +kernel, rfl, of_isOk ([], on id) (by decide +kernel), of_isOk (Obj.probe []) (by decide +kernel)⟩ (by decide +kernel)⟩
theorem test_start_accepts : Next (offers startCmd) 0 5 startCmd ∧
    isOk (((offers startCmd).beginCmd startCmd).checkRcb 0 ((offers startCmd).ctx 0).deflt (ofBytes (startCmd.bytes.drop 64))) = true := by
  unfold Next
  decide +kernel
/-- What the turn of slot 0 of core 0 chooses, and what the words there decode to. -/
def chosen (s : State) : Option (Option (Instr × Nat) × Option Reject) :=
  ((s.slotAt 0 0).choose (s.candidates exec 0 0)).map fun p =>
    match decode (s.fetchWords p.1 (p.1.entry p.2).pc.toNat maxUnitWords) with
    | .ok x => (some x, none)
    | .error r => (none, some r)
def atPc (pc : Word) : State :=
  let s := State.reset.withFetchWord 32 0x01000000
  s.modEntry 0 0 fun y => { y with pc := pc }
theorem test_meets_StepRunsUnit_turns :
    chosen (atPc 0) = some (some (.nop Mods.bare ⟨0, 0, 0, 0⟩, 1), none) ∧ chosen (atPc 2) = some (none, some .truncated) ∧
    chosen (State.reset.withFetchWord 32 0x0F000000) = some (none, some .illegalOpcode) ∧ chosen State.reset = none ∧
    Instr.coldReset.parts = none := by decide +kernel
theorem test_meets_StepRunsUnit_operand : chosen (State.reset.withFetchWord 32 0x61000000) = some (none, some .illegalOperand) ∧
    isOk (readUnit [0x61000000]) = true := by decide +kernel

/-- Words decode to a unit and its length. -/
def readsAs (p : List Word × Instr × Nat) : Bool :=
  match decode p.1 with
  | .ok q => decide (q = p.2)
  | .error _ => false

/-! ## Words written out field by field from Tables 07-1, 07-7 and 07-8 -/

theorem test_decode_control : ([
    ([0b00000001_0000000_0000000_0000000_00_0], .nop Mods.bare ⟨0, 0, 0, 0⟩, 1),
    ([0b00000010_10000000000000000000001_0], .bra Mods.bare ⟨0x400001⟩, 1),
    ([0b00000011_0001001_1000000000000000_0], .brc Mods.bare ⟨9, 0x8000⟩, 1),
    ([0b00000100_0111111_0111111111111111_0], .brcU Mods.bare ⟨63, 0x7FFF⟩, 1),
    ([0b00000101_0000001_0000000_0000000_00_0, 0b0001_000000000000000000000000101_0, 0b1111_111111111111111111111111111_0], .brm Mods.bare ⟨1, 0, 0, 0⟩ [⟨1, 5⟩, ⟨15, -1⟩], 3),
    ([0b00000110_10000000000000000000001_0], .jset Mods.bare ⟨0x400001⟩, 1),
    ([0b00000111_0000000_0000000_0000000_00_0], .join Mods.bare ⟨0, 0, 0, 0⟩, 1),
    ([0b00001000_1111111_1000000000000000_0], .call Mods.bare ⟨127, 0x8000⟩, 1),
    ([0b00001001_0111111_0111111111111111_0], .callU Mods.bare ⟨63, 0x7FFF⟩, 1),
    ([0b00001010_0000000_0000101_0000000_00_0], .ret Mods.bare ⟨0, 5, 0, 0⟩, 1),
    ([0b00001011_0000000_0111111_0000000_00_0], .retU Mods.bare ⟨0, 63, 0, 0⟩, 1),
    ([0b00001100_0000000_0000101_0000000_00_0], .jmpi Mods.bare ⟨0, 5, 0, 0⟩, 1),
    ([0b00001101_0000000_0000000_0000000_00_0], .exit Mods.bare ⟨0, 0, 0, 0⟩, 1)] : List (List Word × Instr × Nat)).all readsAs = true := by decide +kernel

theorem test_decode_uniform : ([
    ([0b00010000_0111110_0000100_0000010_01_0], .sadd32 Mods.bare ⟨62, 4, 2, 1⟩, 1),
    ([0b00010001_0111110_0000100_0000010_01_0], .sadd64 Mods.bare ⟨62, 4, 2, 1⟩, 1),
    ([0b00010010_0111110_0000100_0000010_01_0], .ssub32 Mods.bare ⟨62, 4, 2, 1⟩, 1),
    ([0b00010011_0111110_0000100_0000010_01_0], .ssub64 Mods.bare ⟨62, 4, 2, 1⟩, 1),
    ([0b00010100_0111110_0000100_0000010_01_0], .smul32 Mods.bare ⟨62, 4, 2, 1⟩, 1),
    ([0b00010101_0111110_0000100_0000010_01_0], .smul64 Mods.bare ⟨62, 4, 2, 1⟩, 1),
    ([0b00010110_0111110_0000100_0000010_01_0], .smulhI32 Mods.bare ⟨62, 4, 2, 1⟩, 1),
    ([0b00010111_0111110_0000100_0000010_01_0], .smulhN32 Mods.bare ⟨62, 4, 2, 1⟩, 1),
    ([0b00011000_0111110_0000100_0000010_01_0], .sand Mods.bare ⟨62, 4, 2, 1⟩, 1),
    ([0b00011001_0111110_0000100_0000010_01_0], .sor Mods.bare ⟨62, 4, 2, 1⟩, 1),
    ([0b00011010_0111110_0000100_0000010_01_0], .sxor Mods.bare ⟨62, 4, 2, 1⟩, 1),
    ([0b00011011_0111110_0000100_0000010_01_0], .sshl Mods.bare ⟨62, 4, 2, 1⟩, 1),
    ([0b00011100_0111110_0000100_0000010_01_0], .sshr Mods.bare ⟨62, 4, 2, 1⟩, 1),
    ([0b00011101_0111110_0000100_0000010_01_0], .ssar Mods.bare ⟨62, 4, 2, 1⟩, 1),
    ([0b00011110_0111110_0000100_0000010_01_0], .sminI32 Mods.bare ⟨62, 4, 2, 1⟩, 1),
    ([0b00011111_0111110_0000100_0000010_01_0], .sminN32 Mods.bare ⟨62, 4, 2, 1⟩, 1),
    ([0b00100000_0111110_0000100_0000010_01_0], .smaxI32 Mods.bare ⟨62, 4, 2, 1⟩, 1),
    ([0b00100001_0111110_0000100_0000010_01_0], .smaxN32 Mods.bare ⟨62, 4, 2, 1⟩, 1)] : List (List Word × Instr × Nat)).all readsAs = true := by decide +kernel

theorem test_decode_uniform_compares : ([
    ([0b00100010_0111110_0000100_0000010_01_0], .scmpEq Mods.bare ⟨62, 4, 2, 1⟩, 1),
    ([0b00100011_0111110_0000100_0000010_01_0], .scmpNe Mods.bare ⟨62, 4, 2, 1⟩, 1),
    ([0b00100100_0111110_0000100_0000010_01_0], .scmpLtI32 Mods.bare ⟨62, 4, 2, 1⟩, 1),
    ([0b00100101_0111110_0000100_0000010_01_0], .scmpLtN32 Mods.bare ⟨62, 4, 2, 1⟩, 1),
    ([0b00100110_0111110_0000100_0000010_01_0], .scmpLeI32 Mods.bare ⟨62, 4, 2, 1⟩, 1),
    ([0b00100111_0111110_0000100_0000010_01_0], .scmpLeN32 Mods.bare ⟨62, 4, 2, 1⟩, 1),
    ([0b00101000_0111110_0000100_0000010_01_0], .scmpGtI32 Mods.bare ⟨62, 4, 2, 1⟩, 1),
    ([0b00101001_0111110_0000100_0000010_01_0], .scmpGtN32 Mods.bare ⟨62, 4, 2, 1⟩, 1),
    ([0b00101010_0111110_0000100_0000010_01_0], .scmpGeI32 Mods.bare ⟨62, 4, 2, 1⟩, 1),
    ([0b00101011_0111110_0000100_0000010_01_0], .scmpGeN32 Mods.bare ⟨62, 4, 2, 1⟩, 1),
    ([0b00101100_0111110_0000100_0000010_01_0], .ssel Mods.bare ⟨62, 4, 2, 1⟩, 1),
    ([0b00101101_0111111_1000000000000001_0], .smovi Mods.bare ⟨63, 0x8001⟩, 1),
    ([0b00101110_0111110_0000100_111111111_0], .sldB32 Mods.bare ⟨62, 4, 0x1FF⟩, 1),
    ([0b00101111_0111110_0000100_111111111_0], .sldB64 Mods.bare ⟨62, 4, 0x1FF⟩, 1)] : List (List Word × Instr × Nat)).all readsAs = true := by decide +kernel

theorem test_decode_vector : ([
    ([0b00110000_0111110_0000100_0000010_00_0], .iadd32 Mods.bare ⟨62, 4, 2, 0⟩, 1),
    ([0b00110001_0111110_0000100_0000010_00_0], .iadd64 Mods.bare ⟨62, 4, 2, 0⟩, 1),
    ([0b00110010_0111110_0000100_0000010_00_0], .isub32 Mods.bare ⟨62, 4, 2, 0⟩, 1),
    ([0b00110011_0111110_0000100_0000010_00_0], .isub64 Mods.bare ⟨62, 4, 2, 0⟩, 1),
    ([0b00110100_0111110_0000100_0000010_00_0], .imul32 Mods.bare ⟨62, 4, 2, 0⟩, 1),
    ([0b00110101_0111110_0000100_0000010_00_0], .imul64 Mods.bare ⟨62, 4, 2, 0⟩, 1),
    ([0b00110110_0111110_0000100_0000010_00_0], .imad Mods.bare ⟨62, 4, 2, 0⟩, 1),
    ([0b00110111_0111110_0000100_0000010_00_0], .imulhI32 Mods.bare ⟨62, 4, 2, 0⟩, 1),
    ([0b00111000_0111110_0000100_0000010_00_0], .imulhN32 Mods.bare ⟨62, 4, 2, 0⟩, 1),
    ([0b00111001_0111110_0000100_0000010_00_0], .iand Mods.bare ⟨62, 4, 2, 0⟩, 1),
    ([0b00111010_0111110_0000100_0000010_00_0], .ior Mods.bare ⟨62, 4, 2, 0⟩, 1),
    ([0b00111011_0111110_0000100_0000010_00_0], .ixor Mods.bare ⟨62, 4, 2, 0⟩, 1),
    ([0b00111100_0111110_0000100_0000010_00_0], .ishl32 Mods.bare ⟨62, 4, 2, 0⟩, 1),
    ([0b00111101_0111110_0000100_0000010_00_0], .ishl64 Mods.bare ⟨62, 4, 2, 0⟩, 1),
    ([0b00111110_0111110_0000100_0000010_00_0], .ishr32 Mods.bare ⟨62, 4, 2, 0⟩, 1),
    ([0b00111111_0111110_0000100_0000010_00_0], .ishr64 Mods.bare ⟨62, 4, 2, 0⟩, 1),
    ([0b01000000_0111110_0000100_0000010_00_0], .isar32 Mods.bare ⟨62, 4, 2, 0⟩, 1),
    ([0b01000001_0111110_0000100_0000010_00_0], .isar64 Mods.bare ⟨62, 4, 2, 0⟩, 1)] : List (List Word × Instr × Nat)).all readsAs = true := by decide +kernel

theorem test_decode_vector_fields : ([
    ([0b01000010_0111110_0000100_0000010_00_0], .iminI32 Mods.bare ⟨62, 4, 2, 0⟩, 1),
    ([0b01000011_0111110_0000100_0000010_00_0], .iminN32 Mods.bare ⟨62, 4, 2, 0⟩, 1),
    ([0b01000100_0111110_0000100_0000010_00_0], .imaxI32 Mods.bare ⟨62, 4, 2, 0⟩, 1),
    ([0b01000101_0111110_0000100_0000010_00_0], .imaxN32 Mods.bare ⟨62, 4, 2, 0⟩, 1),
    ([0b01000110_1111110_0000100_0000000_00_0], .iabs Mods.bare ⟨126, 4, 0, 0⟩, 1),
    ([0b01000111_1111110_0000100_0000000_00_0], .popcB32 Mods.bare ⟨126, 4, 0, 0⟩, 1),
    ([0b01001000_1111110_0000100_0000000_00_0], .popcB64 Mods.bare ⟨126, 4, 0, 0⟩, 1),
    ([0b01001001_1111110_0000100_0000000_00_0], .clzB32 Mods.bare ⟨126, 4, 0, 0⟩, 1),
    ([0b01001010_1111110_0000100_0000000_00_0], .clzB64 Mods.bare ⟨126, 4, 0, 0⟩, 1),
    ([0b01001011_1111110_0000100_0000000_00_0], .brev Mods.bare ⟨126, 4, 0, 0⟩, 1),
    ([0b01001100_0111110_0000100_0000010_00_0], .bfeI32 Mods.bare ⟨62, 4, 2, 0⟩, 1),
    ([0b01001101_0111110_0000100_0000010_00_0], .bfeN32 Mods.bare ⟨62, 4, 2, 0⟩, 1),
    ([0b01001110_0111110_0000100_0000010_00_0], .bfi Mods.bare ⟨62, 4, 2, 0⟩, 1),
    ([0b01001111_1011111_0000100_0000010_00_0], .icmpI32 Mods.bare ⟨95, 4, 2, 0⟩, 1),
    ([0b01010000_1011111_0000100_0000010_00_0], .icmpN32 Mods.bare ⟨95, 4, 2, 0⟩, 1),
    ([0b01010001_1011111_0000100_0000010_00_0], .icmpI64 Mods.bare ⟨95, 4, 2, 0⟩, 1),
    ([0b01010010_1011111_0000100_0000010_00_0], .icmpN64 Mods.bare ⟨95, 4, 2, 0⟩, 1),
    ([0b01010011_1111110_0001111_0000010_00_0], .iselB32 Mods.bare ⟨126, 15, 2, 0⟩, 1),
    ([0b01010100_1111110_0001111_0000010_00_0], .iselB64 Mods.bare ⟨126, 15, 2, 0⟩, 1)] : List (List Word × Instr × Nat)).all readsAs = true := by decide +kernel

theorem test_decode_masks_collectives : ([
    ([0b01100000_0001111_0000011_0001001_00_0], .mand Mods.bare ⟨15, 3, 9, 0⟩, 1),
    ([0b01100001_0001111_0000011_0001001_00_0], .mor Mods.bare ⟨15, 3, 9, 0⟩, 1),
    ([0b01100010_0001111_0000011_0001001_00_0], .mxor Mods.bare ⟨15, 3, 9, 0⟩, 1),
    ([0b01100011_0001111_0000011_0000000_00_0], .mnot Mods.bare ⟨15, 3, 0, 0⟩, 1),
    ([0b01100100_0111111_0001111_0000000_00_0], .mpopc Mods.bare ⟨63, 15, 0, 0⟩, 1),
    ([0b01100101_0111111_0001111_0000000_00_0], .mfirst Mods.bare ⟨63, 15, 0, 0⟩, 1),
    ([0b01100110_0000110_0000100_0000001_10_0], .vote Mods.bare ⟨6, 4, 1, 2⟩, 1),
    ([0b01100111_1111110_0000100_0011111_10_0], .shflIdx Mods.bare ⟨126, 4, 31, 2⟩, 1),
    ([0b01101000_1111110_0000100_0011111_10_0], .shflUp Mods.bare ⟨126, 4, 31, 2⟩, 1),
    ([0b01101001_1111110_0000100_0011111_10_0], .shflDown Mods.bare ⟨126, 4, 31, 2⟩, 1),
    ([0b01101010_1111110_0000100_0011111_10_0], .shflXor Mods.bare ⟨126, 4, 31, 2⟩, 1),
    ([0b01101011_0000110_0000100_0011111_10_0], .rdlane Mods.bare ⟨6, 4, 31, 2⟩, 1),
    ([0b01101100_0000110_0000100_0011111_10_0], .wrlane Mods.bare ⟨6, 4, 31, 2⟩, 1),
    ([0b01101101_1111110_0000100_0011111_10_0], .bcast Mods.bare ⟨126, 4, 31, 2⟩, 1),
    ([0b01101110_0000110_0000100_0000111_10_0], .redux Mods.bare ⟨6, 4, 7, 2⟩, 1)] : List (List Word × Instr × Nat)).all readsAs = true := by decide +kernel

theorem test_decode_float : ([
    ([0b01110000_0111110_0000100_0000010_00_0], .faddF32 Mods.bare ⟨62, 4, 2, 0⟩, 1),
    ([0b01110001_0111110_0000100_0000010_00_0], .faddF16x2 Mods.bare ⟨62, 4, 2, 0⟩, 1),
    ([0b01110010_0111110_0000100_0000010_00_0], .fsubF32 Mods.bare ⟨62, 4, 2, 0⟩, 1),
    ([0b01110011_0111110_0000100_0000010_00_0], .fsubF16x2 Mods.bare ⟨62, 4, 2, 0⟩, 1),
    ([0b01110100_0111110_0000100_0000010_00_0], .fmulF32 Mods.bare ⟨62, 4, 2, 0⟩, 1),
    ([0b01110101_0111110_0000100_0000010_00_0], .fmulF16x2 Mods.bare ⟨62, 4, 2, 0⟩, 1),
    ([0b01110110_0111110_0000100_0000010_00_0], .ffmaF32 Mods.bare ⟨62, 4, 2, 0⟩, 1),
    ([0b01110111_0111110_0000100_0000010_00_0], .ffmaF16x2 Mods.bare ⟨62, 4, 2, 0⟩, 1),
    ([0b01111000_0111110_0000100_0000010_00_0], .fminF32 Mods.bare ⟨62, 4, 2, 0⟩, 1),
    ([0b01111001_0111110_0000100_0000010_00_0], .fminF16x2 Mods.bare ⟨62, 4, 2, 0⟩, 1),
    ([0b01111010_0111110_0000100_0000010_00_0], .fmaxF32 Mods.bare ⟨62, 4, 2, 0⟩, 1),
    ([0b01111011_0111110_0000100_0000010_00_0], .fmaxF16x2 Mods.bare ⟨62, 4, 2, 0⟩, 1),
    ([0b01111100_1011111_0000100_0000010_00_0], .fcmp Mods.bare ⟨95, 4, 2, 0⟩, 1),
    ([0b01111101_1111110_0000100_0000010_10_0], .fclass Mods.bare ⟨126, 4, 2, 2⟩, 1)] : List (List Word × Instr × Nat)).all readsAs = true := by decide +kernel

theorem test_decode_functions : ([
    ([0b01111110_1111110_0000100_0000000_00_0], .frcp Mods.bare ⟨126, 4, 0, 0⟩, 1),
    ([0b01111111_1111110_0000100_0000000_00_0], .frsq Mods.bare ⟨126, 4, 0, 0⟩, 1),
    ([0b10000000_1111110_0000100_0000000_00_0], .fsqrt Mods.bare ⟨126, 4, 0, 0⟩, 1),
    ([0b10000001_1111110_0000100_0000000_00_0], .fexp2 Mods.bare ⟨126, 4, 0, 0⟩, 1),
    ([0b10000010_1111110_0000100_0000000_00_0], .flog2 Mods.bare ⟨126, 4, 0, 0⟩, 1),
    ([0b10000011_1111110_0000100_0000000_00_0], .fsin Mods.bare ⟨126, 4, 0, 0⟩, 1),
    ([0b10000100_1111110_0000100_0000000_00_0], .fcos Mods.bare ⟨126, 4, 0, 0⟩, 1),
    ([0b10000101_1111110_0000100_0000100_10_0], .cvtF32 Mods.bare ⟨126, 4, 4, 2⟩, 1),
    ([0b10000110_1111110_0000100_0011010_10_0], .cvtF16 Mods.bare ⟨126, 4, 26, 2⟩, 1),
    ([0b10000111_1111110_0000100_0011010_10_0], .cvtBf16 Mods.bare ⟨126, 4, 26, 2⟩, 1),
    ([0b10001000_1111110_0000100_0011010_10_0], .cvtInt32 Mods.bare ⟨126, 4, 26, 2⟩, 1),
    ([0b10001001_1111110_0000100_0011010_10_0], .cvtInt64 Mods.bare ⟨126, 4, 26, 2⟩, 1),
    ([0b10001010_1111110_0000100_0111010_10_0], .cvtSmall Mods.bare ⟨126, 4, 58, 2⟩, 1),
    ([0b10001011_1111110_0000100_0000010_10_0], .kbpack Mods.bare ⟨126, 4, 2, 2⟩, 1),
    ([0b10001100_1111110_0000100_0000010_10_0], .kbunpack Mods.bare ⟨126, 4, 2, 2⟩, 1)] : List (List Word × Instr × Nat)).all readsAs = true := by decide +kernel

theorem test_decode_memory : ([
    ([0b10010000_0111110_0000100_111111111_0], .ldN8 Mods.bare ⟨62, 4, 0x1FF⟩, 1),
    ([0b10010001_0111110_0000100_111111111_0], .ldI8 Mods.bare ⟨62, 4, 0x1FF⟩, 1),
    ([0b10010010_0111110_0000100_111111111_0], .ldN16 Mods.bare ⟨62, 4, 0x1FF⟩, 1),
    ([0b10010011_0111110_0000100_111111111_0], .ldI16 Mods.bare ⟨62, 4, 0x1FF⟩, 1),
    ([0b10010100_0111110_0000100_111111111_0], .ldB32 Mods.bare ⟨62, 4, 0x1FF⟩, 1),
    ([0b10010101_0111110_0000100_111111111_0], .ldB64 Mods.bare ⟨62, 4, 0x1FF⟩, 1),
    ([0b10010110_0111110_0000100_111111111_0], .st8 Mods.bare ⟨62, 4, 0x1FF⟩, 1),
    ([0b10010111_0111110_0000100_111111111_0], .st16 Mods.bare ⟨62, 4, 0x1FF⟩, 1),
    ([0b10011000_0111110_0000100_111111111_0], .stB32 Mods.bare ⟨62, 4, 0x1FF⟩, 1),
    ([0b10011001_0111110_0000100_111111111_0], .stB64 Mods.bare ⟨62, 4, 0x1FF⟩, 1),
    ([0b10011010_0111110_0000100_111111111_0], .ldsB32 Mods.bare ⟨62, 4, 0x1FF⟩, 1),
    ([0b10011011_0111110_0000100_111111111_0], .ldsB64 Mods.bare ⟨62, 4, 0x1FF⟩, 1),
    ([0b10011100_0111110_0000100_111111111_0], .stsB32 Mods.bare ⟨62, 4, 0x1FF⟩, 1),
    ([0b10011101_0111110_0000100_111111111_0], .stsB64 Mods.bare ⟨62, 4, 0x1FF⟩, 1),
    ([0b10011110_0000100_0000110_100100000_0], .atom32 Mods.bare ⟨4, 6, 0x120⟩, 1),
    ([0b10011111_0000100_0000110_101000000_0], .atom64 Mods.bare ⟨4, 6, 0x140⟩, 1),
    ([0b10100000_0000100_0000110_000100000_0], .red32 Mods.bare ⟨4, 6, 0x20⟩, 1),
    ([0b10100001_0000100_0000110_000000000_0], .red64 Mods.bare ⟨4, 6, 0x0⟩, 1),
    ([0b10100010_0000000_0000100_111111111_0], .pref Mods.bare ⟨0, 4, 0x1FF⟩, 1)] : List (List Word × Instr × Nat)).all readsAs = true := by decide +kernel

theorem test_decode_copies_barriers : ([
    ([0b10100011_0000011_0001100_0000000_00_0], .cpyT Mods.bare ⟨3, 12, 0, 0⟩, 1),
    ([0b10100100_0000110_0000100_0000000_00_0], .cpyLB32 Mods.bare ⟨6, 4, 0, 0⟩, 1),
    ([0b10100101_0000110_0000100_0000000_00_0], .cpyLB64 Mods.bare ⟨6, 4, 0, 0⟩, 1),
    ([0b10100110_0000110_0000100_0000000_00_0], .cpyLB128 Mods.bare ⟨6, 4, 0, 0⟩, 1),
    ([0b10100111_0111110_0000100_111111111_0], .txbInit Mods.bare ⟨62, 4, 0x1FF⟩, 1),
    ([0b10101000_0111110_0000100_111111111_0], .txbArrive Mods.bare ⟨62, 4, 0x1FF⟩, 1),
    ([0b10101001_0111110_0000100_111111111_0], .txbExpect Mods.bare ⟨62, 4, 0x1FF⟩, 1),
    ([0b10101010_0111110_0000100_111111111_0], .txbWait Mods.bare ⟨62, 4, 0x1FF⟩, 1),
    ([0b10101011_0111111_0000100_0000010_01_0], .sbq Mods.bare ⟨63, 4, 2, 1⟩, 1),
    ([0b10101100_0111111_0000100_0000010_01_0], .poisq Mods.bare ⟨63, 4, 2, 1⟩, 1),
    ([0b10101101_0000000_0000100_0000010_01_0], .poisclr Mods.bare ⟨0, 4, 2, 1⟩, 1)] : List (List Word × Instr × Nat)).all readsAs = true := by decide +kernel

theorem test_decode_matrix : ([
    ([0b10110000_0100000_0000011_0001100_00_0], .mma Mods.bare ⟨32, 3, 12, 0⟩, 1),
    ([0b10110001_1100000_0000000_0000000_00_0], .mzero Mods.bare ⟨96, 0, 0, 0⟩, 1),
    ([0b10110010_0001001_0000100_111111111_0], .tset Mods.bare ⟨9, 4, 0x1FF⟩, 1),
    ([0b10110011_0001111_0111110_0010101_10_0], .tfield Mods.bare ⟨15, 62, 21, 2⟩, 1),
    ([0b10110100_0111110_0001111_0000001_10_0], .tget Mods.bare ⟨62, 15, 1, 2⟩, 1),
    ([0b10110101_0111111_0000000_0000010_10_0], .benchq Mods.bare ⟨63, 0, 2, 2⟩, 1)] : List (List Word × Instr × Nat)).all readsAs = true := by decide +kernel

theorem test_decode_sync : ([
    ([0b10110110_111110_11110_1111110_1110_0_0], .wait Mods.bare ⟨62, 30, 126, 14, 0⟩, 1),
    ([0b10110111_0000000_0000000_0000000_00_0], .wgsync Mods.bare ⟨0, 0, 0, 0⟩, 1),
    ([0b10111000_0000000_0000000_0000000_00_0], .fence Mods.bare ⟨0, 0, 0, 0⟩, 1),
    ([0b10111001_0000000_0000100_0000001_10_0], .qpush Mods.bare ⟨0, 4, 1, 2⟩, 1),
    ([0b10111010_0111111_0000100_0000000_00_0], .qpop Mods.bare ⟨63, 4, 0, 0⟩, 1),
    ([0b10111011_0111111_0000100_0000000_00_0], .qtry Mods.bare ⟨63, 4, 0, 0⟩, 1),
    ([0b10111100_0000000_0000000_0000000_00_0], .tdone Mods.bare ⟨0, 0, 0, 0⟩, 1),
    ([0b10111101_0000000_0000100_111111111_0], .fetchw Mods.bare ⟨0, 4, 0x1FF⟩, 1),
    ([0b10111110_0111111_0000100_0000000_00_0], .launch Mods.bare ⟨63, 4, 0, 0⟩, 1),
    ([0b10111111_0000000_1111111111111111_0], .sleep Mods.bare ⟨0, 0xFFFF⟩, 1)] : List (List Word × Instr × Nat)).all readsAs = true := by decide +kernel

theorem test_decode_system : ([
    ([0b11000000_0000000_1111111111111111_0], .trap Mods.bare ⟨0, 0xFFFF⟩, 1),
    ([0b11000001_0000000_0000000_0000000_00_0], .rfe Mods.bare ⟨0, 0, 0, 0⟩, 1),
    ([0b11000010_0000110_1000000000000011_0], .getsr Mods.bare ⟨6, 0x8003⟩, 1),
    ([0b11000011_0000110_0000000001000000_0], .setsr Mods.bare ⟨6, 0x40⟩, 1),
    ([0b11000100_0111110_0000000_0000000_00_0], .featq Mods.bare ⟨62, 0, 0, 0⟩, 1),
    ([0b11000101_0111111_0000000_0001111_10_0], .setperf Mods.bare ⟨63, 0, 15, 2⟩, 1),
    ([0b11000110_0111111_0000000_0000101_01_0], .xfer Mods.bare ⟨63, 0, 5, 1⟩, 1),
    ([0b11000111_0000000_0001111_0000000_00_0], .kill Mods.bare ⟨0, 15, 0, 0⟩, 1),
    ([0b11001000_0000000_1111111111111111_0], .brk Mods.bare ⟨0, 0xFFFF⟩, 1),
    ([0b11001001_0111111_1000000000000001_0], .trace Mods.bare ⟨63, 0x8001⟩, 1),
    ([0b11001010_0111110_0000000_0000000_00_0], .time Mods.bare ⟨62, 0, 0, 0⟩, 1),
    ([0b11001011_0111111_0000000_0000011_10_0], .sigq Mods.bare ⟨63, 0, 3, 2⟩, 1)] : List (List Word × Instr × Nat)).all readsAs = true := by decide +kernel

/-- The words worked out under "Encoding worked from `addone`" in 07_encoding.md. -/
theorem test_decode_addone : ([
    ([0x30020042], .iadd32 Mods.bare ⟨1, 0, 8, 1⟩, 1),
    ([0x2B2A2082], .scmpGeN32 Mods.bare ⟨21, 8, 16, 1⟩, 1),
    ([0x042A001C], .brcU Mods.bare ⟨21, 14⟩, 1),
    ([0x50420482], .icmpN32 Mods.bare ⟨0x21, 1, 16, 1⟩, 1),
    ([0xF0200000, 0x940C0800], .ldB32 sel1 ⟨6, 2, 0⟩, 2),
    ([0x042BFFE5], .brcU { Mods.bare with stop := true } ⟨21, 0xFFF2⟩, 1)] : List (List Word × Instr × Nat)).all readsAs = true := by decide +kernel
/-- Modifier words: `modh` YIELD and a `modx` with every field that `imad` uses; `modi` for k = 11 and for `smovi`. -/
theorem test_decode_modifiers : ([
    ([0b1111010_1_0_0000000000000000000000_0, 0b1111000_0011_1_001_0010011_101_0_00_000_0, 0b00110110_0000001_0000010_0000011_00_0],
      .imad { stop := false, h := some { yield := true, pfn := false, rsvd := 0 },
              x := some { msel := 3, z := true, rnd := 1, d4 := 19, reuse := 5, u := false, ord := 0, scope := 0 }, i := none, stray := false }
        ⟨1, 2, 3, 0⟩, 3),
    ([0b1111001_100000000000000000000001_0, 0b00010000_0000001_0000010_0000011_11_0], .sadd32 { Mods.bare with i := some 0x800001 } ⟨1, 2, 3, 3⟩, 2),
    ([0b1111001_000000001000000000000001_0, 0b00101101_0000001_0000000000000011_0], .smovi { Mods.bare with i := some 0x8001 } ⟨1, 3⟩, 2),
    ([0b1111000_0000_0_000_0000000_000_1_11_100_0, 0b10011110_0000010_0000100_100100000_0],
      .atom32 { Mods.bare with x := some { ModX.zero with u := true, ord := 3, scope := 4 } } ⟨2, 4, 0x120⟩, 2)] :
      List (List Word × Instr × Nat)).all readsAs = true := by decide +kernel

/-- Words that are refused, and how (R101, R105, R110, R112 to R115). -/
def refusesAs (p : List Word × Reject) : Bool :=
  match decode p.1 with
  | .ok _ => false
  | .error r => decide (r = p.2)
theorem test_decode_refused : ([
    ([0x00000000], .illegalOpcode), ([0x55000000], .illegalOpcode), ([0xEF000000], .illegalOpcode), ([0xCC000000], .illegalOpcode),
    ([0xF6000000, 0x01000000], .illegalModifier), ([0xF0000000, 0xF0000000, 0x36000000], .illegalModifier),
    ([0xF2000000, 0xF0000000, 0x30000006], .illegalModifier), ([0xF0000000, 0x01000000], .illegalModifier), ([0x30000006], .illegalModifier),
    ([0xF2000000, 0x2E000000], .illegalModifier), ([0x01000002], .illegalField), ([0x4FC00000], .illegalField), ([0x61000000], .illegalOperand),
    ([0x31020000], .illegalOperand), ([0xF0200040, 0x30000000], .illegalField), ([0xF4800000, 0x30000000], .illegalField), ([], .truncated),
    ([0xF0000000], .truncated), ([0x05000000], .truncated)] : List (List Word × Reject)).all refusesAs = true := by decide +kernel

/-! ## Well-formed and ill-formed units: a term that each check refuses -/

/-- `modi` before an instruction that accepts none; k = 11 without one; the order of modifier words (R101, R108, R110). -/
theorem test_ill_formed_modifier :
    ¬WellFormed (.nop { Mods.bare with i := some 0 } ⟨0, 0, 0, 0⟩) ∧ ¬WellFormed (.nop { Mods.bare with x := some ModX.zero } ⟨0, 0, 0, 0⟩) ∧
    ¬WellFormed (.iadd32 Mods.bare ⟨1, 2, 3, 3⟩) ∧
    ¬WellFormed (.iadd32 { stop := false, h := some { yield := false, pfn := false, rsvd := 0 }, x := some ModX.zero, i := some 0, stray := false } ⟨1, 2, 3, 3⟩) ∧
    WellFormed (.iadd32 { Mods.bare with i := some 0 } ⟨1, 2, 3, 3⟩) := by decide
/-- Modifier fields that the unit does not use, reserved codes, and combinations that R107 refuses. -/
theorem test_ill_formed_modx :
    ¬WellFormed (.imulhI32 { Mods.bare with x := some { ModX.zero with rnd := 1 } } ⟨1, 2, 3, 0⟩) ∧
    ¬WellFormed (.iadd32 { Mods.bare with x := some { ModX.zero with rnd := 3 } } ⟨1, 2, 3, 0⟩) ∧
    ¬WellFormed (.iadd32 { Mods.bare with x := some { ModX.zero with d4 := 1 } } ⟨1, 2, 3, 0⟩) ∧
    ¬WellFormed (.iadd32 { Mods.bare with x := some { ModX.zero with u := true, msel := 1 } } ⟨1, 2, 3, 1⟩) ∧
    ¬WellFormed (.stB32 { Mods.bare with x := some { ModX.zero with z := true } } ⟨1, 2, 0⟩) ∧
    ¬WellFormed (.ldB32 { Mods.bare with x := some { ModX.zero with ord := 2 } } ⟨1, 2, 0⟩) ∧
    ¬WellFormed (.ldB32 { Mods.bare with x := some { ModX.zero with scope := 4 } } ⟨1, 2, 0⟩) ∧
    ¬WellFormed (.fence { Mods.bare with x := some { ModX.zero with ord := 1, scope := 5 } } ⟨0, 0, 0, 0⟩) ∧
    WellFormed (.fence { Mods.bare with x := some { ModX.zero with ord := 1, scope := 4 } } ⟨0, 0, 0, 0⟩) := by decide
/-- Reserved fields and codes (R99, R109, R113, R114, Table 07-8). -/
theorem test_ill_formed_field :
    ¬WellFormed (.nop Mods.bare ⟨1, 0, 0, 0⟩) ∧ ¬WellFormed (.icmpI32 Mods.bare ⟨0x65, 2, 3, 0⟩) ∧ ¬WellFormed (.vote Mods.bare ⟨1, 2, 3, 2⟩) ∧
    ¬WellFormed (.redux Mods.bare ⟨1, 2, 8, 2⟩) ∧ ¬WellFormed (.cvtF32 Mods.bare ⟨1, 2, 11, 2⟩) ∧ ¬WellFormed (.kbpack Mods.bare ⟨1, 2, 3, 2⟩) ∧
    ¬WellFormed (.atom32 Mods.bare ⟨2, 4, 0x160⟩) ∧ ¬WellFormed (.red32 Mods.bare ⟨2, 4, 0x120⟩) ∧ ¬WellFormed (.atom64 Mods.bare ⟨2, 4, 0x020⟩) ∧
    ¬WellFormed (.brm Mods.bare ⟨4, 0, 0, 0⟩ [⟨1, 0⟩]) ∧ ¬WellFormed (.cpyT Mods.bare ⟨0, 1, 0, 2⟩) ∧ ¬WellFormed (.smovi { Mods.bare with i := some 0x10000 } ⟨1, 0⟩) ∧
    ¬WellFormed (.brm { Mods.bare with stray := true } ⟨0, 0, 0, 0⟩ [⟨1, 0⟩]) ∧ ¬WellFormed (.wait Mods.bare ⟨0, 0, 0, 0, 1⟩) ∧
    ¬WellFormed (.nop { Mods.bare with h := some { yield := false, pfn := true, rsvd := 0 } } ⟨0, 0, 0, 0⟩) ∧
    ¬WellFormed (.nop { Mods.bare with h := some { yield := true, pfn := false, rsvd := 1 } } ⟨0, 0, 0, 0⟩) ∧
    WellFormed (.nop { Mods.bare with h := some { yield := true, pfn := false, rsvd := 0 } } ⟨0, 0, 0, 0⟩) := by decide
/-- Register numbers (R100, Table 07-2). -/
theorem test_ill_formed_operand :
    ¬WellFormed (.sadd32 Mods.bare ⟨64, 0, 0, 1⟩) ∧ ¬WellFormed (.sadd64 Mods.bare ⟨1, 0, 0, 1⟩) ∧ ¬WellFormed (.mor Mods.bare ⟨0, 1, 2, 0⟩) ∧
    ¬WellFormed (.mor Mods.bare ⟨16, 1, 2, 0⟩) ∧ ¬WellFormed (.atom64 Mods.bare ⟨2, 4, 0x140⟩) ∧ ¬WellFormed (.ldB64 Mods.bare ⟨1, 2, 0⟩) ∧
    ¬WellFormed (.ldB32 Mods.bare ⟨1, 3, 0⟩) ∧ ¬WellFormed (.mma Mods.bare ⟨0, 16, 1, 0⟩) ∧ ¬WellFormed (.iadd32 Mods.bare ⟨1, 2, 64, 1⟩) ∧
    WellFormed (.iadd32 Mods.bare ⟨1, 2, 63, 1⟩) := by decide

/-! ## What units do: values from the spec's own examples and tables -/

/-- The group after a unit, if it answers a next state. -/
def after (i : Instr) (f : Machine.Group → Machine.Group) : Option Machine.Group :=
  match exec i (on f) with
  | .next t => t.group? 0
  | _ => none
def sReg (i : Instr) (f : Machine.Group → Machine.Group) (r : Nat) : Option Word := (after i f).map fun g => g.getS r
def vReg (i : Instr) (f : Machine.Group → Machine.Group) (r l : Nat) : Option Word := (after i f).map fun g => g.getV r l
def mReg (i : Instr) (f : Machine.Group → Machine.Group) (r : Nat) : Option Word := (after i f).map fun g => g.mr[r]?.getD 0
/-- S8 and S9 of the worked example after R131. -/
def s89 (g : Machine.Group) : Machine.Group := (g.setS 8 0xFFFFFFF0).setS 9 0x20

theorem test_sadd_wraps : sReg (.sadd32 Mods.bare ⟨10, 8, 9, 1⟩) s89 10 = some 0x10 := by decide +kernel
theorem test_sadd_saturates : sReg (.sadd32 (withRnd 2) ⟨10, 8, 9, 1⟩) s89 10 = some 0xFFFFFFFF ∧
    sReg (.sadd32 (withRnd 1) ⟨10, 8, 9, 1⟩) s89 10 = some 16 := by decide +kernel
theorem test_ssub64_borrows : (after (.ssub64 Mods.bare ⟨2, 4, 1, 2⟩) id).map (fun g => (g.getS 2, g.getS 3)) =
    some (0xFFFFFFFF, 0xFFFFFFFF) := by decide +kernel
theorem test_smulh_signs : sReg (.smulhI32 Mods.bare ⟨10, 8, 8, 1⟩) s89 10 = some 0 ∧
    sReg (.smulhN32 Mods.bare ⟨10, 8, 8, 1⟩) s89 10 = some 0xFFFFFFE0 := by decide +kernel
/-- Table 08-2: a count of 32 or more, and a negative immediate. -/
theorem test_shifts_by_width : sReg (.sshl Mods.bare ⟨10, 8, 9, 1⟩) s89 10 = some 0 ∧ sReg (.ssar Mods.bare ⟨10, 8, 9, 1⟩) s89 10 = some 0xFFFFFFFF ∧
    sReg (.ssar Mods.bare ⟨10, 9, 127, 2⟩) s89 10 = some 0 := by decide +kernel
theorem test_scmp_signs : sReg (.scmpLtI32 Mods.bare ⟨10, 8, 9, 1⟩) s89 10 = some 1 ∧
    sReg (.scmpLtN32 Mods.bare ⟨10, 8, 9, 1⟩) s89 10 = some 0 := by decide +kernel
theorem test_ssel_keeps : sReg (.ssel Mods.bare ⟨9, 7, 0, 2⟩) s89 9 = some 0x20 ∧ sReg (.ssel Mods.bare ⟨9, 8, 0, 2⟩) s89 9 = some 0 := by decide +kernel
/-- R102: IMM24[15:0] above imm16, and sign extension without `modi`. -/
theorem test_smovi : sReg (.smovi { Mods.bare with i := some 0x8001 } ⟨1, 0x8003⟩) id 1 = some 0x80018003 ∧
    sReg (.smovi Mods.bare ⟨1, 0x8003⟩) id 1 = some 0xFFFF8003 := by decide +kernel

/-- V2 holds each lane's number. -/
def lanesV (g : Machine.Group) : Machine.Group := g.setV 2 0xFFFFFFFF fun l => BitVec.ofNat 32 l
/-- R71: unselected lanes keep their destination, or are zeroed under Z. -/
theorem test_iadd_selects : vReg (.iadd32 sel1 ⟨2, 2, 5, 2⟩) (fun g => { lanesV g with mr := g.mr.set 1 2 }) 2 1 = some 6 ∧
    vReg (.iadd32 sel1 ⟨2, 2, 5, 2⟩) (fun g => { lanesV g with mr := g.mr.set 1 2 }) 2 3 = some 3 ∧
    vReg (.iadd32 { Mods.bare with x := some { ModX.zero with msel := 1, z := true } } ⟨2, 2, 5, 2⟩) (fun g => { lanesV g with mr := g.mr.set 1 2 }) 2 3 = some 0 := by
  decide +kernel
/-- Without `modx` the fourth operand is the destination (Table 07-6). -/
theorem test_imad_fourth : vReg (.imad Mods.bare ⟨2, 2, 3, 2⟩) lanesV 2 31 = some 124 := by decide +kernel
theorem test_bit_counts : vReg (.clzB32 Mods.bare ⟨3, 2, 0, 0⟩) lanesV 3 0 = some 32 ∧ vReg (.clzB32 Mods.bare ⟨3, 2, 0, 0⟩) lanesV 3 1 = some 31 ∧
    vReg (.popcB32 Mods.bare ⟨3, 2, 0, 0⟩) lanesV 3 31 = some 5 ∧ vReg (.brev Mods.bare ⟨3, 2, 0, 0⟩) lanesV 3 1 = some 0x80000000 := by decide +kernel
/-- R135: position 1, length 4 of 31 and of 23: sign bit set in both; a field that would pass bit 31 is cut there. -/
theorem test_bit_fields : vReg (.bfeI32 Mods.bare ⟨3, 2, 4, 1⟩) (fun g => (lanesV g).setS 4 0x401) 3 31 = some 0xFFFFFFFF ∧
    vReg (.bfeN32 Mods.bare ⟨3, 2, 4, 1⟩) (fun g => (lanesV g).setS 4 0x401) 3 31 = some 15 ∧
    vReg (.bfi Mods.bare ⟨2, 2, 4, 1⟩) (fun g => (lanesV g).setS 4 0x3F1E) 2 7 = some 0xC0000007 := by decide +kernel
/-- R136, R137: lt and ge, signed and unsigned, in the executed lanes. -/
theorem test_icmp : mReg (.icmpN32 Mods.bare ⟨0x21, 2, 4, 2⟩) lanesV 1 = some 0xF ∧ mReg (.icmpI32 Mods.bare ⟨0x51, 2, 127, 2⟩) lanesV 1 = some 0xFFFFFFFF ∧
    mReg (.icmpN32 Mods.bare ⟨0x51, 2, 127, 2⟩) lanesV 1 = some 0 := by decide +kernel
/-- Table 08-4: only the fragment's lanes; GW where there is none. -/
theorem test_masks : mReg (.mnot Mods.bare ⟨1, 2, 0, 0⟩) (pair ready 0) 1 = some 0xFFFF ∧ sReg (.mfirst Mods.bare ⟨1, 2, 0, 0⟩) id 1 = some 32 ∧
    sReg (.mpopc Mods.bare ⟨1, 0, 0, 0⟩) (pair ready 0) 1 = some 16 := by decide +kernel
/-- Table 08-5: a lane outside the group gives the reader's own value; the index is modulo 32. -/
theorem test_shuffles : vReg (.shflUp Mods.bare ⟨3, 2, 1, 2⟩) lanesV 3 0 = some 0 ∧ vReg (.shflUp Mods.bare ⟨3, 2, 1, 2⟩) lanesV 3 31 = some 30 ∧
    vReg (.shflDown Mods.bare ⟨3, 2, 127, 2⟩) lanesV 3 4 = some 4 ∧ vReg (.shflIdx Mods.bare ⟨3, 2, 35, 2⟩) lanesV 3 9 = some 3 ∧
    vReg (.shflXor Mods.bare ⟨3, 2, 33, 2⟩) lanesV 3 9 = some 8 := by decide +kernel
theorem test_votes_and_lanes : sReg (.vote Mods.bare ⟨1, 1, 2, 2⟩) someKilled 1 = some 1 ∧ sReg (.vote Mods.bare ⟨1, 1, 1, 2⟩) someKilled 1 = some 0 ∧
    sReg (.redux Mods.bare ⟨1, 2, 0, 2⟩) lanesV 1 = some 496 ∧ sReg (.rdlane Mods.bare ⟨1, 2, 31, 2⟩) lanesV 1 = some 31 ∧
    vReg (.wrlane Mods.bare ⟨2, 9, 5, 2⟩) (fun g => s89 (lanesV g)) 2 5 = some 0x20 := by decide +kernel

/-- Table 10-2: 65,504 + 32 and 1.0 + 2^-11 in the four modes. -/
def halves (g : Machine.Group) : Machine.Group := (g.setV 2 0xFFFFFFFF fun _ => 0x3C007BFF).setV 3 0xFFFFFFFF fun _ => 0x10005000
theorem test_fadd_f16x2 : [0, 1, 2, 3].map (fun r => vReg (.faddF16x2 (withRnd r) ⟨4, 2, 3, 0⟩) halves 4 0) =
    [some 0x3C007C00, some 0x3C007BFF, some 0x3C007BFF, some 0x3C017C00] := by decide +kernel
/-- R161: the sign of an exact zero. -/
theorem test_fsub_zero : vReg (.fsubF32 (withRnd 2) ⟨4, 2, 2, 0⟩) halves 4 0 = some 0x80000000 ∧ vReg (.fsubF32 Mods.bare ⟨4, 2, 2, 0⟩) halves 4 0 = some 0 := by
  decide +kernel
/-- R163: of zeros of opposite sign `fmax` takes +0, and a NaN hides no number. -/
theorem test_fminmax : vReg (.fmaxF32 Mods.bare ⟨4, 5, 6, 0⟩) (fun g => g.setV 5 0xFFFFFFFF fun _ => 0x80000000) 4 0 = some 0 ∧
    vReg (.fminF32 Mods.bare ⟨4, 5, 6, 0⟩) (fun g => g.setV 5 0xFFFFFFFF fun _ => 0x7FC00000) 4 0 = some 0 := by decide +kernel
/-- Table 10-4: −∞, +0 and a signalling NaN. -/
theorem test_fclass : vReg (.fclass Mods.bare ⟨4, 5, 0, 2⟩) (fun g => g.setV 5 1 fun _ => 0xFF800000) 4 0 = some 1 ∧
    vReg (.fclass Mods.bare ⟨4, 5, 0, 2⟩) id 4 0 = some 16 ∧ vReg (.fclass Mods.bare ⟨4, 5, 0, 2⟩) (fun g => g.setV 5 1 fun _ => 0x7F800001) 4 0 = some 256 := by
  decide +kernel
theorem test_fsqrt_four : vReg (.fsqrt Mods.bare ⟨4, 5, 0, 0⟩) (fun g => g.setV 5 1 fun _ => 0x40800000) 4 0 = some 0x40000000 := by decide +kernel
/-- Table 09-3: 2.5 rounds to even, and toward zero on request; −∞ saturates and a NaN gives 0. -/
theorem test_cvt : vReg (.cvtInt32 Mods.bare ⟨4, 5, 10, 2⟩) (fun g => g.setV 5 1 fun _ => 0x40600000) 4 0 = some 4 ∧
    vReg (.cvtInt32 (withRnd 1) ⟨4, 5, 10, 2⟩) (fun g => g.setV 5 1 fun _ => 0x40600000) 4 0 = some 3 ∧
    vReg (.cvtInt32 Mods.bare ⟨4, 5, 10, 2⟩) (fun g => g.setV 5 1 fun _ => 0xFF800000) 4 0 = some 0x80000000 ∧
    vReg (.cvtSmall Mods.bare ⟨4, 5, 10, 2⟩) (fun g => g.setV 5 1 fun _ => 0x7FC00000) 4 0 = some 0 := by decide +kernel
/-- The KB4 block worked out in 09_number_formats.md, and its elements 10, 11 and 15 unpacked. -/
def kb4 : List Word := [0x40400000, 0xBFC00000, 0x3E800000, 0, 0x40C00000, 0x40B00000, 0x3F800000, 0x3F400000, 0xC0000000, 0x3F000000,
  0x3E000000, 0x3EC00000, 0x40F00000, 0xC0E00000, 0x3D800000, 0x3FA00000]
theorem test_kbpack : [0, 1, 2].map (vReg (.kbpack Mods.bare ⟨4, 5, 1, 2⟩) (fun g => g.setV 5 0xFFFF fun l => kb4[l]?.getD 0) 4) =
    [some 0x21021181, some 0x22BC016C, some 0x20EF2028] := by decide +kernel
theorem test_kbunpack : [0, 8, 10, 11, 15].map (vReg (.kbunpack Mods.bare ⟨4, 5, 1, 2⟩)
    (fun g => g.setV 5 0xFFFF fun l => ([0x21021181, 0x22BC016C, 0x20EF2028] : List Word)[l]?.getD 0) 4) =
    [some 0x40400000, some 0xC0000000, some 0, some 0x3F000000, some 0x3F800000] := by decide +kernel

/-! ### The worked example of the split table (05_groups_and_issue.md) -/

def entryIs (i : Instr) (f : Machine.Group → Machine.Group) (e : Nat) (p : Entry → Bool) : Bool := ((after i f).map fun g => p (g.entry e)).getD false
/-- Step 1: `jset` at 0x40 with J = 0x100. -/
theorem test_jset : entryIs (.jset Mods.bare ⟨47⟩) (fun g => { g with entries := g.entries.set 0 { Entry.free with st := .ready, mask := 0xFFFFFFFF, pc := 0x40 } }) 0
      (fun y => y.st == .joinWait && y.mask == 0xFFFFFFFF && y.pend == 0xFFFFFFFF && y.pc == 0x100) = true ∧
    entryIs (.jset Mods.bare ⟨47⟩) (fun g => { g with entries := g.entries.set 0 { Entry.free with st := .ready, mask := 0xFFFFFFFF, pc := 0x40 } }) 1
      (fun y => y.st == .ready && y.mask == 0xFFFFFFFF && y.pc == 0x44 && y.join == 0x100 && y.parent == 0 && y.depth == 1) = true := by decide +kernel
/-- Step 2: `brc` at 0x48, taken by lanes 0 to 9. -/
def atBrc (g : Machine.Group) : Machine.Group :=
  { g with mr := g.mr.set 1 0x3FF, entries :=
    (g.entries.set 0 { Entry.free with st := .ready, mask := 0xFFFFFFFF, pc := 0x48, join := 0x100, parent := 1, depth := 1 }).set 1 { joinW with mask := 0xFFFFFFFF, pend := 0xFFFFFFFF } }
theorem test_brc : entryIs (.brc Mods.bare ⟨1, 17⟩) atBrc 0 (fun y => y.st == .ready && y.mask == 0x3FF && y.pc == 0x90) = true ∧
    entryIs (.brc Mods.bare ⟨1, 17⟩) atBrc 2 (fun y => y.st == .ready && y.mask == 0xFFFFFC00 && y.pc == 0x4C && y.join == 0x100 && y.parent == 1 && y.depth == 1) = true := by
  decide +kernel
/-- A `join` of the last lanes: the parent is READY after its join. -/
theorem test_join : entryIs (.join Mods.bare ⟨0, 0, 0, 0⟩) (fun g => { atJoin g with entries := (atJoin g).entries.set 1 { joinW with mask := 0xFFFFFFDF, pend := 0xFFFF, pc := 0x100 } }) 1
    (fun y => y.st == .ready && y.mask == 0xFFFFFFDF && y.pend == 0 && y.pc == 0x104) = true := by decide +kernel
theorem test_call_links : vReg (.call Mods.bare ⟨3, 2⟩) id 3 31 = some 4 ∧ entryIs (.call Mods.bare ⟨3, 2⟩) id 0 (fun y => y.pc == 12) = true := by decide +kernel
theorem test_retU : entryIs (.retU Mods.bare ⟨0, 9, 0, 0⟩) s89 0 (fun y => y.pc == 0x20) = true := by decide +kernel

/-! ### Counters, shapes, barriers, memory -/

theorem test_load_counts : (after (.ldB32 Mods.bare ⟨2, 0, 0⟩) (atSpad 0)).map Group.ld = some 1 := by decide +kernel
theorem test_wait_holds : entryIs (.wait Mods.bare ⟨0, 31, 127, 15, 0⟩) (fun g => { g with ld := 1 }) 0 (fun y => y.pc == 0) = true ∧
    entryIs (.wait Mods.bare ⟨1, 31, 127, 15, 0⟩) (fun g => { g with ld := 1 }) 0 (fun y => y.pc == 4) = true := by decide +kernel
/-- Table 13-1: ORIG0 is 20 bits from 432 and reads sign-extended. -/
theorem test_tfield : ((after (.tfield Mods.bare ⟨1, 8, 18, 2⟩) s89).map fun g => g.getT 1) = some (0xFFFF0 <<< 432) ∧
    sReg (.tget Mods.bare ⟨2, 1, 18, 2⟩) (fun g => g.setT 1 (0xFFFF0 <<< 432)) 2 = some 0xFFFFFFF0 := by decide +kernel
theorem test_mzero : vReg (.mzero Mods.bare ⟨0, 0, 0, 0⟩) lanesV 2 7 = some 0 := by decide +kernel
/-- R187 with n = 1: an arrival with nothing posted flips the phase at once, and ARR is 1 again. -/
theorem test_txb_flips : ((withBar 1).txbEvent (spadKey 0 4080) (.arrive 1)).1.barrier (spadKey 0 4080) = txbWord 1 1 1 0 0 := by decide +kernel
/-- R201, R203: a store lands its bytes lowest address first. -/
theorem test_store_lands : (match exec (.storePerform 0 0x80000000) (withOps [storeOp]) with
    | .next t => t.observeN 0 0x200000 4
    | _ => []) = [1, 2, 3, 4] := by decide +kernel
theorem test_host_write : (match exec (.hostWindowBWrite 0x300000 [7, 8] false) State.reset with
    | .next t => t.peek 0x300001
    | _ => 0) = 8 := by decide +kernel
theorem test_jack_clamps : (match exec (.jackWrite 9) State.reset with
    | .next t => t.jack
    | _ => 9) = 0 := by decide +kernel
/-- R303, Table 20-4: a frame with a wrong CRC is counted in CRCERR, and not applied. -/
theorem test_bad_frame : (match exec (.telemetryFrame 1) State.reset with
    | .next t => (t.power.crcerr, t.power.frameAt)
    | _ => (0, none)) = (1, none) := by decide +kernel
/-- R280, R281: `trap` 7 with a handler at 128: PC after the unit, code and argument saved. -/
theorem test_trap_enters : (match exec (.trap Mods.bare ⟨0, 7⟩) handlers with
    | .next t => (t.group? 0).map fun g => (g.trappc, g.traparg, (g.entry 0).pc, (g.entry 0).inH)
    | _ => none) = some (4, 7, 128, true) := by decide +kernel
/-- Group 0 traced with BLMIN 5; entry 0 has stalled since 0 ns on a load at word 3, which has ended; it is 9 ns. -/
def blamed : State :=
  let s := State.reset.withFetchWord 32 0x01000000
  let x : Stall := { g := 0, e := 0, pc := 0, since := 0, kind := 0, counts := false, srcs := [(7, 0xFFFFFFFF, 3)] }
  let o := { s.obs with trcEn := true, tlog := 12, blmin := 5, tbase := 0x40000, streams := [{ g := 0, last := 0, since := 0, lossy := false }], stalls := [x] }
  { s with time := 9, obs := o }
/-- Table 21-3: TYPE 4, DT 9, ENT 0, NS 9, KIND 0, PDW 3, PORD of a kernel without safe points. -/
theorem test_blame_packet : (blamed.noteStalls exec 1).peekN 0x40000 16 =
    [0x04, 0, 0x90, 0, 0, 9, 0, 0, 0, 3, 0, 0, 0xFF, 0xFF, 0xFF, 0xFF] := by decide +kernel

end Sys2Proof.Tests
end

section
/-! PROOFS. LOAD, UNLOAD, START, TRANSFER, JSIGN and FW_UPDATE (R17, R18, R40, R43, R47, R288, R360): what each command does, one lemma
per outcome, and the statement that these outcomes make up. -/
namespace Sys2Proof.Laws
open Sys2Proof.Machine Sys2Proof.Safety

/-- A step that runs the next command of a context does to the device what the command's body makes of the state after its
STARTED record (R40, R42). -/
theorem steps_of_runCmd {i : Instr} {s t : State} {c opc : Nat} {k : Cmd} {body : Cmd → State → State}
    (hexec : exec i s = deviceStep s fun s => s.runCmd c opc body) (hnext : Next s c opc k) (hbody : body k (s.beginCmd k) = t) :
    Steps i s t :=
  steps_of _ hexec rfl ((runCmd_of hnext body).trans hbody)

section Commands
variable {s : State} {c : Nat} {k : Cmd}

/-! ## LOAD (R17, R32, R367) -/

theorem load_unreadable (hnext : Next s c 3 k)
    (hread : (s.beginCmd k).readGlobal c (argOf k.bytes 8 8) (argOf k.bytes 16 8) = none) :
    Steps (.load c) s ((s.beginCmd k).failCmd k 0x01) :=
  steps_of_runCmd rfl hnext (by simp only [hread])

theorem load_refused {img : List Byte} {r : Nat} (hnext : Next s c 3 k)
    (hread : (s.beginCmd k).readGlobal c (argOf k.bytes 8 8) (argOf k.bytes 16 8) = some img)
    (hobj : (s.beginCmd k).makeResident c img (argOf k.bytes 8 8) = .error r) :
    Steps (.load c) s ((s.beginCmd k).failCmd k r) :=
  steps_of_runCmd rfl hnext (by simp only [hread, hobj])

theorem load_resident {img : List Byte} {tag : Nat} {z : State} (hnext : Next s c 3 k)
    (hread : (s.beginCmd k).readGlobal c (argOf k.bytes 8 8) (argOf k.bytes 16 8) = some img)
    (hobj : (s.beginCmd k).makeResident c img (argOf k.bytes 8 8) = .ok (tag, z)) :
    Steps (.load c) s (z.completeCmd k tag) :=
  steps_of_runCmd rfl hnext (by simp only [hread, hobj])

/-! ## UNLOAD (R18) -/

theorem unload_unknown (hnext : Next s c 4 k) (htag : (s.beginCmd k).objByTag c (argOf k.bytes 8 8) = none) :
    Steps (.unload c) s ((s.beginCmd k).failCmd k reasonUnknown) :=
  steps_of_runCmd rfl hnext (by simp only [htag])

theorem unload_draining {o : Obj} (hnext : Next s c 4 k) (htag : (s.beginCmd k).objByTag c (argOf k.bytes 8 8) = some o)
    (hdrain : o.draining = true) : Steps (.unload c) s ((s.beginCmd k).failCmd k reasonDraining) :=
  steps_of_runCmd rfl hnext (by simp only [htag, if_pos hdrain])

theorem unload_releases {o : Obj} (hnext : Next s c 4 k) (htag : (s.beginCmd k).objByTag c (argOf k.bytes 8 8) = some o)
    (hdrain : o.draining = false) : Steps (.unload c) s (((s.beginCmd k).unref c o.id).completeCmd k 0) :=
  steps_of_runCmd rfl hnext (by simp only [htag, hdrain, Bool.false_eq_true, if_false])

/-! ## START (R40, R47) -/

theorem start_refused {r : Nat} (hnext : Next s c 5 k)
    (hrcb : (s.beginCmd k).checkRcb c ((s.beginCmd k).ctx c).deflt (ofBytes (k.bytes.drop 64)) = .error r) :
    Steps (.start c) s ((s.beginCmd k).failCmd k r) :=
  steps_of_runCmd rfl hnext (by simp only [hrcb])

theorem start_adds_region {o : Obj} (hnext : Next s c 5 k)
    (hrcb : (s.beginCmd k).checkRcb c ((s.beginCmd k).ctx c).deflt (ofBytes (k.bytes.drop 64)) = .ok o) :
    Steps (.start c) s ((s.beginCmd k).addRegion
      (regionOf 0 c (argOf k.bytes 8 8) k.seq none ((s.beginCmd k).ctx c).deflt o (ofBytes (k.bytes.drop 64))) 0) :=
  steps_of_runCmd rfl hnext (by simp only [hrcb])

/-! ## TRANSFER (R288) -/

/-- The transfer that acceptance of `k` requested, where one is left. -/
def cmdXfer (s : State) (c : Nat) (k : Cmd) : Option Xfer := s.xfers.find? fun x => x.ctx == c && x.cmd == some k.seq

theorem transfer_without_xfer (hnext : Next s c 6 k) (hx : cmdXfer (s.beginCmd k) c k = none) :
    Steps (.transfer c) s ((s.beginCmd k).completeCmd k 0) := by
  unfold cmdXfer at hx
  exact steps_of_runCmd rfl hnext (by simp only [hx])

theorem transfer_pending {x : Xfer} (hnext : Next s c 6 k) (hx : cmdXfer (s.beginCmd k) c k = some x) (hact : x.active = true) :
    Steps (.transfer c) s (s.beginCmd k) := by
  unfold cmdXfer at hx
  exact steps_of_runCmd rfl hnext (by simp only [hx, if_pos hact])

theorem transfer_completes {x : Xfer} (hnext : Next s c 6 k) (hx : cmdXfer (s.beginCmd k) c k = some x) (hact : x.active = false) :
    Steps (.transfer c) s (({ s.beginCmd k with xfers := ((s.beginCmd k).xfers.map fun y =>
      if y == x then { y with cmd := none } else y).filter fun y => y.target != 0xFFFF } : State).completeCmd k x.moved) := by
  unfold cmdXfer at hx
  exact steps_of_runCmd rfl hnext (by simp only [hx, hact, Bool.false_eq_true, if_false])

/-! ## JSIGN (R43) -/

theorem jsign_signs (hnext : Next s c 9 k) :
    Steps (.jsign c) s ((s.beginCmd k).signHead.completeCmd k (s.beginCmd k).jhead) :=
  steps_of_runCmd rfl hnext rfl

end Commands

/-! ## FW_UPDATE (R360) -/

section Firmware
variable {s : State} {k : Cmd} {rest : List Cmd}

/-- The image that an FW_UPDATE names, in host memory (R360). -/
def fwImage (s : State) (k : Cmd) : List Byte := s.peekN (hostKey (argOf k.bytes 8 8)) (argOf k.bytes 16 8)

/-- The device after the STARTED record of the first FW_UPDATE that waits. -/
def fwBegun (s : State) (k : Cmd) (rest : List Cmd) : State := ({ s with fwq := rest } : State).post (some k.seq) 11 k.ctx 3 0 0

/-- An FW_UPDATE in its turn answers by its image alone: short or unsigned, below the fused minimum SVN, or staged. -/
theorem fwUpdate_of {t : State} (hq : s.fwq = k :: rest) (hr : s.resetting = false)
    (ht : (if (decide (argOf k.bytes 16 8 < 70) || !Config.firmwareSigned (fwImage s k)) = true then
        (fwBegun s k rest).post (some k.seq) 11 k.ctx 5 0x60 0
      else if argOf (fwImage s k) 4 2 < s.fwMin then (fwBegun s k rest).post (some k.seq) 11 k.ctx 5 0x61 0
      else ({ fwBegun s k rest with fwStaged := some (fwImage s k) } : State).post (some k.seq) 11 k.ctx 4 0 0) = t) :
    Steps .fwUpdate s t := by
  refine steps_of (execFwUpdate s) rfl rfl ?_
  split
  case h_1 hempty => exact absurd (hq.symm.trans hempty) (List.cons_ne_nil _ _)
  case h_2 hreset _ => exact absurd (hr.symm.trans hreset) Bool.false_ne_true
  case h_3 hfirst _ =>
    cases hq.symm.trans hfirst
    exact ht

theorem fwUpdate_short (hq : s.fwq = k :: rest) (hr : s.resetting = false) (hlen : argOf k.bytes 16 8 < 70) :
    Steps .fwUpdate s ((fwBegun s k rest).post (some k.seq) 11 k.ctx 5 0x60 0) :=
  fwUpdate_of hq hr (if_pos (by simp [hlen]))

/-- An image with room for its versions and signature (6 and 64 bytes) fails unsigned, then below the fused minimum SVN, or is staged. -/
theorem fwUpdate_whole (hq : s.fwq = k :: rest) (hr : s.resetting = false) (hlen : 70 ≤ argOf k.bytes 16 8) :
    Steps .fwUpdate s
      (if Config.firmwareSigned (fwImage s k) = false then (fwBegun s k rest).post (some k.seq) 11 k.ctx 5 0x60 0
       else if argOf (fwImage s k) 4 2 < s.fwMin then (fwBegun s k rest).post (some k.seq) 11 k.ctx 5 0x61 0
       else ({ fwBegun s k rest with fwStaged := some (fwImage s k) } : State).post (some k.seq) 11 k.ctx 4 0 0) := by
  refine fwUpdate_of hq hr ?_
  have hshort : decide (argOf k.bytes 16 8 < 70) = false := decide_eq_false (by omega)
  simp only [hshort, Bool.false_or, Bool.not_eq_true']

end Firmware

/-- Settles O45: each command's outcomes, split as its body splits them. -/
theorem objectCommands : Obligations.ObjectCommands := by
  unfold Obligations.ObjectCommands
  refine ⟨fun s c k h => ?load, fun s c k h => ?unload, fun s c k h => ?start, fun s c k h => ?transfer,
    fun s c k h => jsign_signs h, fun s k rest hq hr => ?fwUpdate⟩
  case load =>
    exact ⟨load_unreadable h, fun img hread => ⟨fun r => load_refused h hread, fun tag z => load_resident h hread⟩⟩
  case unload => exact ⟨unload_unknown h, fun o htag => ⟨unload_draining h htag, unload_releases h htag⟩⟩
  case start => exact ⟨fun r => start_refused h, fun o => start_adds_region h⟩
  case transfer => exact ⟨transfer_without_xfer h, fun x hx => ⟨transfer_pending h hx, transfer_completes h hx⟩⟩
  case fwUpdate => exact ⟨fwUpdate_short hq hr, fwUpdate_whole hq hr⟩

end Sys2Proof.Laws
end

section
/-! PROOFS. The bound of the on-die queue (R44, log 19): every instruction and device step goes through one of the gates that keep it,
and neither the schedule nor time posts a record. -/
namespace Sys2Proof.Laws
open Sys2Proof.Machine Sys2Proof.Safety

/-! ## What `exec` can do -/

/-- What has words runs as a unit. -/
theorem exec_eq_issue {i : Instr} {p : Parts} (hp : i.parts = some p) (s : State) : ∃ body, exec i s = issue i s body := by
  unfold exec
  cases i <;> cases hp
  all_goals exact ⟨_, rfl⟩

/-- What has no words is a cold reset, a fragment's unit that cannot run, or a gated step of the device. -/
theorem exec_of_no_parts {i : Instr} (hp : i.parts = none) (s : State) :
    i = .coldReset ∨ (∃ trap, exec i s = s.trapUnit trap) ∨ ∃ f, exec i s = deviceStep s f := by
  unfold exec
  cases i with
  | coldReset => exact .inl rfl
  | unassignedOpcodeUnit code => exact .inr (.inl ⟨_, rfl⟩)
  | codeFetchFault => exact .inr (.inl ⟨_, rfl⟩)
  | _ => cases hp <;> exact .inr (.inr ⟨_, rfl⟩)

/-- A cold reset empties the on-die queue. -/
theorem coldReset_queue {s t : State} (h : exec .coldReset s = .next t) : QueueOk t := by
  cases (h : execColdReset s = .next t)
  exact Nat.zero_le _

/-- Every answer of `exec` keeps the bound of the on-die queue. -/
theorem exec_queue {i : Instr} {s t : State} (hs : QueueOk s) (h : exec i s = .next t) : QueueOk t := by
  cases hp : i.parts with
  | some p =>
    obtain ⟨body, hexec⟩ := exec_eq_issue hp s
    exact issue_queue hs (hexec ▸ h)
  | none =>
    obtain rfl | ⟨trap, hexec⟩ | ⟨f, hexec⟩ := exec_of_no_parts hp s
    · exact coldReset_queue h
    · exact trapUnit_queue hs (hexec ▸ h)
    · exact deviceStep_queue hs (hexec ▸ h)

/-! ## What the schedule can do -/

theorem queueOk_of_eq {a b : State} (h : b.jqueue = a.jqueue) (ha : QueueOk a) : QueueOk b := by
  unfold QueueOk
  rw [h]
  exact ha

theorem tick_queueOk {s : State} (d : Nat) (hs : QueueOk s) : QueueOk (s.tick d) := queueOk_of_eq (tick_queue s d) hs

/-- A turn of a slot runs the chosen unit, or nothing. -/
theorem turn_queue {s t : State} {core slot : Nat} (hs : QueueOk s) (h : s.turn exec core slot = .next t) : QueueOk t := by
  have hready : QueueOk (s.meetFolds.stopBoundaries exec core slot) := queueOk_of_eq (ready_queue s exec core slot) hs
  unfold State.turn at h
  dsimp only at h
  split at h
  next p _ => exact exec_queue (queueOk_of_eq (giveSlot_queue _ _ p) hready) h
  next => cases h; exact hready

/-- A move of the schedule is a turn, a step of the device, or only the passing of time (log 1). -/
theorem move_queue {s t : State} (hs : QueueOk s) (h : s.move exec = .next t) : QueueOk t := by
  have hnoted := queueOk_of_eq (noteStalls_queue s exec ((s.agenda.head?.map Prod.fst).getD 1)) hs
  unfold State.move at h
  dsimp only at h
  split at h
  next dt core slot rest _ =>
    refine turn_queue (tick_queueOk dt (queueOk_of_eq ?_ hnoted)) h
    rfl
  next dt i rest _ =>
    split at h
    · cases h
      exact tick_queueOk dt (queueOk_of_eq rfl hnoted)
    · refine exec_queue (tick_queueOk dt (queueOk_of_eq ?_ hnoted)) h
      rfl
  next =>
    split at h
    · exact turn_queue hnoted h
    · cases h
      exact tick_queueOk 1 hnoted

/-- Settles O54: a step is a move of the schedule, whose units and device steps are all gated. -/
theorem queueBoundKept : Obligations.QueueBoundKept := by
  unfold Obligations.QueueBoundKept
  exact fun _ _ => move_queue

end Sys2Proof.Laws
end

section
/-! PROOFS. Writes of the registers of window A (R35, R36, R44, R183, R310, R317, R355, R357): one lemma per register about `writeReg`,
and the statement that these and the writes with steps of their own make up. -/
namespace Sys2Proof.Laws
open Sys2Proof.Machine Sys2Proof.Safety

/-! ## Registers without a step of their own, by offset -/

section Registers
variable (s : State) {n : Nat} (v : Nat)

theorem writeReg_pctl : s.writeReg 0x408 v = withPower (fun p =>
    { p with nomf := bitsOf v 63 44, resthold := max 1 (bitsOf v 43 28), ntenter := bitsOf v 27 19, ntexit := bitsOf v 18 10,
             tlfrac := bitsOf v 9 2 }) s := rfl

theorem writeReg_curve (hn : n < 8) :
    s.writeReg (0x440 + 8 * n) v = withPower (fun p => { p with curve := p.curve.set n (curveWord v) }) s := by
  unfold State.writeReg
  rw [if_neg (by simp; omega), if_pos (by simp; omega), show (0x440 + 8 * n - 0x440) / 8 = n by omega]
  rfl

theorem writeReg_intmap (hn : n < 65) :
    s.writeReg (0x500 + 8 * n) v = { s with intmap := s.intmap.set n ((if bitOf v 8 then 256 else 0) + bitsOf v 5 0) } := by
  unfold State.writeReg
  rw [if_neg (by simp; omega), if_neg (by simp; omega), if_pos (by simp; omega), show (0x500 + 8 * n - 0x500) / 8 = n by omega]

/-- The two registers of host window `n`: its first word at offset 0 of 16 bytes, its last at 8. -/
theorem writeReg_hostwin (hn : n < 128) {off : Nat} (hoff : (off - 0x800) / 16 = n) (hlo : 0x800 ≤ off) :
    s.writeReg off v = { s with hostwin := s.hostwin.modify n fun p => hostWindow p (off % 16 == 8) v } := by
  unfold State.writeReg
  rw [if_neg (by simp; omega), if_neg (by simp; omega), if_neg (by simp; omega), if_pos (by simp; omega), hoff]

theorem writeReg_vfloor (hn : n < 480) :
    s.writeReg (0x1000 + 8 * n) v = s.modIsland n fun i => { i with vfloor := bitsOf v 47 40 } := by
  unfold State.writeReg
  rw [if_neg (by simp; omega), if_neg (by simp; omega), if_neg (by simp; omega), if_neg (by simp), if_pos (by simp; omega),
    show (0x1000 + 8 * n - 0x1000) / 8 = n by omega]

theorem writeReg_lto (hv : bitsOf v 15 0 ≠ 0) : s.writeReg 0x5108 v = { s with lto := bitsOf v 15 0 } := by
  show (if bitsOf v 15 0 == 0 then s else { s with lto := bitsOf v 15 0 }) = _
  exact if_neg (by simpa using hv)

end Registers

/-! ## Writes with steps of their own -/

section Writes
variable {s : State} {v : Nat}

theorem jackWrite_below (hv : v < s.jack) : Steps (.jackWrite v) s s := steps_of (execJackWrite v s) rfl rfl (if_pos hv)

theorem jackWrite_drains (hv : s.jack ≤ v) :
    Steps (.jackWrite v) s (({ s with jack := min v s.jhead } : State).drainQueue s.jqueue) :=
  steps_of (execJackWrite v s) rfl rfl (if_neg (by omega))

theorem slotWrite {off : Nat} {data : List Byte} (hlo : 0x10000 ≤ off) (hhi : off + data.length ≤ 0x14000) :
    Steps (.registerWrite off data) s (s.writeSlots (off - 0x10000) data) :=
  steps_of (execRegisterWrite off data s) rfl rfl (if_pos (by simp [hlo, hhi]))

theorem trdWrite_moves (hv : v ≤ s.obs.twr) : Steps (.trdWrite v) s
    (let t : State := { s with obs := { s.obs with trd := v } }
     if 0 < t.obs.ring then t.lossPacket else t) :=
  steps_of (execTrdWrite v s) rfl rfl (if_neg (by omega))

theorem devnumWrite_first (hset : s.devnumSet = false) :
    Steps (.devnumWrite v) s { s with devnum := v % 8192, devnumSet := true } :=
  steps_of (execDevnumWrite v s) rfl rfl (if_neg (by simp [hset]))

theorem devnumWrite_again (hset : s.devnumSet = true) : Steps (.devnumWrite v) s s :=
  steps_of (execDevnumWrite v s) rfl rfl (if_pos hset)

theorem xinvWrite_queues (hsize : ¬(10 ≤ bitsOf v 55 52 ∧ bitsOf v 55 52 ≤ 14)) :
    Steps (.xinvWrite v) s { s with xinvq := s.xinvq ++ [v] } :=
  steps_of (execXinvWrite v s) rfl rfl (if_neg (by simpa using hsize))

end Writes

/-- Settles O41: each register by its offset, and each write that is a step of its own. -/
theorem hostRegisterWrites : Obligations.HostRegisterWrites := by
  unfold Obligations.HostRegisterWrites
  refine ⟨fun s v => jackWrite_below, fun s v => jackWrite_drains, fun s off data => slotWrite, fun s data hlen => ?_,
    fun s v => trdWrite_moves, fun s v => devnumWrite_first, fun s v => devnumWrite_again, fun s v => xinvWrite_queues,
    fun s n v => ⟨steps_of (execBpWrite n false v s) rfl rfl rfl, steps_of (execBpWrite n true v s) rfl rfl rfl⟩⟩
  have hwrite {off : Nat} {t : State} (hoff : off % 8 = 0) (hlt : off < 0x10000) (ht : s.writeReg off (ofBytes data) = t) :
      Steps (.registerWrite off data) s t := regWrite hlen hoff hlt ht
  refine ⟨?pctl, fun n hn => ?curve, fun n hn => ?intmap, fun n hn => ⟨?base, ?last⟩, fun n hn => ?vfloor, ?samp, ?sbuf, ?trc, ?tbase,
    fun hlto => ?lto⟩
  case pctl => exact hwrite rfl (by omega) (writeReg_pctl s _)
  case curve => exact hwrite (by omega) (by omega) (writeReg_curve s _ hn)
  case intmap => exact hwrite (by omega) (by omega) (writeReg_intmap s _ hn)
  case base =>
    refine hwrite (by omega) (by omega) ((writeReg_hostwin s _ hn (by omega) (by omega)).trans ?_)
    rw [show ((0x800 + 16 * n) % 16 == 8) = false by simp]
    rfl
  case last =>
    refine hwrite (by omega) (by omega) ((writeReg_hostwin s _ hn (by omega) (by omega)).trans ?_)
    rw [show ((0x808 + 16 * n) % 16 == 8) = true by simp]
    rfl
  case vfloor => exact hwrite (by omega) (by omega) (writeReg_vfloor s _ hn)
  case samp => exact hwrite rfl (by omega) rfl
  case sbuf => exact hwrite rfl (by omega) rfl
  case trc => exact hwrite rfl (by omega) rfl
  case tbase => exact hwrite rfl (by omega) rfl
  case lto => exact hwrite rfl (by omega) (writeReg_lto s _ hlto)

end Sys2Proof.Laws
end

section
/-! PROOFS. Reads of window A that change what they read (R38, R39, R303, R310, R355, R364): what a read of ACCEPT n answers and takes, and
the registers that clear the counts which they return. -/
namespace Sys2Proof.Laws
open Sys2Proof.Machine Sys2Proof.Safety

/-! ## ACCEPT n (R38, R39) -/

section Accept
variable {s : State} {n : Nat} {b : List Byte} {a : Accept}

/-- A read of ACCEPT n is what `readAccept` makes of the state. -/
theorem acceptRead_of {t : State} (ht : s.readAccept n = t) : Steps (.acceptRead n) s t :=
  steps_of (execAcceptRead n s) rfl rfl ht

theorem acceptRead_beyond (hn : 256 ≤ n) : Steps (.acceptRead n) s { s with reply := some (.value 0) } :=
  acceptRead_of (if_pos hn)

/-- A slot from which no command is to be taken answers as it stands: a warm reset is under way, the slot is EMPTY, or its command
was taken. -/
theorem acceptRead_stands (hn : n < 256) (hb : s.intake[n]? = some b) (ha : s.accept[n]? = some a)
    (hstands : s.resetting = true ∨ argOf b 0 1 = 0 ∨ (a.outcome ≠ 0 ∧ argOf b 6 2 = a.ticket)) :
    Steps (.acceptRead n) s { s with reply := some (.value a.word) } := by
  refine acceptRead_of ?_
  unfold State.readAccept
  simp only [hb, ha, Option.getD_some]
  rw [if_neg (by omega), if_pos (by simpa [or_assoc] using hstands)]

/-- A slot whose command is still to be taken: refused while the ring is full, and else taken. -/
theorem acceptRead_new (hn : n < 256) (hb : s.intake[n]? = some b) (ha : s.accept[n]? = some a) (hr : s.resetting = false)
    (hfilled : argOf b 0 1 ≠ 0) (hnew : ¬(a.outcome ≠ 0 ∧ argOf b 6 2 = a.ticket)) :
    Steps (.acceptRead n) s
      (if s.jfull then { s with reply := some (.value ({ a with outcome := 3 } : Accept).word) }
       else { s.takeCmd n b with reply := some (.value (((s.takeCmd n b).accept[n]?).getD a).word) }) := by
  refine acceptRead_of ?_
  unfold State.readAccept
  simp only [hb, ha, Option.getD_some]
  rw [if_neg (by omega), if_neg (by simpa [hr, hfilled] using hnew)]

end Accept

/-! ## Counts that a read clears -/

theorem pstatRead_clears (s : State) :
    Steps .pstatRead s (withPower (fun p => { p with crcerr := 0, gaps := 0 }) { s with reply := some (.value s.power.pstat) }) :=
  steps_of (execPstatRead s) rfl rfl rfl

theorem errsRead_clears (s : State) :
    Steps .errsRead s { s with reply := some (.value (s.errsCor * 2 ^ 32 + s.errsUnc)), errsCor := 0, errsUnc := 0 } :=
  steps_of (execErrsRead s) rfl rfl rfl

theorem sampRead_clears (s : State) :
    Steps .sampRead s { s with reply := some (.value s.obs.sampWord), obs := { s.obs with sampLost := 0 } } :=
  steps_of (execSampRead s) rfl rfl rfl

theorem linkRead_clears {s : State} {p : Nat} {l : Link} (hl : s.links[p]? = some l) :
    Steps (.linkRead p) s (withLink p (fun l => { l with crcerr := 0 }) { s with reply := some (.value l.word) }) := by
  refine steps_of (execLinkRead p s) rfl rfl ?_
  rw [hl]
  rfl

/-- Settles O42: ACCEPT n by what its slot holds, and the four registers whose counts a read clears. -/
theorem hostRegisterReads : Obligations.HostRegisterReads := by
  unfold Obligations.HostRegisterReads
  refine ⟨fun s n => acceptRead_beyond, fun s n b a hn hb ha hr => acceptRead_stands hn hb ha (.inl hr),
    fun s n b a hn hb ha hr => ⟨?stands, ?full, ?taken⟩, pstatRead_clears, errsRead_clears, sampRead_clears, fun s p l => linkRead_clears⟩
  case stands => exact fun hstands => acceptRead_stands hn hb ha (.inr hstands)
  case full =>
    intro hfilled hnew hfull
    simpa only [hfull, if_true] using acceptRead_new hn hb ha hr hfilled hnew
  case taken =>
    intro hfilled hnew hroom
    simpa only [hroom, Bool.false_eq_true, if_false] using acceptRead_new hn hb ha hr hfilled hnew

end Sys2Proof.Laws
end

section
/-! PROOFS. CTX_CREATE, CTX_DESTROY, the closing of a context, the resets, and the state after a cold reset (R33, R34, R37, R41, R45,
R360). -/
namespace Sys2Proof.Laws
open Sys2Proof.Machine Sys2Proof.Safety

/-! ## Contexts (R33, R34, R37) -/

section Contexts
variable {s : State} {c : Nat} {k : Cmd}

theorem ctxCreate_opens (hnext : Next s c 1 k) :
    let t := s.beginCmd k
    let d : Eff := { cores := argOf k.bytes 32 2, vregs := argOf k.bytes 34 2, spad := argOf k.bytes 36 4, priv := argOf k.bytes 40 4,
                     prio := argOf k.bytes 44 1 % 8, weight := argOf k.bytes 46 2, fdom := false, fpin := false }
    Steps (.ctxCreate c) s (({ t.modCtx c (openedWith (argOf k.bytes 8 8) (argOf k.bytes 16 8) t.nextId (bitOf (argOf k.bytes 24 1) 0) d) with
      nextId := t.nextId + 1 } : State).completeCmd k 0) := by
  refine steps_of_runCmd rfl hnext ?_
  dsimp only
  rw [defaults_eq]
  rfl

theorem ctxDestroy_begins (hk : ((s.ctx c).accepted.find? fun d => d.opc == 2) = some k) (hr : s.resetting = false) :
    Steps (.ctxDestroy c) s (((s.destroyCtx c k.seq 0x2E).beginCmd k).modCtx c fun x => { x with closing := some k }) := by
  refine steps_of (execCtxDestroy c s) rfl rfl ?_
  simp only [hr, Bool.not_false, Bool.and_true, hk]

theorem contextClose_waits (hclosable : s.closable c = false) : Steps (.contextCloseComplete c) s s :=
  steps_of (execContextCloseComplete c s) rfl rfl (if_pos (by simp [hclosable]))

theorem contextClose_frees (hclosable : s.closable c = true) (hk : (s.ctx c).closing = some k) :
    Steps (.contextCloseComplete c) s
      ((({ s.clearSpads with tlb := s.tlb.filter fun t => t.ctx != c } : State).completeCmd k 0).modCtx c fun _ => Context.free) := by
  refine steps_of (execContextCloseComplete c s) rfl rfl ?_
  unfold State.closeCtx
  rw [if_neg (by simp [hclosable]), hk]

end Contexts

/-! ## Resets (R41, R45, R360) -/

section Resets
variable {s : State}

theorem coldReset_staged {f : List Byte} (hf : s.fwStaged = some f) : exec .coldReset s = .next
    { State.boot (s.boots + 1) f (max s.fwMin (argOf f 4 2)) with agenda := s.agenda, free := s.free, nextId := s.nextId } := by
  show execColdReset s = _
  unfold execColdReset
  rw [hf]
  rfl

theorem coldReset_unstaged (hf : s.fwStaged = none) : exec .coldReset s = .next
    { State.boot (s.boots + 1) s.fwRunning s.fwMin with agenda := s.agenda, free := s.free, nextId := s.nextId } := by
  show execColdReset s = _
  unfold execColdReset
  rw [hf]
  rfl

theorem warmReset_waits (hops : s.abandon.ops ≠ []) : Steps .warmReset s s.abandon :=
  steps_of (execWarmReset s) rfl rfl (if_neg (by simpa using hops))

theorem warmReset_ends (hops : s.abandon.ops = []) : Steps .warmReset s s.abandon.endReset :=
  steps_of (execWarmReset s) rfl rfl (if_pos (by simp [hops]))

end Resets

/-! ## What a record leaves: DEVNUM (R357) -/

@[simp] theorem signHead_devnum (s : State) : s.signHead.devnum = s.devnum := rfl

@[simp] theorem signal_devnum (s : State) (c : Nat) : (s.signal c).devnum = s.devnum := by
  unfold State.signal
  generalize s.intmap[if c < 64 then c else 64]?.getD 0 = e
  dsimp only
  split
  · rfl
  · split
    · split <;> rfl
    · rfl

@[simp] theorem enter_devnum (s : State) (r : JRec) : (s.enter r).devnum = s.devnum := by
  unfold State.enter
  dsimp only
  split <;> split <;> simp

@[simp] theorem post_devnum (s : State) (ref : Option Nat) (kind c state reason arg : Nat) :
    (s.post ref kind c state reason arg).devnum = s.devnum := by
  unfold State.post
  dsimp only
  split
  · exact enter_devnum s _
  · rfl

@[simp] theorem beginCmd_devnum (s : State) (k : Cmd) : (s.beginCmd k).devnum = s.devnum := post_devnum _ _ _ _ _ _ _

@[simp] theorem failCmd_devnum (s : State) (k : Cmd) (reason : Nat) : (s.failCmd k reason).devnum = s.devnum := post_devnum _ _ _ _ _ _ _

/-- A fold keeps what each of its steps keeps. -/
theorem foldl_keeps {α β : Type} (v : State → β) {f : State → α → State} (h : ∀ s x, v (f s x) = v s) (l : List α) (s : State) :
    v (l.foldl f s) = v s := by
  induction l generalizing s with
  | nil => rfl
  | cons x l ih => exact (ih _).trans (h _ _)

theorem failReset_devnum (s : State) (ks : List Cmd) : (s.failReset ks).devnum = s.devnum := by
  unfold State.failReset
  refine foldl_keeps State.devnum (fun t k => ?_) _ s
  rw [failCmd_devnum]
  split
  · exact beginCmd_devnum t k
  · rfl

@[simp] theorem resetRegisters_devnum (s : State) : s.resetRegisters.devnum = s.devnum := rfl

@[simp] theorem clearSpads_devnum (s : State) : s.clearSpads.devnum = s.devnum := rfl

/-- DEVNUM survives a warm reset (log 60). -/
theorem endReset_devnum (s : State) : s.endReset.devnum = s.devnum := by
  unfold State.endReset State.event
  simp only [clearSpads_devnum, resetRegisters_devnum, post_devnum, failReset_devnum]

/-- After a warm reset every context is FREE (R45). -/
theorem endReset_ctxs (s : State) : s.endReset.ctxs = List.replicate 64 Context.free := rfl

/-- Settles O44: each command and reset by its outcomes, and what the end of a warm reset leaves. -/
theorem contextsAndResets : Obligations.ContextsAndResets := by
  unfold Obligations.ContextsAndResets
  refine ⟨fun s c k => ctxCreate_opens, fun s c k => ctxDestroy_begins, fun s c => contextClose_waits, fun s c k => contextClose_frees,
    fun s f => coldReset_staged, fun s => coldReset_unstaged, fun s => warmReset_waits, fun s => warmReset_ends, fun s => ?_⟩
  refine ⟨rfl, fun x hx => ?_, rfl, rfl, rfl, rfl, rfl, endReset_devnum s⟩
  rw [endReset_ctxs] at hx
  rw [List.eq_of_mem_replicate hx]
  rfl

/-! ## The state after a cold reset -/

theorem reset_ctxs_free : ∀ x ∈ State.reset.ctxs, x.st = .free := fun x hx => by
  rw [List.eq_of_mem_replicate (show x ∈ List.replicate 64 Context.free from hx)]
  rfl

theorem reset_accept_empty : ∀ a ∈ State.reset.accept, a.outcome = 0 := fun a ha => by
  rw [List.eq_of_mem_replicate (show a ∈ List.replicate 256 { seq := 0, ticket := 0, outcome := 0 } from ha)]

theorem reset_links_down : ∀ l ∈ State.reset.links, l.word = 0 := fun l hl => by
  rw [List.eq_of_mem_replicate (show l ∈ List.replicate 12 Link.reset from hl)]
  rfl

/-- Tables 20-2 and 20-3: what islands and clusters show at reset. -/
theorem reset_islands : ∀ i ∈ State.reset.power.isl, i.level = 12 ∧ i.target = 12 ∧ i.nt = false ∧ i.chg = false ∧ i.stall = 0 :=
  fun i hi => by
    rw [List.eq_of_mem_replicate (show i ∈ List.replicate 480 Island.reset from hi)]
    exact ⟨rfl, rfl, rfl, rfl, rfl⟩

theorem reset_clusters : ∀ c ∈ State.reset.power.clu, c.rate = 256 ∧ c.w = 0 ∧ c.credit = 0 := fun c hc => by
  rw [List.eq_of_mem_replicate (show c ∈ List.replicate 96 Cluster.reset from hc)]
  exact ⟨rfl, rfl, rfl⟩

/-- Settles O53: the lists hold copies of one reset value, and the registers are those of `State.boot`. -/
theorem resetState : Obligations.ResetState := by
  unfold Obligations.ResetState
  dsimp only
  refine ⟨rfl, rfl, rfl, rfl, rfl, rfl, rfl, List.length_replicate, reset_ctxs_free, rfl, rfl, rfl, rfl, reset_accept_empty,
    List.length_replicate, rfl, rfl, rfl, rfl, rfl, reset_links_down, List.length_replicate, reset_islands,
    List.length_replicate, reset_clusters, List.length_replicate, rfl, rfl, rfl, Nat.zero_le _⟩

end Sys2Proof.Laws
end

section
/-! PROOFS. Queues, tasks and fetch-work (R51, R58, R60, R62, R63, R66, R191, R241, R259 to R263, R266, R267): what `qpush`, `qpop`,
`qtry`, `tdone` and `fetchw` answer, and how what they park goes on. -/
namespace Sys2Proof.Laws
open Sys2Proof.Machine Sys2Proof.Safety

/-! ## From what a meaning answers to what its unit does -/

/-- Only what a meaning answers at its own fragment and state matters to a unit that nothing delays. -/
theorem issue_congr {s : State} {i : Instr} {g : Machine.Group} {e : Nat} {p : Parts} (hclear : Clear s i g e p)
    {body other : Frag → State → Res} (hbody : body (frag g e p) (past s g e p) = other (frag g e p) (past s g e p)) :
    issue i s body = issue i s other := by
  rw [issue_clear hclear, issue_clear hclear, hbody]

section Answers
variable {i : Instr} {body : Frag → State → Res} {P : Frag → State → Prop} {eff : Frag → State → State} {code : Nat}

theorem completes_of (hexec : ∀ s, exec i s = issue i s body) (hbody : ∀ u s, P u s → body u s = .ok (eff u s))
    (hqueue : ∀ u s, (eff u s).jqueue = s.jqueue) : Completes i P eff := fun s g e p hclear hP =>
  (hexec s).trans (issue_ok hclear (hbody _ _ hP) (hqueue (frag g e p) (past s g e p)))

theorem posts_of (hexec : ∀ s, exec i s = issue i s body) (hbody : ∀ u s, P u s → body u s = .post (eff u s)) : Posts i P eff :=
  fun s _ _ _ hclear hP hroom => (hexec s).trans (issue_post hclear (hbody _ _ hP) hroom)

theorem waits_of (hexec : ∀ s, exec i s = issue i s body) (hbody : ∀ u s, P u s → body u s = .hold false) : Waits i P :=
  fun s _ _ _ hclear hP => (hexec s).trans (issue_hold hclear (hbody _ _ hP))

theorem traps_of (hexec : ∀ s, exec i s = issue i s body) (hbody : ∀ u s, P u s → body u s = u.raise s code) :
    Traps i P fun u => Trap.at_ code u.x.pc :=
  fun s _ _ _ hclear hP hroom => (hexec s).trans (issue_trap hclear (hbody _ _ hP) hroom)

end Answers

/-! ## `qpush`, `qpop` and `qtry` (R259 to R262) -/

section Queues
variable {f : RF} {r : Region} {u : Frag} {s : State}

/-- A push that may go on names a queue of its region. -/
theorem pushes_known (h : Pushes f r u s) : (r.kind == 1 || decide (r.stages.length ≤ queueOf f u)) = false := by
  have hqueue := h.queue
  simp [h.kind, hqueue]

/-- A push that may go on has nothing to wait for. -/
theorem pushes_unheld (h : Pushes f r u s) : (u.unreleased s 0 || s.sbHolds u.g (s64 u.g f.b.toNat).toNat 64 false) = false := by
  rw [h.after, h.free]
  rfl

/-- A pop that finds no record in a region which has not drained parks, or answers 0 (R261, R262). -/
theorem noRecord_undrained (hd : s.drained r = false) (park : Bool) : u.noRecord s f r park =
    if park then .post (u.parked { s with nextId := s.nextId + 1 } (.qpop f.a.toNat (s64 u.g f.b.toNat).toNat s.nextId))
    else .ok (s.modGroup u.g.id (toS f.a 0)) := by
  unfold Frag.noRecord
  rw [if_neg (by rw [hd]; decide), ptr_eq]
  rfl

end Queues

/-- Settles O28: `qpush` by whether it enters its record at once, and the pops by whether a record is there for them. -/
theorem queueUnits : Obligations.QueueUnits := by
  unfold Obligations.QueueUnits
  intro m f
  refine ⟨fun r bs t => ?enters, fun r => ?parks, fun r => ?traps, takes_of fun _ => rfl, takes_of fun _ => rfl,
    fun r t => ?popParks, fun r t => ?tryFails⟩
  case enters =>
    refine posts_of (fun _ => rfl) fun u s ⟨h, hroom, hfirst, hread⟩ => ?_
    simp only [queueNo_eq, ptr_eq, h.region, pushes_known h, h.record, pushes_unheld h, hroom, hfirst, hread, Bool.false_eq_true, if_false,
      List.isEmpty_nil, Bool.and_self, if_true]
  case parks =>
    refine posts_of (fun _ => rfl) fun u s ⟨h, hlater⟩ => ?_
    have hlater : (r.room (queueOf f u) && (s.pushers r.id (queueOf f u)).isEmpty) = false := by
      rcases hlater with hfull | hearlier
      · rw [hfull, Bool.false_and]
      · rw [List.isEmpty_eq_false_iff.mpr hearlier, Bool.and_false]
    simp only [queueNo_eq, ptr_eq, h.region, pushes_known h, h.record, pushes_unheld h, hlater, Bool.false_eq_true, if_false]
  case traps =>
    refine traps_of (fun _ => rfl) fun u s ⟨hregion, hnone⟩ => ?_
    have hnone : (r.kind == 1 || decide (r.stages.length ≤ queueOf f u)) = true := by simpa using hnone
    simp only [queueNo_eq, hregion, hnone, if_true]
  case popParks =>
    exact posts_of (fun _ => rfl) fun u s ⟨h, hempty, hd⟩ => (pop_empty h hempty).trans (noRecord_undrained hd true)
  case tryFails =>
    exact completes_of (fun _ => rfl) (fun u s ⟨h, hempty, hd⟩ => (pop_empty h hempty).trans (noRecord_undrained hd false))
      fun _ _ => rfl

/-! ## `tdone` (R63, R263, R266) -/

section Ending
variable {m : Mods} {f : RF} {r : Region} {k : Task} {w : Tgt}

/-- A `tdone` that may end its task is alone in a graph or pipeline. -/
theorem ends_allowed {u : Frag} {s : State} (h : Ends r k u s) : (r.kind == 1 || u.g.fragments != [u.e]) = false := by
  simp [h.kind, h.alone]

/-- What a `tdone` answers once it has decremented its successor counter, by the old value (R63, R263). -/
def afterCount (r : Region) (k : Task) (w : Tgt) (u : Frag) (s : State) : Res :=
  let c := counted k w u s
  if c.1 = 0 then .post (taskEnded u (c.2.event 0x84 u.g.ctx 0x33 k.succ))
  else if c.1 = 1 then u.release1 c.2 r k.succ
  else .post (taskEnded u c.2)

/-- A `tdone` that may end its task and reaches its counter answers by the counter alone. -/
theorem exec_tdone_counted {s : State} {g : Machine.Group} {e : Nat} {p : Parts} (hclear : Clear s (.tdone m f) g e p)
    (hends : Ends r k (frag g e p) (past s g e p)) (hcounter : Counter k w (frag g e p) (past s g e p)) :
    exec (.tdone m f) s = issue (.tdone m f) s (afterCount r k w) := by
  refine issue_congr hclear ?_
  have hnamed : (k.succ == 0) = false := by simpa using hcounter.names
  simp only [hends.region, hends.task, ends_allowed hends, hends.after, hnamed, hcounter.target, hcounter.reached, Bool.false_eq_true,
    if_false, beq_iff_eq]
  rfl

/-- The record of a counter that has reached zero is released once nothing earlier holds it (R191, R263). -/
theorem release1_free {u : Frag} {s : State} (hfree : recordFree k w u s) :
    u.release1 (counted k w u s).2 r k.succ = .post (recordReleased r k w u s) := by
  unfold Frag.release1 recordReleased
  dsimp only
  cases hnames : (counted k w u s).2.counterNames u.g k.succ with
  | none => rfl
  | some n =>
    obtain ⟨d, p, z⟩ := n
    simp only [hfree d p z hnames, Bool.false_eq_true, if_false]
    obtain ⟨record, t⟩ := z.released u.g r d p
    cases record with
    | none => rfl
    | some q => dsimp only; split <;> rfl

/-- While earlier copies hold the record, the `tdone` waits. -/
theorem release1_held {u : Frag} {s z : State} {d p : Nat} (hnames : (counted k w u s).2.counterNames u.g k.succ = some (d, p, z))
    (hheld : z.sbHolds u.g p 64 false = true) : u.release1 (counted k w u s).2 r k.succ = .hold false := by
  unfold Frag.release1
  simp only [hnames, hheld, if_true]

theorem afterCount_zero {u : Frag} {s : State} (h : (counted k w u s).1 = 0) :
    afterCount r k w u s = .post (taskEnded u ((counted k w u s).2.event 0x84 u.g.ctx 0x33 k.succ)) := if_pos h

theorem afterCount_one {u : Frag} {s : State} (h : (counted k w u s).1 = 1) :
    afterCount r k w u s = u.release1 (counted k w u s).2 r k.succ :=
  (if_neg (by omega)).trans (if_pos h)

theorem afterCount_more {u : Frag} {s : State} (h : 1 < (counted k w u s).1) :
    afterCount r k w u s = .post (taskEnded u (counted k w u s).2) :=
  (if_neg (by omega)).trans (if_neg (by omega))

/-- A `tdone` that reaches its counter posts what follows from the old value. -/
theorem tdone_posts {P : Frag → State → Prop} {eff : Frag → State → State}
    (h : ∀ u s, P u s → Ends r k u s ∧ Counter k w u s ∧ afterCount r k w u s = .post (eff u s)) : Posts (.tdone m f) P eff := by
  intro s g e p hclear hP hroom
  obtain ⟨hends, hcounter, hanswer⟩ := h _ _ hP
  exact (exec_tdone_counted hclear hends hcounter).trans (issue_post hclear hanswer hroom)

end Ending

/-- Settles O29: a `tdone` without a task, without a successor, and by what it finds in its successor counter. -/
theorem taskEnds : Obligations.TaskEnds := by
  unfold Obligations.TaskEnds
  intro m f r k
  refine ⟨?traps, ?last, fun w => ⟨?more, ?zero, ?releases, fun d p z => ?held⟩⟩
  case traps =>
    refine traps_of (fun _ => rfl) fun u s ⟨hregion, hnone⟩ => ?_
    rw [hregion]
    cases htask : u.g.task with
    | none => rfl
    | some t => exact if_pos (by simpa [htask] using hnone)
  case last =>
    refine posts_of (fun _ => rfl) fun u s ⟨hends, hsucc⟩ => ?_
    simp only [hends.region, hends.task, ends_allowed hends, hends.after, hsucc, Bool.false_eq_true, if_false, beq_self_eq_true, if_true]
  case more => exact tdone_posts fun u s ⟨hends, hcounter, hold⟩ => ⟨hends, hcounter, afterCount_more hold⟩
  case zero => exact tdone_posts fun u s ⟨hends, hcounter, hold⟩ => ⟨hends, hcounter, afterCount_zero hold⟩
  case releases =>
    exact tdone_posts fun u s ⟨hends, hcounter, hold, hfree⟩ =>
      ⟨hends, hcounter, (afterCount_one hold).trans (release1_free hfree)⟩
  case held =>
    exact fun s g e p hclear ⟨hends, hcounter, hold, hnames, hheld⟩ =>
      (exec_tdone_counted hclear hends hcounter).trans
        (issue_hold hclear ((afterCount_one hold).trans (release1_held hnames hheld)))

/-! ## Parked pushes and pops, and mailboxes (R58, R62) -/

section Parked
variable {s : State} {r q : Nat} {x : Region} {g : Machine.Group} {e : Nat}

/-- The oldest parked `qpop` that nothing delays takes the sound record at the head and goes to its entry (R62, R261). -/
theorem completePop_takes {reg p o coff : Nat} {t : Tgt} {bs : List Byte} (holdest : OldestPop s x q g e (.qpop reg p o))
    (hhead : (x.queue q).head? = some bs) (hlive : s.isShed (s.prioOf g) = false) (hfree : s.sbHolds g p 64 true = false)
    (htgt : s.popTgt g p = .ok t) (hdone : s.pendingAt g.core s.nextId t 64 = false) (hsound : s.headBad x.id q = false)
    (hentry : s.taskEntry g bs = some coff) :
    s.completePop x q = (s.takeRecord g q reg t bs).modGroup g.id fun h =>
      h.wake e fun y => { y with pc := BitVec.ofNat 32 coff, seenB := false, seenT := false, seenO := false } := by
  obtain ⟨n, hfirst, hgroup, hpark⟩ := holdest
  obtain ⟨rest, hqueue⟩ := List.head?_eq_some_iff.mp hhead
  unfold State.completePop
  simp only [hfirst, hqueue, hgroup, hpark, hlive, hfree, htgt, hdone, hsound, hentry, Bool.or_self, Bool.false_eq_true, if_false]

theorem qpopComplete_of {t : State} (hregion : s.region? r = some x) (hruns : x.rstate = 1) (ht : s.completePop x q = t) :
    Steps (.qpopComplete r q) s t := by
  refine steps_of (execQpopComplete r q s) rfl rfl ?_
  rw [hregion]
  exact (if_pos (by simp [hruns])).trans ht

/-- STATUS is written as a release, after the coordinates that an outcome of 1 gives (R58). -/
theorem mailbox_written {b : Mailbox} {rest : List Mailbox} {t : State} (hfirst : s.mailboxes = b :: rest)
    (ht : (if b.status = 1 then
        ({ s with mailboxes := rest } : State).mailBytes b.core b.key (bytesOf 4 b.x ++ bytesOf 4 b.y ++ bytesOf 4 b.z)
      else { s with mailboxes := rest }) = t) :
    Steps .fetchwMailboxComplete s ((t.release b.core 2).mailBytes b.core (b.key + 12) (bytesOf 4 b.status)) := by
  refine steps_of (execFetchwMailboxComplete s) rfl rfl ?_
  simp only [hfirst, beq_iff_eq, ht]

end Parked

/-- Settles O30: a completed push by what parked it, a completed pop, and a mailbox by its outcome. -/
theorem queueSteps : Obligations.QueueSteps := by
  unfold Obligations.QueueSteps
  refine ⟨?enters, ?faults, ?ends, ?pops, ?fails, ?gives⟩
  case enters =>
    intro s r q x g e p o bs t hregion hruns hroom holdest hfree hread
    exact qpushComplete_eq hregion hruns hroom ((completePush_qpush holdest hfree).trans (by rw [hread]))
  case faults =>
    intro s r q x g e p o c hregion hruns hroom holdest hfree hread
    exact qpushComplete_eq hregion hruns hroom ((completePush_qpush holdest hfree).trans (by rw [hread]))
  case ends =>
    intro s r q x g e o bs hregion hruns hroom holdest
    exact qpushComplete_eq hregion hruns hroom (completePush_tdone holdest)
  case pops =>
    intro s r q x g e reg p o t bs coff hregion hruns holdest hhead hlive hfree htgt hdone hsound hentry
    exact qpopComplete_of hregion hruns (completePop_takes holdest hhead hlive hfree htgt hdone hsound hentry)
  case fails => exact fun s b rest hfirst hstatus => mailbox_written hfirst (if_neg hstatus)
  case gives =>
    intro s b rest hfirst hstatus
    have h := mailbox_written hfirst (if_pos hstatus)
    rwa [hstatus] at h

/-! ## `fetchw` (R51, R58, R267) -/

section Withdrawal
variable {m : Mods} {f : MF} {r : Region} {k : Nat}

/-- A `fetchw` that reaches a mailbox in a region is a withdrawal into it. -/
theorem exec_fetchw_reached {s : State} {g : Machine.Group} {e : Nat} {p : Parts} (hclear : Clear s (.fetchw m f) g e p)
    (hmailbox : (past s g e p).mailboxKey (frag g e p).g (fetchPtr f (frag g e p)) = .ok k)
    (hregion : (past s g e p).region? (frag g e p).g.region = some r) :
    exec (.fetchw m f) s = issue (.fetchw m f) s fun u s => u.withdraw s (fetchPtr f u) r k := by
  refine issue_congr hclear ?_
  simp only [fetchPtr_eq, hmailbox, hregion]

/-- A region gives workgroups where it is a grid that allows fetch-work and has no cluster sets (R51). -/
theorem withdraw_outside (h : ¬(r.kind = 1 ∧ r.fetch = true ∧ r.cset ≤ 1)) : r.withdraw = (3, 0) := by
  refine if_pos ?_
  simp only [Bool.or_eq_true, bne_iff_ne, Bool.not_eq_true', decide_eq_true_eq]
  by_contra hgives
  simp only [not_or, Decidable.not_not, Bool.not_eq_false, Nat.not_lt] at hgives
  exact h ⟨hgives.1.1, hgives.1.2, hgives.2⟩

theorem withdraw_begun (h : r.kind = 1 ∧ r.fetch = true ∧ r.cset ≤ 1) (hall : r.count ≤ r.cursor) : r.withdraw = (2, 0) := by
  obtain ⟨hkind, hfetch, hset⟩ := h
  unfold Region.withdraw
  rw [if_neg (by simp [hkind, hfetch, hset]), if_pos hall]

theorem withdraw_next (h : r.kind = 1 ∧ r.fetch = true ∧ r.cset ≤ 1) (hsome : r.cursor < r.count) : r.withdraw = (1, r.cursor) := by
  obtain ⟨hkind, hfetch, hset⟩ := h
  unfold Region.withdraw
  rw [if_neg (by simp [hkind, hfetch, hset]), if_neg (by omega)]

/-- A `fetchw` that nothing delays posts what its withdrawal gives. -/
theorem fetchw_posts {P : Frag → State → Prop} {eff : Frag → State → State}
    (h : ∀ u s, P u s → Fetches f r k u s ∧ s.withdrawn u r k r.withdraw = eff u s) : Posts (.fetchw m f) P eff := by
  intro s g e p hclear hP hroom
  obtain ⟨hfetches, heff⟩ := h _ _ hP
  exact (exec_fetchw_reached hclear hfetches.mailbox hfetches.region).trans
    (issue_post hclear ((fetch_ready hfetches).trans (congrArg Res.post heff)) hroom)

end Withdrawal

/-- Settles O31: `fetchw` while its mailbox is held, and by what its region gives. -/
theorem workWithdrawal : Obligations.WorkWithdrawal := by
  unfold Obligations.WorkWithdrawal
  intro m f r k gives
  refine ⟨?waits, ?outside, ?begun, ?next⟩
  case waits =>
    exact fun s g e p hclear ⟨hmailbox, hregion, hheld⟩ =>
      (exec_fetchw_reached hclear hmailbox hregion).trans (issue_hold hclear (if_pos hheld))
  case outside =>
    exact fetchw_posts fun u s ⟨hfetches, hnone⟩ =>
      ⟨hfetches, by rw [withdraw_outside hnone]; exact withdrawn_none s u r k 3 (by decide)⟩
  case begun =>
    exact fetchw_posts fun u s ⟨hfetches, hgives, hall⟩ =>
      ⟨hfetches, by rw [withdraw_begun hgives hall]; exact withdrawn_none s u r k 2 (by decide)⟩
  case next =>
    exact fetchw_posts fun u s ⟨hfetches, hgives, hsome⟩ => ⟨hfetches, by rw [withdraw_next hgives hsome]; rfl⟩

end Sys2Proof.Laws
end

section
/-! PROOFS. Placing workgroups, starting pipelines, seeding, the Dresser and the deadlock window (R51 to R56, R61, R62, R65 to R68): one
lemma per outcome, and the statement that these outcomes make up. -/
namespace Sys2Proof.Laws
open Sys2Proof.Machine Sys2Proof.Safety

/-! ## Grids (R51 to R56) -/

section Grids
variable {s : State} {x : Region} {cores : List Nat}

/-- No first workgroup of the grid could ever fit (R56). -/
theorem placeGrid_never (hleft : x.cursor < x.count) (hfirst : x.begun = false) (hnever : s.neverFits x = true) :
    s.placeGrid x cores = s.failRegion x.id 0x30 :=
  (if_neg (by omega)).trans (if_pos (by simp [hfirst, hnever]))

/-- NO_FIT is out of the question once work of the grid has begun. -/
theorem mayFit (h : x.begun = true ∨ s.neverFits x = false) : (!x.begun && s.neverFits x) = false := by
  rcases h with hbegun | hfits
  · rw [hbegun]; rfl
  · rw [hfits, Bool.and_false]

theorem placeGrid_noVersion (hleft : x.cursor < x.count) (hfits : x.begun = true ∨ s.neverFits x = false)
    (hver : s.startVersion x.ctx x.obj x.kidx x.eff x.debug = none) : s.placeGrid x cores = s.failRegion x.id 0x04 := by
  unfold State.placeGrid
  rw [if_neg (by omega), mayFit hfits, if_neg Bool.false_ne_true, hver]

/-- The next workgroups stand on cores that fit them, one of a set on a core with the fewest groups (R52 to R54). -/
theorem placeGrid_places {v off : Nat} (hleft : x.cursor < x.count) (hfits : x.begun = true ∨ s.neverFits x = false)
    (hver : s.startVersion x.ctx x.obj x.kidx x.eff x.debug = some v) (hspad : s.spadPick cores (s.spadNeed x x.kidx) = some off)
    (hroom : s.gridFits x cores = true)
    (hcore : 1 < x.cset ∨ (s.fewest (cores.headD 0) fun c => s.gridFits x [c]) = true) :
    s.placeGrid x cores = (cores.zipIdx.foldl
      (fun (t : State) p => t.placeOne x v (x.cursor + p.2) p.2 p.1 off (s.spadNeed x x.kidx))
      ((s.openRegion x).modRegion x.id fun y => { y with cursor := y.cursor + y.cset })).unkeep x.id := by
  have hadmits : (s.gridFits x cores && (decide (1 < x.cset) || s.fewest (cores.headD 0) fun c => s.gridFits x [c])) = true := by
    simpa [hroom] using hcore
  unfold State.placeGrid
  rw [if_neg (by omega), mayFit hfits, if_neg Bool.false_ne_true, hver]
  simp only [hspad, hadmits, Bool.not_true, Bool.false_eq_true, if_false]

end Grids

/-! ## Pools, and the start of pipelines (R61, R62, R68) -/

section Pipelines
variable {s : State} {r : Nat} {x : Region} {cores : List Nat}

/-- A running pool whose ready queue is not empty receives a core (R68). -/
theorem poolPlace_grows {c : Nat} {k : Stage} (hregion : s.region? r = some x) (hturn : s.turnOf x = true) (hkind : x.kind = 3)
    (hstages : x.stages = [k]) (hruns : x.rstate = 1) (hready : x.queue 0 ≠ []) (hmax : x.cores.length < k.maxc)
    (hroom : s.coreFits x 0 c = true) (hcore : (s.fewest c fun d => s.coreFits x 0 d) = true) :
    Steps (.workgroupPlace r [c]) s ((s.startStage x.id 0 c).unkeep x.id) := by
  refine steps_of (execWorkgroupPlace r [c] s) rfl rfl ?_
  simp only [hregion, hturn, hkind, Bool.not_true, Bool.false_eq_true, if_false]
  unfold State.growPool
  simp [hstages, hruns, hready, hmax, hroom, hcore]

/-- A pipeline or pool in its turn starts on the cores given, unless it fails (R55, R56, R61). -/
theorem pipelineStart_of {t : State} (hregion : s.region? r = some x) (hkind : x.kind ≠ 1) (hnew : x.rstate = 0)
    (hturn : s.turnOf x = true)
    (ht : (if s.neverFits x then s.failRegion r 0x30
      else if x.stages.any fun t => (s.startVersion x.ctx x.obj t.kidx x.eff x.debug).isNone then s.failRegion r 0x04
      else if x.kind == 3 && !(s.fewest (cores.headD 0) fun c => s.coreFits x 0 c) then s
      else (s.startPipe x cores).getD s) = t) :
    Steps (.pipelineStart r cores) s t := by
  refine steps_of (execPipelineStart r cores s) rfl rfl ?_
  rw [hregion]
  exact (if_neg (by simp [hkind, hnew, hturn])).trans ht

end Pipelines

/-! ## Seeding (R62) -/

section Seeding
variable {s : State} {r : Nat} {x : Region} (hregion : s.region? r = some x) (hkind : x.kind ≠ 1) (hruns : x.rstate = 1)
  (hleft : x.seeded < x.seedN) (hroom : x.room 0 = true)
include hkind hruns hleft hroom

/-- A running pipeline with a seed left and room in its first queue is ready for it. -/
theorem seed_ready : (x.kind == 1 || x.rstate != 1 || decide (x.seedN ≤ x.seeded) || !x.room 0) = false := by
  simp [hkind, hruns, hleft, hroom]

include hregion

theorem seedPush_unreadable (hrecord : s.seedRecord x = none) : Steps (.seedPush r) s (s.failRegion r 0x45) := by
  refine steps_of (execSeedPush r s) rfl rfl ?_
  simp only [hregion, seed_ready hkind hruns hleft hroom, hrecord, Bool.false_eq_true, if_false]

theorem seedPush_enters {bs : List Byte} (hrecord : s.seedRecord x = some bs) : Steps (.seedPush r) s (s.modRegion r fun y =>
    { y with queues := y.queues.modify 0 fun l => l ++ [bs], seeded := y.seeded + 1 }) := by
  refine steps_of (execSeedPush r s) rfl rfl ?_
  simp only [hregion, seed_ready hkind hruns hleft hroom, hrecord, Bool.false_eq_true, if_false]

end Seeding

/-! ## The Dresser (R65, R66) -/

section Dresser
variable {s : State} {r : Nat} {x : Region} {core rcv : Nat}

/-- A core that the rule admits is the one taken (log 30). -/
theorem chosenCore_admitted {ok : Nat → Bool} (h : ok core = true) : chosenCore core ok = some core := if_pos h

theorem dress_moves {d : Nat} (hrcv : s.receiver x = some rcv) (hdonor : s.donor x rcv = some d)
    (hheld : x.cores.contains (core, d) = true) :
    s.dress x core = (s.modRegion x.id fun y => { y with moves := y.moves ++ [{
      core := core, donor := d, receiver := rcv,
      groups := (s.groups.filter fun g => g.region == x.id && g.core == core && g.stage == d).map Group.id }] }).vacate x.id d core := by
  have hchosen : chosenCore core (fun c => x.cores.contains (c, d)) = some core := chosenCore_admitted hheld
  unfold State.dress
  simp only [hrcv, hdonor, hchosen]

theorem dress_grants (hrcv : s.receiver x = some rcv) (hdonor : s.donor x rcv = none) (hmax : x.cores.length < x.eff.cores)
    (hroom : s.coreFits x rcv core = true) : s.dress x core = s.startStage x.id rcv core := by
  have hchosen : chosenCore core (fun c => decide (x.cores.length < x.eff.cores) && s.coreFits x rcv c) = some core :=
    chosenCore_admitted (by simp [hmax, hroom])
  unfold State.dress
  simp only [hrcv, hdonor, hchosen]

/-- A sample that is due is taken once, at this moment (R65). -/
theorem dresserSample_due {t : State} (hregion : s.region? r = some x) (hkind : x.kind = 2) (hruns : x.rstate = 1)
    (hopen : (s.ctx x.ctx).st = .open_) (hlive : s.isShed x.eff.prio = false) (hafter : x.startedAt < s.time)
    (hdue : (s.time - x.startedAt) % (1000 * x.rivl) = 0) (hfirst : x.dressedAt ≠ some s.time)
    (ht : (s.modRegion r fun y => { y with dressedAt := some s.time }).dress x core = t) : Steps (.dresserSample r core) s t := by
  refine steps_of (execDresserSample r core s) rfl rfl ?_
  rw [hregion]
  exact (if_pos (by simp [hkind, hruns, hopen, hlive, hafter, hdue, hfirst])).trans ht

theorem dresserSample_again (hregion : s.region? r = some x) (hdone : x.dressedAt = some s.time) : Steps (.dresserSample r core) s s := by
  refine steps_of (execDresserSample r core s) rfl rfl ?_
  rw [hregion]
  exact if_neg (by simp [hdone])

end Dresser

/-! ## The deadlock window (R67) -/

section Window
variable {s : State} {r : Region} {t : Nat}

theorem checkWindow_reports (hblocked : r.blockedAt = some t) (hlive : s.isShed r.eff.prio = false) (hnew : r.warned = false)
    (hone : t + 1000000 * r.dlwin ≤ s.time) :
    s.checkWindow r = (s.event 0x81 r.ctx 0 r.rcb).modRegion r.id fun x => { x with warned := true } := by
  unfold State.checkWindow
  rw [hblocked]
  exact (if_neg (by simp [hlive])).trans (if_pos (by simp [hnew, hone]))

theorem checkWindow_fails (hblocked : r.blockedAt = some t) (hlive : s.isShed r.eff.prio = false) (hwarned : r.warned = true)
    (htwo : t + 2000000 * r.dlwin ≤ s.time) : s.checkWindow r = s.failRegion r.id 0x31 := by
  unfold State.checkWindow
  rw [hblocked]
  exact (if_neg (by simp [hlive])).trans ((if_neg (by simp [hwarned])).trans (if_pos (by simp [hwarned, htwo])))

theorem checkWindow_early (hblocked : r.blockedAt = some t) (hearly : s.time < t + 1000000 * r.dlwin) : s.checkWindow r = s := by
  have hone : ¬t + 1000000 * r.dlwin ≤ s.time := by omega
  have htwo : ¬t + 2000000 * r.dlwin ≤ s.time := by omega
  unfold State.checkWindow
  rw [hblocked]
  simp only [hone, htwo, decide_false, Bool.and_false, Bool.false_eq_true, if_false, ite_self]

end Window

/-- Settles O47: each step by its outcomes, in the order in which the step checks them. -/
theorem workPlacement : Obligations.WorkPlacement := by
  unfold Obligations.WorkPlacement
  refine ⟨?grid, fun s r x c k => poolPlace_grows, ?pipeline, ?seed, ?dresser, fun s r x core => dresserSample_again,
    fun s => steps_of (execDeadlockWindowExpiry s) rfl rfl rfl,
    fun s r t hblocked hlive => ⟨checkWindow_reports hblocked hlive, checkWindow_fails hblocked hlive, checkWindow_early hblocked⟩⟩
  case grid =>
    intro s r x cores hregion hturn hkind hleft
    refine ⟨fun hfirst hnever => ?never, fun hfits => ⟨fun hver => ?noVersion, fun v off hver hspad hroom hcore => ?places⟩⟩
    case never => exact place_of cores hregion hturn hkind (placeGrid_never hleft hfirst hnever)
    case noVersion => exact place_of cores hregion hturn hkind (placeGrid_noVersion hleft hfits hver)
    case places => exact place_of cores hregion hturn hkind (placeGrid_places hleft hfits hver hspad hroom hcore)
  case pipeline =>
    intro s r x cores hregion hkind hnew hturn
    refine ⟨fun hnever => ?never, fun hfits hver => ?noVersion, fun hfits hver hcore t hstarts => ?starts⟩
    case never => exact pipelineStart_of hregion hkind hnew hturn (if_pos hnever)
    case noVersion =>
      refine pipelineStart_of hregion hkind hnew hturn ?_
      rw [hfits, if_neg Bool.false_ne_true, if_pos hver]
    case starts =>
      have hadmits : (x.kind == 3 && !(s.fewest (cores.headD 0) fun c => s.coreFits x 0 c)) = false := by
        rcases hcore with hkind | hcore
        · simp [hkind]
        · rw [hcore, Bool.not_true, Bool.and_false]
      refine pipelineStart_of hregion hkind hnew hturn ?_
      simp only [hfits, hver, hadmits, hstarts, Bool.false_eq_true, if_false, Option.getD_some]
  case seed =>
    intro s r x hregion hkind hruns hleft hroom
    exact ⟨seedPush_unreadable hregion hkind hruns hleft hroom, fun bs => seedPush_enters hregion hkind hruns hleft hroom⟩
  case dresser =>
    intro s r x core rcv hregion hkind hruns hopen hlive hafter hdue hfirst t hrcv
    refine ⟨fun d hdonor hheld => ?moves, fun hdonor hmax hroom => ?grants⟩
    case moves => exact dresserSample_due hregion hkind hruns hopen hlive hafter hdue hfirst (dress_moves hrcv hdonor hheld)
    case grants => exact dresserSample_due hregion hkind hruns hopen hlive hafter hdue hfirst (dress_grants hrcv hdonor hmax hroom)

end Sys2Proof.Laws
end

section
/-! PROOFS. Branches that may split, and splits that take too many entries (R78, R82, R120, R123 to R127): what a split answers by the
entries it takes, what each branch answers with it, and when a `brc` folds. -/
namespace Sys2Proof.Laws
open Sys2Proof.Machine Sys2Proof.Safety

/-! ## What a split answers by the entries it takes (R78, R120) -/

section Splits
variable {u : Frag} {s : State}

/-- A split that has the entries it takes leaves what `branched` says. -/
theorem branch_of_room {ps : Frag → State → List BPath} (hroom : splitInto u s (ps u s) ≠ none) :
    u.branch s (ps u s) = .ok (branched ps id u s) := by
  obtain ⟨g, hsplit⟩ := Option.ne_none_iff_exists'.mp hroom
  rw [branch_eq, branched, hsplit]
  exact congrArg Res.ok (modGroup_id _ u.g.id).symm

theorem branch_of_overflow {ps : List BPath} (hfull : splitInto u s ps = none) : u.branch s ps = u.raise s trapSplit := by
  rw [branch_eq, hfull]

end Splits

/-- The state once one free value has been used (log 6, log 23). -/
def afterChoice (s : State) : State := { s with free := s.free + 1 }

/-- A split looks at no more of the state than its group. -/
theorem splitInto_afterChoice (u : Frag) (s : State) (ps : List BPath) : splitInto u (afterChoice s) ps = splitInto u s ps := rfl

theorem afterChoice_queue (s : State) : (afterChoice s).jqueue = s.jqueue := rfl

/-- A `jset` of a group without a free entry has none to give. -/
theorem jset_full {s : State} {i : Instr} {g : Machine.Group} {e : Nat} {p : Parts} (hclear : Clear s i g e p) (hfull : 72 < g.used + 1)
    (join next : Word) : (((past s g e p).group? g.id).bind fun h => h.jset e join next) = none := by
  rw [past_group hclear, Option.bind_some, Group.jset, past_freeId, (freeId_none g).mpr hfull]

/-! ## Branches whose meaning is a split -/

/-- What a branch over paths answers: the split, after which `after` acts on the group. -/
def SplitsOver (i : Instr) (ps : Frag → State → List BPath) (after : Machine.Group → Machine.Group) : Prop :=
  ∀ s, exec i s = issue i s fun u t => (u.branch t (ps u t)).after fun t => t.modGroup u.g.id after

theorem after_modGroup_id (r : Res) (g : Nat) : r.after (fun s => s.modGroup g id) = r := by
  cases r with
  | ok s => exact congrArg Res.ok (modGroup_id s g)
  | post | trap | hold => rfl

section Branches
variable {i : Instr} {ps : Frag → State → List BPath} {after : Machine.Group → Machine.Group}

theorem splitsOver_id (hexec : ∀ s, exec i s = issue i s fun u t => u.branch t (ps u t)) : SplitsOver i ps id := by
  intro s
  simp only [hexec, after_modGroup_id]

theorem branches_of_splitsOver (hi : SplitsOver i ps after) : Branches i ps after := by
  intro s g e p hclear hroom
  rw [hi s]
  exact issue_ok hclear (branch_ok hclear _ hroom after) (branched_queue _ after _ (past s g e p))

theorem traps_of_splitsOver (hi : SplitsOver i ps after) :
    Traps i (fun u s => 72 < u.g.used + created (ps u s)) fun u => Trap.at_ trapSplit u.x.pc := by
  intro s g e p hclear hfull hqueue
  rw [hi s]
  exact issue_trap hclear (by rw [branch_trap hclear _ hfull]; rfl) hqueue

end Branches

theorem brm_splitsOver (m : Mods) (f : RF) (ts : List Target) : SplitsOver (.brm m f ts) (fun u _ => brmPaths u ts 1 u.x.mask) id :=
  splitsOver_id fun _ => rfl

theorem jmpi_splitsOver (m : Mods) (f : RF) : SplitsOver (.jmpi m f) (indirectPaths f) id := splitsOver_id fun _ => rfl

theorem ret_splitsOver (m : Mods) (f : RF) : SplitsOver (.ret m f) (indirectPaths f) Group.popLink := fun _ => rfl

/-! ## `brc`, which may fold (R82, R123, log 23) -/

section Folding
variable {m : Mods} {f : IF} {s : State} {g : Machine.Group} {e : Nat} {p : Parts}

/-- The fold of the model is that of the statements: forward the lanes that go on run first, backward those of the target. -/
theorem folded_eq (f : IF) (u : Frag) (s : State) :
    u.branchTrace (u.folded s (u.x.mask &&& u.g.mreg u.x.mask f.a.toNat) (u.target f.imm)) (u.brcPaths f) = foldedInto f u s := by
  unfold Frag.folded foldedInto
  by_cases hforward : u.next.toNat ≤ (u.target f.imm).toNat
  · simp only [hforward, if_true]; rfl
  · simp only [hforward, if_false]; rfl

theorem foldedInto_queue (f : IF) (u : Frag) (s : State) : (foldedInto f u s).jqueue = s.jqueue :=
  (branchTrace_onlyObs u _ _).queue

/-- A `brc` that may not be folded is a split. -/
theorem exec_brc_unfoldable (hclear : Clear s (.brc m f) g e p) (hfold : mayFold f (frag g e p) (past s g e p) = false) :
    exec (.brc m f) s = issue (.brc m f) s fun u t => u.branch t (brcPaths f u) :=
  issue_congr hclear (if_neg (Bool.eq_false_iff.mp hfold))

/-- What a `brc` that may be folded answers: a free choice folds it, and otherwise it splits. -/
def foldOrSplit (f : IF) (u : Frag) (s : State) : Res :=
  if Config.freeBit s.free then .ok (foldedInto f u (afterChoice s)) else u.branch (afterChoice s) (brcPaths f u)

theorem exec_brc_foldable (hclear : Clear s (.brc m f) g e p) (hfold : mayFold f (frag g e p) (past s g e p) = true) :
    exec (.brc m f) s = issue (.brc m f) s (foldOrSplit f) := by
  refine issue_congr hclear ((if_pos hfold).trans ?_)
  simp only [folded_eq]
  rfl

/-- The choice that folds: no entry is taken, so the number in use does not matter (R78). -/
theorem exec_brc_folds (hclear : Clear s (.brc m f) g e p) (hfold : mayFold f (frag g e p) (past s g e p) = true)
    (hchosen : Config.freeBit s.free = true) :
    exec (.brc m f) s = .next { foldedInto f (frag g e p) (afterChoice (past s g e p)) with issued := true } :=
  (exec_brc_foldable hclear hfold).trans
    (issue_ok hclear (if_pos hchosen) ((foldedInto_queue f _ _).trans (afterChoice_queue _)))

/-- The other choice splits. -/
theorem exec_brc_splits (hclear : Clear s (.brc m f) g e p) (hfold : mayFold f (frag g e p) (past s g e p) = true)
    (hother : ¬Config.freeBit s.free = true) :
    exec (.brc m f) s = issue (.brc m f) s fun u t => u.branch (afterChoice t) (brcPaths f u) :=
  (exec_brc_foldable hclear hfold).trans (issue_congr hclear (if_neg hother))

end Folding

/-- Settles O15: `brc` by whether it may be folded and is, and the branches whose meaning is a split. -/
theorem divergentBranches : Obligations.DivergentBranches := by
  unfold Obligations.DivergentBranches
  refine ⟨fun m f => ⟨?unfoldable, ?foldable⟩, fun m f ts => branches_of_splitsOver (brm_splitsOver m f ts),
    fun m f => branches_of_splitsOver (jmpi_splitsOver m f), fun m f => branches_of_splitsOver (ret_splitsOver m f)⟩
  case unfoldable =>
    intro s g e p hclear ⟨hfold, hroom⟩
    rw [exec_brc_unfoldable hclear hfold]
    exact issue_ok hclear (branch_ok' hclear _ hroom) (branched_queue _ _ _ (past s g e p))
  case foldable =>
    intro s g e p hclear ⟨hfold, hroom⟩
    have hsplit : splitInto (frag g e p) (afterChoice (past s g e p)) (brcPaths f (frag g e p)) ≠ none := by
      rw [splitInto_afterChoice, Ne, splitInto_past hclear]
      exact Nat.not_lt.mpr hroom
    dsimp only
    split
    next hchosen => exact exec_brc_folds hclear hfold hchosen
    next hother =>
      rw [exec_brc_splits hclear hfold hother]
      exact issue_ok hclear (branch_of_room (ps := fun u _ => brcPaths f u) hsplit) (branched_queue _ _ _ _)

/-- Settles O16: the same meanings where the split takes an entry too many, and `jset` without a free entry. -/
theorem splitOverflow : Obligations.SplitOverflow := by
  unfold Obligations.SplitOverflow
  refine ⟨fun m f => ⟨?unfoldable, ?foldable⟩, fun m f ts => traps_of_splitsOver (brm_splitsOver m f ts),
    fun m f => traps_of_splitsOver (jmpi_splitsOver m f), fun m f => traps_of_splitsOver (ret_splitsOver m f), fun m f => ?jset⟩
  case unfoldable =>
    intro s g e p hclear ⟨hfold, hfull⟩ hqueue
    rw [exec_brc_unfoldable hclear hfold]
    exact issue_trap hclear (branch_trap hclear _ hfull) hqueue
  case foldable =>
    intro s g e p hclear u hfold hfull s1 t hqueue
    have hsplit : splitInto u (afterChoice (past s g e p)) (brcPaths f u) = none := (splitInto_past hclear _).mpr hfull
    by_cases hchosen : Config.freeBit s.free = true
    · rw [show t = { foldedInto f u s1 with issued := true } from if_pos hchosen]
      exact exec_brc_folds hclear hfold hchosen
    · rw [show t = State.trapped g.id e (g.entry e) (Trap.at_ trapSplit (g.entry e).pc) s1 s1 from if_neg hchosen] at hqueue ⊢
      rw [exec_brc_splits hclear hfold hchosen]
      exact issue_trap hclear (branch_of_overflow hsplit) hqueue
  case jset =>
    intro s g e p hclear hfull hqueue
    change execJset m f s = _
    unfold execJset
    refine issue_trap hclear ?_ hqueue
    simp only [frag, jset_full hclear hfull]
    rfl

end Sys2Proof.Laws
end

section
/-! PROOFS. What a step runs (R73, R86, R97, R112, R115; log 1): the turn of a slot by its choice and by what the words at the chosen PC
decode to, and the step of the device at the head of the agenda. -/
namespace Sys2Proof.Laws
open Sys2Proof.Machine Sys2Proof.Safety

section Turn
variable {s s1 : State} {dt core slot : Nat} {rest : List (Nat × Agent)}

/-- The state in which the slot at the head of the agenda chooses: stalls are noted, time has passed, folds have met, and groups of a shed
class have stopped at their boundary. -/
def turnState (s : State) (dt core slot : Nat) (rest : List (Nat × Agent)) : State :=
  (({ s.noteStalls exec dt with agenda := rest } : State).tick dt).meetFolds.stopBoundaries exec core slot

theorem turnState_mem : (turnState s dt core slot rest).mem = (s.noteStalls exec dt).mem :=
  (ready_mem _ exec core slot).trans (tick_mem _ dt)

theorem step_slot_empty (hagenda : s.agenda = (dt, .slot core slot) :: rest) (hs : turnState s dt core slot rest = s1)
    (hnone : (s1.slotAt core slot).choose (s1.candidates exec core slot) = none) : step s = .next s1 :=
  (move_slot hagenda).trans (turn_none hs hnone)

/-- A turn with a choice is `exec` of the chosen fragment's unit, in the state in which that is in issue. -/
theorem step_slot_runs {g : Machine.Group} {e : Nat} {i : Instr} (hagenda : s.agenda = (dt, .slot core slot) :: rest)
    (hs : turnState s dt core slot rest = s1)
    (hchosen : (s1.slotAt core slot).choose (s1.candidates exec core slot) = some (g, e)) (hunit : (s1.unitAt g e).1 = i) :
    step s = exec i (s1.giveSlot (s1.slotAt core slot) (g, e)) := by
  rw [← hunit]
  exact (move_slot hagenda).trans (turn_some hs hchosen)

end Turn

/-- Settles O56: a turn by its choice and by each outcome of decoding, and a step of the device. -/
theorem stepRunsUnit : Obligations.StepRunsUnit := by
  unfold Obligations.StepRunsUnit
  refine fun s dt rest => ⟨fun core slot hagenda => ⟨step_slot_empty hagenda rfl, fun g e hchosen => ?turn⟩,
    fun i hdevice hagenda => move_event hagenda hdevice⟩
  have hruns {i : Instr} := step_slot_runs (i := i) hagenda rfl hchosen
  refine ⟨giveSlot_cur _ _ g e, (giveSlot_mem _ _ _).trans turnState_mem, ?unit, ?fetchFault, ?operand, ?refused⟩
  case unit => exact fun i n hdecode => hruns (unitAt_ok hdecode)
  case fetchFault => exact fun hdecode => hruns (unitAt_trunc hdecode)
  case operand => exact fun i n hdecode hread => hruns (unitAt_regs hdecode hread)
  case refused => exact fun r htrunc hoperand hdecode => hruns (unitAt_err hdecode htrunc hoperand)

end Sys2Proof.Laws
end

section
/-! PROOFS. Units as words (R97 to R115, R184, R233, R321): the words of a legal unit decode to it, and a unit that is no instruction,
cannot be fetched or fails a check traps with nothing of it done. -/
namespace Sys2Proof.Laws
open Sys2Proof.Machine Sys2Proof.Safety

/-! ## What makes a unit legal (R115) -/

/-- A unit without a failing check has an opcode of a class, whose checks of modifier words, fields and register numbers it passes. -/
theorem passes_of_legal {p : Parts} (hlegal : p.check = none) :
    ∃ c, clsOf p.op = some c ∧ modifierOk c p.mods p.f = true ∧ fieldOk c p.mods p.f = true ∧ operandOk c p.mods p.f = true := by
  unfold Parts.check at hlegal
  split at hlegal
  case h_1 => cases hlegal
  case h_2 c hcls =>
    refine ⟨c, hcls, ?_⟩
    split_ifs at hlegal with hmods hfield hoperand
    exact ⟨by simpa using hmods, by simpa using hfield, by simpa using hoperand⟩

theorem mods_le_two_of_legal {p : Parts} (hlegal : p.check = none) : (p.mods.h.isSome && p.mods.x.isSome && p.mods.i.isSome) = false := by
  obtain ⟨c, -, hmods, -, -⟩ := passes_of_legal hlegal
  simp only [modifierOk, Bool.and_eq_true, Bool.not_eq_true'] at hmods
  obtain ⟨⟨⟨hcount, -⟩, -⟩, -⟩ := hmods
  exact hcount

/-- A legal unit's later words have no stop bit (R98), and the codes and reserved fields of its instruction word are in order. -/
theorem fields_of_legal {p : Parts} (hlegal : p.check = none) :
    p.mods.stray = false ∧ ∃ c, clsOf p.op = some c ∧ wordOk c p.mods p.f = true := by
  obtain ⟨c, hcls, -, hfield, -⟩ := passes_of_legal hlegal
  simp only [fieldOk, Bool.and_eq_true, Bool.not_eq_true'] at hfield
  obtain ⟨⟨⟨hstray, -⟩, -⟩, hword⟩ := hfield
  exact ⟨hstray, c, hcls, hword⟩

theorem wordOk_brm (m : Mods) (f : RF) (ts : List Target) :
    wordOk .brm m (.brm f ts) = (f.a.toNat < 4 && f.b == 0 && f.c == 0 && f.k == 0 && ts.length == f.a.toNat + 1) := rfl

/-- A legal `brm` has as many target words as its field a says, at most four (R114). -/
theorem brm_targets_of_legal {m : Mods} {f : RF} {ts : List Target} (hlegal : (Parts.mk 5 m (.brm f ts)).check = none) :
    f.a.toNat < 4 ∧ ts.length = f.a.toNat + 1 := by
  obtain ⟨-, c, hcls, hword⟩ := fields_of_legal hlegal
  cases hcls
  simp only [wordOk_brm, Bool.and_eq_true, decide_eq_true_eq, beq_iff_eq] at hword
  obtain ⟨⟨⟨⟨hcount, -⟩, -⟩, -⟩, hlen⟩ := hword
  exact ⟨hcount, hlen⟩

/-! ## Encoding and decoding -/

/-- The parts of every instruction lead back to it: what `Units` says of each constructor, in their order. -/
theorem units_statement (i : Instr) : Units.Statement i :=
  i.casesOn (motive := Units.Statement)
    Units.acceptRead Units.jackWrite Units.ctxCreate Units.ctxDestroy Units.contextCloseComplete Units.load Units.unload Units.start
    Units.transfer Units.migrateOut Units.migrateIn Units.jsign Units.attestReport Units.attestKeyInstall Units.xinvWrite
    Units.devnumWrite Units.dbgHalt Units.dbgResume Units.dbgSave Units.bpWrite Units.sampleTick Units.trdWrite Units.linkRead
    Units.registerWrite Units.hostWindowBRead Units.hostWindowBWrite Units.hostAtomicRequest Units.workgroupPlace Units.pipelineStart
    Units.seedPush Units.qpushComplete Units.qpopComplete Units.dresserSample Units.loadComplete Units.storePerform
    Units.copySectorLand Units.copySourceReadDone Units.benchGrant Units.mmaPassComplete Units.dataFaultDetect
    Units.remoteAccessReceive Units.remoteAccessComplete Units.remoteTimeout Units.flitReceive Units.linkDown Units.linkUp
    Units.linkKeyRenewal Units.throttleNotification Units.preempt Units.preemptSaveComplete Units.groupRestore Units.stallSample
    Units.levelChangeComplete Units.boostRefill Units.withholdLevelUpdate Units.junctionTemperatureChange Units.telemetryFrame
    Units.unassignedOpcodeUnit Units.engineOperandRead Units.softError Units.nop Units.bra Units.brc Units.brcU Units.brm Units.jset
    Units.join Units.call Units.callU Units.ret Units.retU Units.jmpi Units.exit Units.sadd32 Units.sadd64 Units.ssub32 Units.ssub64
    Units.smul32 Units.smul64 Units.smulhI32 Units.smulhN32 Units.sand Units.sor Units.sxor Units.sshl Units.sshr Units.ssar
    Units.sminI32 Units.sminN32 Units.smaxI32 Units.smaxN32 Units.scmpEq Units.scmpNe Units.scmpLtI32 Units.scmpLtN32 Units.scmpLeI32
    Units.scmpLeN32 Units.scmpGtI32 Units.scmpGtN32 Units.scmpGeI32 Units.scmpGeN32 Units.ssel Units.smovi Units.sldB32 Units.sldB64
    Units.iadd32 Units.iadd64 Units.isub32 Units.isub64 Units.imul32 Units.imul64 Units.imad Units.imulhI32 Units.imulhN32 Units.iand
    Units.ior Units.ixor Units.ishl32 Units.ishl64 Units.ishr32 Units.ishr64 Units.isar32 Units.isar64 Units.iminI32 Units.iminN32
    Units.imaxI32 Units.imaxN32 Units.iabs Units.popcB32 Units.popcB64 Units.clzB32 Units.clzB64 Units.brev Units.bfeI32 Units.bfeN32
    Units.bfi Units.icmpI32 Units.icmpN32 Units.icmpI64 Units.icmpN64 Units.iselB32 Units.iselB64 Units.mand Units.mor Units.mxor
    Units.mnot Units.mpopc Units.mfirst Units.vote Units.shflIdx Units.shflUp Units.shflDown Units.shflXor Units.rdlane Units.wrlane
    Units.bcast Units.redux Units.faddF32 Units.faddF16x2 Units.fsubF32 Units.fsubF16x2 Units.fmulF32 Units.fmulF16x2 Units.ffmaF32
    Units.ffmaF16x2 Units.fminF32 Units.fminF16x2 Units.fmaxF32 Units.fmaxF16x2 Units.fcmp Units.fclass Units.frcp Units.frsq
    Units.fsqrt Units.fexp2 Units.flog2 Units.fsin Units.fcos Units.cvtF32 Units.cvtF16 Units.cvtBf16 Units.cvtInt32 Units.cvtInt64
    Units.cvtSmall Units.kbpack Units.kbunpack Units.ldN8 Units.ldI8 Units.ldN16 Units.ldI16 Units.ldB32 Units.ldB64 Units.st8
    Units.st16 Units.stB32 Units.stB64 Units.ldsB32 Units.ldsB64 Units.stsB32 Units.stsB64 Units.atom32 Units.atom64 Units.red32
    Units.red64 Units.pref Units.cpyT Units.cpyLB32 Units.cpyLB64 Units.cpyLB128 Units.txbInit Units.txbArrive Units.txbExpect
    Units.txbWait Units.sbq Units.poisq Units.poisclr Units.mma Units.mzero Units.tset Units.tfield Units.tget Units.benchq Units.wait
    Units.wgsync Units.fence Units.qpush Units.qpop Units.qtry Units.tdone Units.fetchw Units.launch Units.sleep Units.trap Units.rfe
    Units.getsr Units.setsr Units.featq Units.setperf Units.xfer Units.kill Units.brk Units.trace Units.time Units.sigq
    Units.coldReset Units.warmReset Units.msixHoldoffExpiry Units.fwUpdate Units.xinvComplete Units.debugSaveDeferred Units.sampleDump
    Units.pstatRead Units.sampRead Units.errsRead Units.deadlockWindowExpiry Units.fetchwMailboxComplete Units.sleepExpiry
    Units.boostTokenCharge Units.telemetryLoss Units.shedClass Units.shedPreemptTimeout Units.classRestore Units.codeFetchFault

section Words
variable {i : Instr} {p : Parts}

/-- The instruction word and target words of a legal unit give its fields back. -/
theorem takeFields_encoded (hp : i.parts = some p) (hlegal : p.check = none) (stop : Bool) (rest : List Word) :
    takeFields p.mods (p.f.toWord p.op stop) (p.f.targets ++ rest) = .ok (p.mods, p.f) := by
  obtain ⟨hop, hunit, hfmt⟩ := units_statement i p hp
  obtain ⟨-, -, hcode⟩ := word_fields p.op stop p.f hop
  obtain ⟨op, m, f⟩ := p
  cases f with
  | brm f ts =>
    cases hunit
    cases hp
    obtain ⟨hcount, hlen⟩ := brm_targets_of_legal hlegal
    exact fields_brm stop f ts m rest hcount hlen hcode
  | r | i | m | b | w => exact fields_of op stop _ (Nat.lt_trans hop (by decide)) (by simp) m rest hfmt hcode

theorem readUnit_encode (hp : i.parts = some p) (hlegal : p.check = none) (rest : List Word) :
    readUnit (encode i ++ rest) = .ok (i, p.words) := by
  obtain ⟨hop, hunit, -⟩ := units_statement i p hp
  obtain ⟨stop, htake⟩ := take_encode p rest hop (fields_of_legal hlegal).1 (mods_le_two_of_legal hlegal)
  obtain ⟨-, -, hcode⟩ := word_fields p.op stop p.f hop
  have hwords : encode i = p.encode := by simp only [encode, hp]
  simp only [readUnit, hwords, htake, takeFields_encoded hp hlegal, hcode, hunit]

end Words

theorem decode_of_readUnit {ws : List Word} {u : Instr × Nat} (hread : readUnit ws = .ok u) (hlegal : WellFormed u.1) :
    decode ws = .ok u := by
  simp only [decode, hread, hlegal]

/-- Settles O55: the words read back as the unit, and its checks pass. -/
theorem encodeDecode : Obligations.EncodeDecode := by
  unfold Obligations.EncodeDecode
  intro i p rest hp hwf
  have hlegal : p.check = none := by simpa only [WellFormed, Instr.check, hp] using hwf
  exact decode_of_readUnit (readUnit_encode hp hlegal rest) hwf

/-! ## Units that trap with nothing of them done -/

/-- What only traps at the fragment's unit does so as soon as nothing waits at its boundary. -/
theorem trapsAs_of_trapUnit {i : Instr} {s : State} {g : Machine.Group} {e : Nat} {t : Machine.Group → Nat → Trap}
    (hexec : exec i s = s.trapUnit t) (hunit : AtUnit s g e) : TrapsAs i s g e (t g e) :=
  fun hroom => hexec.trans (trapUnit_of hunit t hroom)

/-- Settles O37: both steps are traps at the unit, one with the code of the refusal, one with the first word not fetched. -/
theorem unexecutableUnits : Obligations.UnexecutableUnits := by
  unfold Obligations.UnexecutableUnits
  refine ⟨fun s g e code hunit => ?refused, fun s g e hunit => ?unfetched⟩
  case refused => exact (trapsAs_of_trapUnit (exec_unassigned code s) hunit :)
  case unfetched => exact (trapsAs_of_trapUnit (exec_fetch s) hunit :)

/-- Settles O38: whatever a unit means, its checks come first. -/
theorem illegalUnits : Obligations.IllegalUnits := by
  unfold Obligations.IllegalUnits
  intro i s g e p r hunit hp hfails hnowait hroom
  obtain ⟨body, hexec⟩ := exec_eq_issue hp s
  exact hexec.trans (issue_illegal hunit hp hfails hnowait body hroom)

end Sys2Proof.Laws
end

section
/-! PROOFS. Uniform and vector integers, compares, selects and lane masks (R102, R130 to R139, Tables 08-2 to 08-4): each unit's meaning
is one operation on its sources, and the laws of words say what that operation is on bit vectors. -/
namespace Sys2Proof.Laws
open Sys2Proof.Machine Sys2Proof.Safety

/-! ## Meanings that read their own modifier words, and units without effect -/

/-- A unit in issue has the modifier words that its instruction carries. -/
theorem does_of_mods {i : Instr} {m : Mods} {body : Frag → State → Res} {upd : Frag → Machine.Group → Machine.Group}
    (hmods : i.parts.map Parts.mods = some m) (hexec : ∀ s, exec i s = issue i s body)
    (hbody : ∀ u s, u.m = m → body u s = .ok (s.modGroup u.g.id (upd u))) : Does i upd := by
  intro s g e p hclear
  rw [hclear.parts] at hmods
  rw [hexec]
  exact issue_group hclear (hbody _ _ (Option.some.inj hmods))

theorem does_nothing {i : Instr} (hexec : ∀ s, exec i s = issue i s fun _ s => .ok s) : Does i fun _ g => g :=
  does_of hexec fun u s => congrArg Res.ok (modGroup_id s u.g.id).symm

/-! ## Results -/

theorem uni_toS (u : Frag) (s : State) (a : BitVec 7) (n : Nat) :
    u.uni s false a.toNat n = .ok (s.modGroup u.g.id (toS a (BitVec.ofNat 32 n))) := rfl

theorem loWord_toNat (x : Quad) : BitVec.ofNat 32 x.toNat = loWord x := by rw [loWord_ofNat, ofNat_toNat]
theorem hiWord_toNat (x : Quad) : BitVec.ofNat 32 (x.toNat / 2 ^ 32) = hiWord x := by rw [hiWord_ofNat, ofNat_toNat]

/-- A vector result of one word, in the lanes `ex` and zero in those of `z`. -/
theorem putV_word (g : Machine.Group) (r : Nat) (ex z : Word) (x : Nat → Word) :
    g.putV false false r ex z (fun l => (x l).toNat) = g.setV r (ex ||| z) fun l => if laneIn ex l then x l else 0 := by
  simp only [Group.putV, Bool.false_eq_true, if_false, ofNat_toNat]

theorem putV_quad (g : Machine.Group) (r : Nat) (ex z : Word) (x : Nat → Quad) :
    g.putV false true r ex z (fun l => (x l).toNat) =
      (g.setV r (ex ||| z) fun l => if laneIn ex l then loWord (x l) else 0).setV (r + 1) (ex ||| z)
        fun l => if laneIn ex l then hiWord (x l) else 0 := by
  simp only [Group.putV, Bool.false_eq_true, if_false, if_true, loWord_toNat, hiWord_toNat]

/-! ## Uniform units (R131, R132) -/

/-- Settles O1: sums, differences and products narrowed by RND, in both widths. -/
theorem uniformArithmetic : Obligations.UniformArithmetic := by
  unfold Obligations.UniformArithmetic
  refine fun m f => ⟨?sadd32, ?ssub32, ?smul32, ?sadd64, ?ssub64, ?smul64⟩
  case sadd32 => exact does_sop (fun _ => rfl) fun u => addBits_ofNat (by decide) u.m.modx.rnd _ _
  case ssub32 => exact does_sop (fun _ => rfl) fun u => subBits_ofNat (by decide) u.m.modx.rnd _ _
  case smul32 => exact does_sop (fun _ => rfl) fun u => mulBits_ofNat (by decide) u.m.modx.rnd _ _
  case sadd64 => exact does_sop64 (fun _ => rfl) fun u => addBits_ofNat (by decide) u.m.modx.rnd _ _
  case ssub64 => exact does_sop64 (fun _ => rfl) fun u => subBits_ofNat (by decide) u.m.modx.rnd _ _
  case smul64 => exact does_sop64 (fun _ => rfl) fun u => mulBits_ofNat (by decide) u.m.modx.rnd _ _

/-- Settles O2: the flag of `mulhBits`, `minBits` and `maxBits` says whether the operands are unsigned. -/
theorem uniformLogic : Obligations.UniformLogic := by
  unfold Obligations.UniformLogic
  refine fun m f => ⟨?smulhI, ?smulhN, ?sand, ?sor, ?sxor, ?sshl, ?sshr, ?ssar, ?sminI, ?sminN, ?smaxI, ?smaxN⟩
  case smulhI => exact does_sop (fun _ => rfl) fun _ => mulhBits_ofNat false _ _
  case smulhN => exact does_sop (fun _ => rfl) fun _ => mulhBits_ofNat true _ _
  case sand => exact does_sop (fun _ => rfl) fun _ => land_ofNat _ _
  case sor => exact does_sop (fun _ => rfl) fun _ => lor_ofNat _ _
  case sxor => exact does_sop (fun _ => rfl) fun _ => xor_ofNat _ _
  case sshl => exact does_sop (fun _ => rfl) fun _ => shlBits_ofNat _ _
  case sshr => exact does_sop (fun _ => rfl) fun _ => shrBits_ofNat _ _
  case ssar => exact does_sop (fun _ => rfl) fun _ => sarBits_ofNat (by decide) _ _
  case sminI => exact does_sop (fun _ => rfl) fun _ => minBits_ofNat false _ _
  case sminN => exact does_sop (fun _ => rfl) fun _ => minBits_ofNat true _ _
  case smaxI => exact does_sop (fun _ => rfl) fun _ => maxBits_ofNat false _ _
  case smaxN => exact does_sop (fun _ => rfl) fun _ => maxBits_ofNat true _ _

/-- The choice of `ssel` (Table 08-2). -/
theorem ssel_ofNat (old b c : Word) : BitVec.ofNat 32 (if b.toNat != 0 then c.toNat else old.toNat) = if b ≠ 0 then c else old := by
  have hzero : (b.toNat != 0) = true ↔ b ≠ 0 := by simp [← BitVec.toNat_inj]
  simp only [hzero, apply_ite (BitVec.ofNat 32), ofNat_toNat]

/-- The constant of `smovi` without `modi` is its immediate, sign-extended (R102). -/
theorem smoviValue_short {m : Mods} (hm : m.i = none) (f : IF) : BitVec.ofNat 32 (smoviValue m f) = f.imm.signExtend 32 := by
  simp only [smoviValue, hm, sext_toNat (by decide : 0 < 16), ofNat_toNat]

/-- Under `modi` it is the low half of IMM24 above the immediate (R102). -/
theorem smoviValue_long {m : Mods} {w : BitVec 24} (hm : m.i = some w) (f : IF) :
    BitVec.ofNat 32 (smoviValue m f) = w.setWidth 16 ++ f.imm := by
  have himm := f.imm.isLt
  apply BitVec.eq_of_toNat_eq
  simp only [smoviValue, hm]
  rw [BitVec.toNat_append, ← Nat.shiftLeft_add_eq_or_of_lt himm, Nat.shiftLeft_eq, BitVec.toNat_setWidth, BitVec.toNat_ofNat]
  omega

/-- Settles O3: the relations of `scmp` by their COND codes (Table 07-8), the choice of `ssel`, and the two constants of `smovi`. -/
theorem uniformCompareAndMove : Obligations.UniformCompareAndMove := by
  unfold Obligations.UniformCompareAndMove
  refine ⟨fun m f => ⟨?eq, ?ne, ?ltI, ?ltN, ?leI, ?leN, ?gtI, ?gtN, ?geI, ?geN, ?ssel⟩, fun m f => ?smovi⟩
  case eq => exact does_sop (fun _ => rfl) fun _ => flag_compare 0 false _ _
  case ne => exact does_sop (fun _ => rfl) fun _ => flag_compare 1 false _ _
  case ltI => exact does_sop (fun _ => rfl) fun _ => flag_compare 2 true _ _
  case ltN => exact does_sop (fun _ => rfl) fun _ => flag_compare 2 false _ _
  case leI => exact does_sop (fun _ => rfl) fun _ => flag_compare 3 true _ _
  case leN => exact does_sop (fun _ => rfl) fun _ => flag_compare 3 false _ _
  case gtI => exact does_sop (fun _ => rfl) fun _ => flag_compare 4 true _ _
  case gtN => exact does_sop (fun _ => rfl) fun _ => flag_compare 4 false _ _
  case geI => exact does_sop (fun _ => rfl) fun _ => flag_compare 5 true _ _
  case geN => exact does_sop (fun _ => rfl) fun _ => flag_compare 5 false _ _
  case ssel => exact does_sop (fun _ => rfl) fun _ => by rw [sVal_one, ssel_ofNat]
  case smovi =>
    refine does_of_mods (m := m) rfl (fun _ => rfl) fun u s hm => ?_
    rw [← hm, uni_toS]
    cases hi : u.m.i with
    | none => rw [smoviValue_short hi]
    | some w => rw [smoviValue_long hi]

/-! ## Vector units (R134, R135) -/

/-- `iabs` narrows the exact absolute value, which is the same for signed and unsigned results (Table 08-3). -/
theorem iabs_ofNat (rnd : BitVec 3) (b : Word) :
    BitVec.ofNat 32 (narrow rnd.toNat 32 ((toSigned 32 b.toNat).natAbs : Int)) = rounded 32 rnd b.toInt.natAbs b.toInt.natAbs := by
  rw [← narrow_rounded 32 (by decide), ite_self, toSigned_toNat (by decide)]

/-- Settles O4: as the uniform units, in each executed lane, with `imad` and `iabs`. -/
theorem vectorArithmetic : Obligations.VectorArithmetic := by
  unfold Obligations.VectorArithmetic
  refine fun m f => ⟨?iadd32, ?isub32, ?imul32, ?iadd64, ?isub64, ?imul64, ?imad, ?imulhI, ?imulhN, ?iabs⟩
  case iadd32 => exact does_vop (fun _ => rfl) fun u _ => addBits_ofNat (by decide) u.m.modx.rnd _ _
  case isub32 => exact does_vop (fun _ => rfl) fun u _ => subBits_ofNat (by decide) u.m.modx.rnd _ _
  case imul32 => exact does_vop (fun _ => rfl) fun u _ => mulBits_ofNat (by decide) u.m.modx.rnd _ _
  case iadd64 => exact does_vop64 (fun _ => rfl) fun u _ => addBits_ofNat (by decide) u.m.modx.rnd _ _
  case isub64 => exact does_vop64 (fun _ => rfl) fun u _ => subBits_ofNat (by decide) u.m.modx.rnd _ _
  case imul64 => exact does_vop64 (fun _ => rfl) fun u _ => mulBits_ofNat (by decide) u.m.modx.rnd _ _
  case imad =>
    refine does_of_mods (m := m) rfl (fun _ => rfl) fun u s hm => ?_
    rw [← hm]
    simp only [vec_toV, src_b32, opnd_c32, src_d32, Frag.rnd, madBits_ofNat]
  case imulhI => exact does_vop (fun _ => rfl) fun _ _ => mulhBits_ofNat false _ _
  case imulhN => exact does_vop (fun _ => rfl) fun _ _ => mulhBits_ofNat true _ _
  case iabs => exact does_vop1 (fun _ => rfl) fun u _ => iabs_ofNat u.m.modx.rnd _

/-- Settles O5: the shifts of a pair take their count from one register. -/
theorem vectorLogic : Obligations.VectorLogic := by
  unfold Obligations.VectorLogic
  refine fun m f => ⟨?iand, ?ior, ?ixor, ?ishl32, ?ishl64, ?ishr32, ?ishr64, ?isar32, ?isar64, ?iminI, ?iminN, ?imaxI, ?imaxN⟩
  case iand => exact does_vop (fun _ => rfl) fun _ _ => land_ofNat _ _
  case ior => exact does_vop (fun _ => rfl) fun _ _ => lor_ofNat _ _
  case ixor => exact does_vop (fun _ => rfl) fun _ _ => xor_ofNat _ _
  case ishl32 => exact does_vop (fun _ => rfl) fun _ _ => shlBits_ofNat _ _
  case ishl64 => exact does_vshift64 (fun _ => rfl) fun _ _ => shlBits_ofNat _ _
  case ishr32 => exact does_vop (fun _ => rfl) fun _ _ => shrBits_ofNat _ _
  case ishr64 => exact does_vshift64 (fun _ => rfl) fun _ _ => shrBits_ofNat _ _
  case isar32 => exact does_vop (fun _ => rfl) fun _ _ => sarBits_ofNat (by decide) _ _
  case isar64 => exact does_vshift64 (fun _ => rfl) fun _ _ => sarBits_ofNat (by decide) _ _
  case iminI => exact does_vop (fun _ => rfl) fun _ _ => minBits_ofNat false _ _
  case iminN => exact does_vop (fun _ => rfl) fun _ _ => minBits_ofNat true _ _
  case imaxI => exact does_vop (fun _ => rfl) fun _ _ => maxBits_ofNat false _ _
  case imaxN => exact does_vop (fun _ => rfl) fun _ _ => maxBits_ofNat true _ _

/-- The base of `bfi` is the old value of its destination (R135). -/
theorem src_dest (u : Frag) (uni : Bool) (f : RF) (l : Nat) :
    u.g.src uni false f.a.toNat l = (if uni then u.g.getS f.a.toNat else u.g.getV f.a.toNat l).toNat := by
  cases uni
  · exact vVal_one _ _ _
  · exact sVal_one _ _

/-- Settles O6: the counts, `brev` and the fields, by the laws of the bits of a word. -/
theorem vectorBitFields : Obligations.VectorBitFields := by
  unfold Obligations.VectorBitFields
  refine fun m f => ⟨?popc32, ?popc64, ?clz32, ?clz64, ?brev, ?bfeN, ?bfeI, ?bfi⟩
  case popc32 => exact does_vop1 (fun _ => rfl) fun _ _ => congrArg _ (popcBits_toNat _)
  case popc64 => exact does_vop1_64 (fun _ => rfl) fun _ _ => congrArg _ (popcBits_toNat _)
  case clz32 => exact does_vop1 (fun _ => rfl) fun _ _ => congrArg _ (clzBits_toNat _)
  case clz64 => exact does_vop1_64 (fun _ => rfl) fun _ _ => congrArg _ (clzBits_toNat _)
  case brev => exact does_vop1 (fun _ => rfl) fun _ _ => brevBits_toNat _
  case bfeN => exact does_vop (fun _ => rfl) fun _ _ => bfeN_toNat _ _
  case bfeI => exact does_vop (fun _ => rfl) fun _ _ => bfeI_toNat _ _
  case bfi => exact does_of (fun _ => rfl) fun u s => by simp only [vec_toV, src_dest, src_b32, opnd_c32, bfi_toNat]

/-! ## Compare and select (R136 to R138) -/

/-- `icmp` by its sources as bit vectors of the compared width. -/
theorem icmp_toM {w : Nat} (hw : 0 < w) {u : Frag} (s : State) {f : RF} (signed : Bool) {wide : Bool} (hwide : (if wide then 64 else 32) = w)
    {b c : Nat → BitVec w} (hb : ∀ l, u.g.vVal wide f.b.toNat l = (b l).toNat)
    (hc : ∀ l, u.g.opnd u.m false wide f l = (c l).toNat) :
    u.icmp s f signed wide = .ok (s.modGroup u.g.id (toM u f.a fun l => condOf (f.a.toNat / 16) signed (b l) (c l))) := by
  subst hwide
  simp only [Frag.icmp, hb, hc, compareBits_toNat hw]
  rfl

/-- Settles O7: `icmp` of words and pairs, and `isel` as a vector result in the executed lanes whose condition bit is set. -/
theorem vectorCompareAndSelect : Obligations.VectorCompareAndSelect := by
  unfold Obligations.VectorCompareAndSelect
  refine fun m f => ⟨?icmpI32, ?icmpN32, ?icmpI64, ?icmpN64, ?isel32, ?isel64⟩
  case icmpI32 => exact does_of (fun _ => rfl) fun u s => icmp_toM (by decide) s true rfl (src_b32 u false f) (opnd_c32 u false f)
  case icmpN32 => exact does_of (fun _ => rfl) fun u s => icmp_toM (by decide) s false rfl (src_b32 u false f) (opnd_c32 u false f)
  case icmpI64 => exact does_of (fun _ => rfl) fun u s => icmp_toM (by decide) s true rfl (src_b64 u false f) (opnd_c64 u false f)
  case icmpN64 => exact does_of (fun _ => rfl) fun u s => icmp_toM (by decide) s false rfl (src_b64 u false f) (opnd_c64 u false f)
  case isel32 => exact does_of (fun _ => rfl) fun u s => by simp only [Frag.isel, Frag.upd, opnd_c32, putV_word]
  case isel64 => exact does_of (fun _ => rfl) fun u s => by simp only [Frag.isel, Frag.upd, opnd_c64, putV_quad]

/-! ## Lane masks (R137, R139) -/

theorem does_mop {i : Instr} {f : RF} {op : Word → Word → Word} (hexec : ∀ s, exec i s = issue i s fun u s => u.mop s f op) :
    Does i fun u g => g.setM f.a.toNat u.x.mask (op (u.g.mreg u.x.mask f.b.toNat) (u.g.mreg u.x.mask f.c.toNat)) :=
  does_of hexec fun _ _ => rfl

/-- A mask has as many lanes as set bits. -/
theorem lanesOf_length (m : Word) : (lanesOf m).length = bitCount m := rfl

/-- Settles O8: the mask results, the number of set lanes and the lowest of them. -/
theorem maskUnits : Obligations.MaskUnits := by
  unfold Obligations.MaskUnits
  refine fun m f => ⟨?mand, ?mor, ?mxor, ?mnot, ?mpopc, ?mfirst⟩
  case mand => exact does_mop fun _ => rfl
  case mor => exact does_mop fun _ => rfl
  case mxor => exact does_mop fun _ => rfl
  case mnot => exact does_mop (op := fun b _ => ~~~b) fun _ => rfl
  case mpopc => exact does_of (fun _ => rfl) fun u s => by rw [uni_toS, lanesOf_length]
  case mfirst => exact does_of (fun _ => rfl) fun u s => uni_toS u s f.a _

end Sys2Proof.Laws
end

section
/-! PROOFS. Collectives (R140 to R144, Table 08-5): every one waits, fuses and mismatches alike (`gathers_of`), so what is left is the
operation of each on the lanes that execute. -/
namespace Sys2Proof.Laws
open Sys2Proof.Machine Sys2Proof.Safety

/-- What `vote` writes, by its subtype. -/
theorem voteWord_eq (c : BitVec 7) (p ex : Word) :
    (match c.toNat with
      | 0 => BitVec.ofNat 32 (flagWord (p != 0))
      | 1 => BitVec.ofNat 32 (flagWord (p == ex))
      | _ => p) = if c = 0 then flag (p != 0) else if c = 1 then flag (p == ex) else p := by
  have hany : c = 0 ↔ c.toNat = 0 := BitVec.toNat_inj.symm
  have hall : c = 1 ↔ c.toNat = 1 := BitVec.toNat_inj.symm
  simp only [hany, hall, ← flag_eq]
  split
  next h => rw [if_pos h]
  next h => rw [if_neg (by omega), if_pos h]
  next hnot0 hnot1 => rw [if_neg hnot0, if_neg hnot1]

/-- Settles O9: `vote` by its subtype, and each shuffle by the lane that it reads; only `shfl.up` can name no lane. -/
theorem votesAndShuffles : Obligations.VotesAndShuffles := by
  unfold Obligations.VotesAndShuffles
  refine fun m f => ⟨?vote, ?idx, ?up, ?down, ?xor, ?bcast⟩
  case vote => exact gathers_congr (fun _ ex _ g => congrArg (g.setS f.a.toNat) (voteWord_eq f.c _ ex)) (gathers_of fun _ _ _ _ _ => rfl)
  case idx => exact shfl_of (fun _ => rfl) fun _ _ _ => rfl
  case up =>
    refine shfl_of (fun _ => rfl) fun u ex l => ?_
    by_cases hnear : (c32 false u f l).toNat ≤ l
    · simp only [hnear, if_true]
    · simp only [hnear, if_false]
  case down => exact shfl_of (fun _ => rfl) fun _ _ _ => rfl
  case xor => exact shfl_of (fun _ => rfl) fun _ _ _ => rfl
  case bcast => exact shfl_of (fun _ => rfl) fun _ _ _ => rfl

/-- Settles O10: the lane of `rdlane` and `wrlane` is the second source modulo GW, and `redux` folds from its identity. -/
theorem laneReadsAndReduction : Obligations.LaneReadsAndReduction := by
  unfold Obligations.LaneReadsAndReduction
  refine fun m f => ⟨gathers_congr (fun u ex union g => ?rdlane) (gathers_of fun _ _ _ _ _ => rfl),
    gathers_congr (fun u ex union g => ?wrlane) (gathers_of fun _ _ _ _ _ => rfl),
    gathers_congr (fun u ex union g => ?redux) (gathers_of fun _ _ _ _ _ => rfl)⟩
  case rdlane =>
    rw [opnd_c32]
    rfl
  case wrlane =>
    rw [opnd_c32]
    rfl
  case redux =>
    simp only [vVal_one, reduxUnit_eq, redux_fold]
    rfl

end Sys2Proof.Laws
end

section
/-! PROOFS. Control that does not diverge, joins and exits (R83, R122 to R129, R330): one PC for all lanes, the entry that `jset` takes,
and what posts where lanes leave. -/
namespace Sys2Proof.Laws
open Sys2Proof.Machine Sys2Proof.Safety

/-! ## One PC for all lanes -/

@[simp] theorem pushLink_id (g : Machine.Group) (l : Word) : (g.pushLink l).id = g.id := rfl
@[simp] theorem popLink_id (g : Machine.Group) : g.popLink.id = g.id := rfl

/-- A change of the fragment's PC after another change of its group is one change. -/
theorem setPc_upd (u : Frag) (s : State) (pc : Word) {h : Machine.Group → Machine.Group} (hid : ∀ g, (h g).id = g.id) :
    u.setPc (u.upd s h) pc = s.modGroup u.g.id fun g => goes u pc (h g) :=
  modGroup_modGroup s u.g.id h (goes u pc) hid

/-- What a uniform branch answers. -/
theorem goTo_eq (u : Frag) (s : State) (pc : Word) (tord tdw : Nat) : u.goTo s pc tord tdw =
    .ok (u.branchTrace (u.setPc s pc) [{ lanes := u.x.mask, pc := pc, tord := tord, tdw := tdw }]) := rfl

/-- The packets of a branch post nothing. -/
theorem branchTrace_queue (u : Frag) (s : State) (ps : List BPath) : (u.branchTrace s ps).jqueue = s.jqueue :=
  (branchTrace_onlyObs u s ps).queue

/-- Settles O14: a call pushes its link and a return pops one before the PC changes; `brc.u` by whether its register is zero. -/
theorem straightControl : Obligations.StraightControl := by
  unfold Obligations.StraightControl
  refine ⟨fun m f => ?nop, fun m f => ?bra, fun m f => ?brcU, fun m f => ?call, fun m f => ?callU, fun m f => ?retU⟩
  case nop => exact does_nothing fun _ => rfl
  case bra => exact does_of (fun _ => rfl) fun _ _ => rfl
  case brcU =>
    refine completes_of (fun _ => rfl) (fun u s _ => ?_) fun u _ => branchTrace_queue u _ _
    by_cases hzero : u.g.getS f.a.toNat = 0
    · simp only [hzero, if_true]
      exact goTo_eq u s _ _ _
    · simp only [hzero, if_false]
      exact goTo_eq u s _ _ _
  case call => exact does_of (fun _ => rfl) fun u s => congrArg Res.ok (setPc_upd u s _ fun g => by rw [pushLink_id, setV_id])
  case callU => exact does_of (fun _ => rfl) fun u s => congrArg Res.ok (setPc_upd u s _ fun g => by rw [pushLink_id, setS_id])
  case retU =>
    refine completes_of (fun _ => rfl) (fun u s _ => ?_) fun u _ => branchTrace_queue u _ _
    rw [goTo_eq, setPc_upd u s _ popLink_id]

/-! ## `jset`, `join`, `exit` and `kill` -/

/-- A `jset` of a group with a free entry takes it. -/
theorem jset_room {s : State} {i : Instr} {g : Machine.Group} {e : Nat} {p : Parts} (hclear : Clear s i g e p) (hroom : g.used + 1 ≤ 72)
    (join next : Word) : ∃ q, (((past s g e p).group? g.id).bind fun h => h.jset e join next) = some q := by
  have hfree : g.freeId ≠ none := fun h => absurd ((freeId_none g).mp h) (Nat.not_lt.mpr hroom)
  obtain ⟨j, hj⟩ := Option.ne_none_iff_exists'.mp hfree
  simp only [past_group hclear, Option.bind_some, Group.jset, past_freeId, hj]
  exact ⟨_, rfl⟩

/-- Settles O17: `jset` with a free entry, `join` by whether the fragment stands at its JOIN, `exit`, and `kill` by whether it names a
lane of the fragment. -/
theorem joinsAndExits : Obligations.JoinsAndExits := by
  unfold Obligations.JoinsAndExits
  refine ⟨fun m f => ?jset, fun m f => ?joinAt, fun m f => ?joinElsewhere, fun m f => posts_of (fun _ => rfl) fun _ _ _ => rfl,
    fun m f => ?killNone, fun m f => ?killSome⟩
  case jset =>
    intro s g e p hclear hroom
    obtain ⟨q, hq⟩ := jset_room hclear hroom (nextPc g e p + 4 * f.off.signExtend 32) (nextPc g e p)
    change execJset m f s = _
    simp only [execJset, frag, hq]
    refine issue_ok hclear ?_ rfl
    simp only [Frag.target, frag, hq]
    rfl
  case joinAt =>
    refine posts_of (fun _ => rfl) fun u s hat => ?_
    rw [if_pos (by simpa using hat)]
    rfl
  case joinElsewhere =>
    refine completes_of (fun _ => rfl) (fun u s helsewhere => ?_) fun _ _ => rfl
    rw [if_neg (by simpa using helsewhere)]
  case killNone =>
    refine completes_of (fun _ => rfl) (fun u s hnone => ?_) fun _ _ => rfl
    rw [hnone]
    rfl
  case killSome => exact posts_of (fun _ => rfl) fun u s hsome => if_neg (mt beq_iff_eq.mp hsome)

end Sys2Proof.Laws
end

section
/-! PROOFS. Loads (R133, R197 to R204, R208, R235): each is an access, whose wait, issue and faults `accesses_of` gives. -/
namespace Sys2Proof.Laws
open Sys2Proof.Machine Sys2Proof.Safety

theorem accesses_of_load {i : Instr} {f : MF} {size : Nat} {signed only wide : Bool}
    (hexec : ∀ s, exec i s = issue i s fun u s => u.load s f size signed only) (hwide : (size == 8) = wide) :
    Accesses i (loadAcc f size signed only) (zeroing wide f.data.toNat) :=
  accesses_of fun s _ _ _ hclear => (hexec s).trans (issue_congr hclear (load_eq _ _ f size signed only wide hwide))

/-- A uniform load into S registers (R133). -/
theorem sload_eq (u : Frag) (s : State) (f : MF) (size : Nat) :
    u.sload s f size = u.access s (uniformAcc f size (.load f.data.toNat true false) Frag.isAcq u) fun g => g := by
  unfold uniformAcc
  rw [uniAddr_eq]
  rfl

theorem accesses_of_sload {i : Instr} {f : MF} {size : Nat} (hexec : ∀ s, exec i s = issue i s fun u s => u.sload s f size) :
    Accesses i (uniformAcc f size (.load f.data.toNat true false) Frag.isAcq) fun _ g => g :=
  accesses_of fun s _ _ _ hclear => (hexec s).trans (issue_congr hclear (sload_eq _ _ f size))

/-- Settles O18: the loads by size, sign and space, the uniform loads, `tset` as one of 64 bytes, and `pref`, which does nothing. -/
theorem loadsIssue : Obligations.LoadsIssue := by
  unfold Obligations.LoadsIssue
  refine fun m f => ⟨?ldN8, ?ldI8, ?ldN16, ?ldI16, ?ldB32, ?ldB64, ?ldsB32, ?ldsB64, ?sldB32, ?sldB64, ?tset, ?pref⟩
  case ldN8 => exact accesses_of_load (fun _ => rfl) rfl
  case ldI8 => exact accesses_of_load (fun _ => rfl) rfl
  case ldN16 => exact accesses_of_load (fun _ => rfl) rfl
  case ldI16 => exact accesses_of_load (fun _ => rfl) rfl
  case ldB32 => exact accesses_of_load (fun _ => rfl) rfl
  case ldB64 => exact accesses_of_load (fun _ => rfl) rfl
  case ldsB32 => exact accesses_of_load (fun _ => rfl) rfl
  case ldsB64 => exact accesses_of_load (fun _ => rfl) rfl
  case sldB32 => exact accesses_of_sload fun _ => rfl
  case sldB64 => exact accesses_of_sload fun _ => rfl
  case tset =>
    refine accesses_of fun _ _ _ _ _ => ?_
    simp only [uniformAcc, uniAddr_eq]
    rfl
  case pref => exact does_nothing fun _ => rfl

end Sys2Proof.Laws
end

section
/-! PROOFS. Vector floating point, conversions and KB blocks (R159 to R173, Tables 10-3 to 10-6): each unit is one function of its
sources in every executed lane. For most of them the statement names that function itself; `fmin` and `fmax` rest on the order of exact
values (`minmax_eq`), and the sources of the conversions on the types that they name (`cvtIn_eq`). -/
namespace Sys2Proof.Laws
open Sys2Proof.Machine Sys2Proof.Safety

/-! ## Arithmetic (R159 to R162) -/

/-- The two elements of an `.f16x2` operation with three operands (R162). -/
theorem both16x3_eq (op : Nat → Nat → Nat → Nat) (b c e : Word) :
    both16x3 op b c e = twice (op (half0 b) (half0 c) (half0 e)) (op (half1 b) (half1 c) (half1 e)) := by
  simp only [both16x3, half_low, half_high, twice_eq]

/-- Settles O11: the units of two operands by their format, and `ffma` with its fourth operand. -/
theorem floatArithmetic : Obligations.FloatArithmetic := by
  unfold Obligations.FloatArithmetic
  refine fun m f => ⟨?fadd32, ?fadd16, ?fsub32, ?fsub16, ?fmul32, ?fmul16, ?ffma32, ?ffma16⟩
  case fadd32 => exact does_f32 fun _ => rfl
  case fadd16 => exact does_f16 fun _ => rfl
  case fsub32 => exact does_f32 fun _ => rfl
  case fsub16 => exact does_f16 fun _ => rfl
  case fmul32 => exact does_f32 fun _ => rfl
  case fmul16 => exact does_f16 fun _ => rfl
  case ffma32 =>
    refine does_of_mods (m := m) rfl (fun _ => rfl) fun u s hm => ?_
    rw [← hm]
    simp only [vec_toV, fb_eq, fopnd_fc32, src_d32, Frag.rnd]
  case ffma16 =>
    refine does_of_mods (m := m) rfl (fun _ => rfl) fun u s hm => ?_
    rw [← hm]
    simp only [vec_toV, fb_eq, fopnd_fc32, src_d32, both16x3_eq, ofNat_toNat, Frag.rnd]

/-! ## The smaller and the larger operand (R163) -/

theorem minmax_word (big : Bool) (b c : Word) : fp32.minmax big b.toNat c.toNat = oneOf fp32 big b.toNat c.toNat :=
  minmax_eq fp32 (by decide) big (word_fits b) (word_fits c)

theorem minmax_half0 (big : Bool) (b c : Word) : fp16.minmax big (half0 b) (half0 c) = oneOf fp16 big (half0 b) (half0 c) :=
  minmax_eq fp16 (by decide) big (half0_fits b) (half0_fits c)

theorem minmax_half1 (big : Bool) (b c : Word) : fp16.minmax big (half1 b) (half1 c) = oneOf fp16 big (half1 b) (half1 c) :=
  minmax_eq fp16 (by decide) big (half1_fits b) (half1_fits c)

theorem does_minmax32 {i : Instr} {f : RF} {big : Bool} (hexec : ∀ s, exec i s = issue i s fun u s => u.fop32 s f (fp32.minmax big)) :
    Does i fun u => toV u f.a fun l =>
      BitVec.ofNat 32 (oneOf fp32 big (b32 u.m.modx.u u f l).toNat (fc32 u.m.modx.u false u f l).toNat) := by
  simp only [← minmax_word]
  exact does_f32 hexec

theorem does_minmax16 {i : Instr} {f : RF} {big : Bool} (hexec : ∀ s, exec i s = issue i s fun u s => u.fop16 s f (fp16.minmax big)) :
    Does i fun u => toV u f.a fun l =>
      let b := b32 u.m.modx.u u f l
      let c := fc32 u.m.modx.u true u f l
      twice (oneOf fp16 big (half0 b) (half0 c)) (oneOf fp16 big (half1 b) (half1 c)) := by
  simp only [← minmax_half0, ← minmax_half1]
  exact does_f16 hexec

/-- Settles O58: the order of patterns that `FFmt.minmax` follows is that of their exact values, in either format. -/
theorem floatMinMax : Obligations.FloatMinMax := by
  unfold Obligations.FloatMinMax
  refine fun m f => ⟨?fmin32, ?fmax32, ?fmin16, ?fmax16⟩
  case fmin32 => exact does_minmax32 fun _ => rfl
  case fmax32 => exact does_minmax32 fun _ => rfl
  case fmin16 => exact does_minmax16 fun _ => rfl
  case fmax16 => exact does_minmax16 fun _ => rfl

/-! ## Compares, classes, roots and special functions (R164 to R167) -/

/-- The class word of a source by the subtype of `fclass`: FP32, FP16, and BF16 for any other (Table 10-4). -/
def classWord (sub : BitVec 7) (x : Word) : Word :=
  BitVec.ofNat 32 (if sub = 0 then fp32.cls x.toNat else if sub = 1 then fp16.cls (half0 x) else bf16.cls (half0 x))

theorem does_fclass (m : Mods) (f : RF) : Does (.fclass m f) fun u => toV u f.a fun l => classWord f.c (b32 u.m.modx.u u f l) := by
  refine does_f1 (v := fun _ => classWord f.c) (fun _ => rfl) fun u x => ?_
  have hzero : f.c = 0 ↔ f.c.toNat = 0 := BitVec.toNat_inj.symm
  have hone : f.c = 1 ↔ f.c.toNat = 1 := BitVec.toNat_inj.symm
  simp only [classWord, hzero, hone, half_low]
  split
  next h => rw [if_pos h]
  next h => rw [if_neg (by omega), if_pos h]
  next h0 h1 => rw [if_neg h0, if_neg h1]

/-- A special function is its value in each executed lane (R167, log 12). -/
theorem does_special {i : Instr} {f : RF} {op : Nat}
    (hexec : ∀ s, exec i s = issue i s fun u s => u.fop1 s f fun x => (specialFn op u.rnd x).toNat) :
    Does i fun u => toV u f.a fun l => specialFn op u.m.modx.rnd.toNat (b32 u.m.modx.u u f l) :=
  does_f1 hexec fun _ _ => ofNat_toNat _

/-- Settles O12: `fcmp` as a mask result, `fclass` by its subtype, and the root and the special functions as unary units. -/
theorem floatComparesAndFunctions : Obligations.FloatComparesAndFunctions := by
  unfold Obligations.FloatComparesAndFunctions
  refine fun m f => ⟨?fcmp, ?fclass, ?fsqrt, ?frcp, ?frsq, ?fexp2, ?flog2, ?fsin, ?fcos⟩
  case fcmp =>
    refine does_of (fun _ => rfl) fun u s => ?_
    simp only [fb_eq, fopnd_fc32]
    rfl
  case fclass => exact does_fclass m f
  case fsqrt => exact does_f1 (v := fun u x => BitVec.ofNat 32 (fsqrt u.m.modx.rnd.toNat x.toNat)) (fun _ => rfl) fun _ _ => rfl
  case frcp => exact does_special fun _ => rfl
  case frsq => exact does_special fun _ => rfl
  case fexp2 => exact does_special fun _ => rfl
  case flog2 => exact does_special fun _ => rfl
  case fsin => exact does_special fun _ => rfl
  case fcos => exact does_special fun _ => rfl

/-! ## Conversions and KB blocks (R168 to R173) -/

/-- The words of a block, those of lanes outside the fragment as zero (R172, R173). -/
theorem block_eq (u : Frag) (f : RF) (j : Nat) : u.block f j = blockOf u f j := rfl

theorem does_kbop {i : Instr} {f : RF} {op : List Word → List Word} (hexec : ∀ s, exec i s = issue i s fun u s => u.kbop s f op) :
    Does i fun u => toV u f.a fun l => ((op (blockOf u f (if l < 16 then 0 else 1)))[l % 16]?).getD 0 :=
  does_of hexec fun u s => by simp only [Frag.kbop, vec_toV, block_eq, ofNat_toNat, ← apply_ite op, ← apply_ite (blockOf u f)]

/-- Settles O13: each conversion by its destination, the halves as `half_vec` has them, and the KB blocks. -/
theorem conversions : Obligations.Conversions := by
  unfold Obligations.Conversions
  refine fun m f => ⟨?f32, ?f16, ?bf16, ?int32, ?int64, ?small, ?kbpack, ?kbunpack⟩
  case f32 => exact does_of (fun _ => rfl) fun u s => by simp only [vec_toV, cvtIn_eq, Frag.rnd]
  case f16 => exact does_of (fun _ => rfl) fun u s => half_vec u s f fp16 (by decide) (by decide)
  case bf16 => exact does_of (fun _ => rfl) fun u s => half_vec u s f bf16 (by decide) (by decide)
  case int32 => exact does_of (fun _ => rfl) fun u s => by simp only [vec_toV, cvtIn_eq, ofNat_toNat, Frag.rnd]
  case int64 => exact does_of (fun _ => rfl) fun u s => by simp only [vec_toV64, cvtIn_eq, ofNat_toNat, Frag.rnd]
  case small => exact does_of (fun _ => rfl) fun u s => by simp only [vec_toV, cvtIn_eq, ofNat_toNat, Frag.rnd]
  case kbpack => exact does_kbop fun _ => rfl
  case kbunpack => exact does_kbop fun _ => rfl

end Sys2Proof.Laws
end

section
/-! PROOFS. Copies and transaction barriers (R186 to R190, R201, R209 to R213, R285, Table 11-8): how copies issue, land and end, and
what the units of a barrier do on the one that they reach. -/
namespace Sys2Proof.Laws
open Sys2Proof.Machine Sys2Proof.Safety

/-! ## Tensor copies issue (R190, R201, R209) -/

section Tensor
variable {m : Mods} {f : RF} {bar : Option Nat} {u : Frag} {s : State}

/-- A tensor copy that passes its checks (R209, log 55). -/
def CopyPasses (f : RF) (bar : Option Nat) (u : Frag) (s : State) : Prop :=
  copyAllowed (shapeOf (u.g.getT f.a.toNat)) (shapeOf (u.g.getT f.b.toNat)) = true ∧ u.barCheck s f = .ok bar ∧
    u.basesBad s (shapeOf (u.g.getT f.a.toNat)) (shapeOf (u.g.getT f.b.toNat)) = none

/-- What a tensor copy that passes its checks answers (R190, R201). -/
def copyEnters (f : RF) (bar : Option Nat) (u : Frag) (s : State) : Res :=
  if 127 ≤ u.g.cp || 128 ≤ inFlight u s then .hold false
  else
    match copyStarted f bar u s with
    | none => .hold false
    | some s1 => .ok (s1.modGroup u.g.id fun g => { g with cp := g.cp + 1 })

theorem copyEnters_waits (h : 127 ≤ u.g.cp ∨ 128 ≤ inFlight u s ∨ copyStarted f bar u s = none) :
    copyEnters f bar u s = .hold false := by
  unfold copyEnters
  by_cases hfull : 127 ≤ u.g.cp ∨ 128 ≤ inFlight u s
  · rw [if_pos (by simpa using hfull)]
  · have hnone : copyStarted f bar u s = none := (or_assoc.mpr h).resolve_left hfull
    rw [hnone, ite_self]

theorem copyEnters_starts (hcp : u.g.cp < 127) (hflight : inFlight u s < 128) (hroom : copyStarted f bar u s ≠ none) :
    copyEnters f bar u s = .ok (((copyStarted f bar u s).getD s).modGroup u.g.id fun g => { g with cp := g.cp + 1 }) := by
  obtain ⟨s1, hs1⟩ := Option.ne_none_iff_exists'.mp hroom
  unfold copyEnters
  rw [if_neg (by simp; omega), hs1]
  rfl

theorem exec_cpyT_passes {g : Machine.Group} {e : Nat} {p : Parts} (hclear : Clear s (.cpyT m f) g e p)
    (hpasses : CopyPasses f bar (frag g e p) (past s g e p)) :
    exec (.cpyT m f) s = issue (.cpyT m f) s (copyEnters f bar) := by
  obtain ⟨hallowed, hbar, hbases⟩ := hpasses
  refine issue_congr hclear ?_
  simp only [hallowed, hbar, hbases, Bool.not_true, Bool.false_eq_true, if_false]
  rfl

/-- Entering a copy posts no record. -/
theorem copyStarted_queue (f : RF) (bar : Option Nat) (u : Frag) (s : State) :
    ((copyStarted f bar u s).getD s).jqueue = s.jqueue := by
  cases h : copyStarted f bar u s with
  | none => rfl
  | some s1 => exact register_queue h

end Tensor

/-! ## Lane copies issue (R190, R211) -/

section Lanes
variable {f : RF} {n : Nat} {bar : Option Nat} {u : Frag} {s : State}

/-- With no lane failing, a lane copy waits for its counter or a Sideboard, or starts over all its lanes (R211). -/
theorem laneCopy_fits (hbar : u.barCheck s f = .ok bar) (hfit : copyLanesFit f n u s = true) :
    u.laneCopy s f n = if 127 ≤ u.g.cp then .hold false
      else match laneCopyStarted f n bar u s with
        | none => .hold false
        | some s1 => .ok s1 := by
  have hbad : ((lanesOf (u.accLanes false)).filterMap fun l =>
      (s.pairCheck u.g (v64 u.g f.a.toNat l).toNat (v64 u.g f.b.toNat l).toNat n).map fun r => (l, r)) = [] := by
    rw [List.filterMap_eq_nil_iff]
    intro l hl
    rw [Option.isNone_iff_eq_none.mp (List.all_eq_true.mp hfit l hl), Option.map_none]
  unfold Frag.laneCopy
  simp only [hbar, vVal_pair, hbad, List.any_nil, Bool.not_false, List.filter_true, List.isEmpty_nil, if_true]
  rfl

/-- Registering an operation and changing its group posts no record. -/
theorem registered_queue (s : State) (o : Op) (es : List (Nat × Nat × Nat × Bool × Nat)) (g : Nat) (h : Machine.Group → Machine.Group) :
    (((s.register o es).map fun s1 => s1.modGroup g h).getD s).jqueue = s.jqueue := by
  cases hr : s.register o es with
  | none => rfl
  | some s1 => exact (modGroup_jqueue s1 g h).trans (register_queue hr)

/-- Entering a lane copy posts no record. -/
theorem laneCopyStarted_queue (f : RF) (n : Nat) (bar : Option Nat) (u : Frag) (s : State) :
    ((laneCopyStarted f n bar u s).getD s).jqueue = s.jqueue := by
  unfold laneCopyStarted
  dsimp only
  split
  · rfl
  · exact registered_queue _ _ _ _ _

theorem laneCopies_of {i : Instr} (hexec : ∀ s, exec i s = issue i s fun u s => u.laneCopy s f n) : LaneCopies i f n := by
  intro bar
  refine ⟨waits_of hexec fun u s ⟨hbar, hfit, hfull⟩ => ?waits,
    completes_of hexec (fun u s ⟨hbar, hfit, hcp, hroom⟩ => ?starts) (laneCopyStarted_queue f n bar)⟩
  case waits =>
    rw [laneCopy_fits hbar hfit]
    rcases hfull with hcp | hnone
    · rw [if_pos hcp]
    · rw [hnone, ite_self]
  case starts =>
    obtain ⟨s1, hs1⟩ := Option.ne_none_iff_exists'.mp hroom
    rw [laneCopy_fits hbar hfit, if_neg (by omega), hs1]
    rfl

end Lanes

/-- Settles O20: a tensor copy by whether it is allowed and whether there is room for it, and the three lane copies alike. -/
theorem copiesIssue : Obligations.CopiesIssue := by
  unfold Obligations.CopiesIssue
  refine fun m f => ⟨fun bar => ⟨?waits, ?starts⟩, ?traps, laneCopies_of fun _ => rfl, laneCopies_of fun _ => rfl, laneCopies_of fun _ => rfl⟩
  case waits =>
    intro s g e p hclear ⟨hallowed, hbar, hbases, hfull⟩
    rw [exec_cpyT_passes hclear ⟨hallowed, hbar, hbases⟩]
    exact issue_hold hclear (copyEnters_waits hfull)
  case starts =>
    intro s g e p hclear ⟨hallowed, hbar, hbases, hcp, hflight, hroom⟩
    rw [exec_cpyT_passes hclear ⟨hallowed, hbar, hbases⟩]
    exact issue_ok hclear (copyEnters_starts hcp hflight hroom) (copyStarted_queue f bar (frag g e p) (past s g e p))
  case traps =>
    refine traps_of (fun _ => rfl) fun u s hnot => ?_
    simp only [hnot, Bool.not_false, if_true]

/-! ## Copies in flight (R186, R190, R285) -/

section Progress
variable {s t : State} {o k : Nat} {q : Op}

/-- A copy that acts is one of the two kinds; what it does then is the same for both. -/
theorem copySectorLand_of (hop : s.op? o = some q) (hcopy : isCopy q.kind = true) (hsaved : q.saved = false) (hready : s.asyncReady q = true)
    (hgoes : q.stoppedAt k = false) (ht : (if q.sectors.isEmpty then s.endCopy o else s.landSector q k) = t) : Steps (.copySectorLand o k) s t := by
  refine steps_of (execCopySectorLand o k s) rfl rfl ?_
  rcases copy_cases hcopy with ⟨a, b, hk⟩ | hk
  all_goals
    simp only [hop, hk, hsaved, hready, hgoes]
    exact ht

theorem copySourceReadDone_of (hop : s.op? o = some q) (hcopy : isCopy q.kind = true) (hsaved : q.saved = false)
    (hready : s.asyncReady q = true) (hleft : q.srcDone = false)
    (hentry : (s.sideboard.any fun e => e.op == o && e.part == 1) = true) : Steps (.copySourceReadDone o) s (s.captureSource q) := by
  refine steps_of (execCopySourceReadDone o s) rfl rfl ?_
  have hacts : ((s.sideboard.any fun e => e.op == o && e.part == 1) && !q.srcDone && !q.saved && s.asyncReady q) = true := by
    rw [hentry, hleft, hsaved, hready]
    rfl
  rcases copy_cases hcopy with ⟨a, b, hk⟩ | hk
  all_goals
    simp only [hop, hk]
    exact if_pos hacts

end Progress

/-- Settles O40: a copy that acts lands its sector, or ends when it has none, and its source may be read. -/
theorem copiesProgress : Obligations.CopiesProgress := by
  unfold Obligations.CopiesProgress
  refine ⟨fun s o k q hop hcopy hsaved hready hgoes hsome => ?lands, fun s o k q hop hcopy hsaved hready hgoes hnone => ?ends,
    fun s o q => copySourceReadDone_of⟩
  case lands => exact copySectorLand_of hop hcopy hsaved hready hgoes (if_neg (by simpa using hsome))
  case ends => exact copySectorLand_of hop hcopy hsaved hready hgoes (if_pos (by simpa using hnone))

/-! ## Barriers (R187 to R189, R212, R213) -/

/-- An event that a barrier can take posts, and raises nothing. -/
theorem txbDo_takes {u : Frag} {s : State} {k : Nat} {e : TxbEvent} (h : takes e (s.barrier k) = true) :
    u.txbDo s k e = .post (s.txbEvent k e).1 := by
  unfold Frag.txbDo
  simp only [txbEvent_takes h, Bool.false_eq_true, if_false]

/-- The release of a `txb.arrive` changes nothing that its barrier takes (R189): a barrier lies in scratchpad. -/
theorem takes_release {f : MF} {k : Nat} {u : Frag} {s : State} {e : TxbEvent} (hreach : Reaches f k u s)
    (h : takes e (s.barrier k) = true) : takes e ((s.release u.g.core 3).barrier k) = true := by
  rw [barrier_release _ _ _ _ (txbKey_spad hreach.1)]
  exact h

/-- Settles O21: each unit on the barrier it reaches, `txb.wait` by whether its phase has passed. -/
theorem barrierUnits : Obligations.BarrierUnits := by
  unfold Obligations.BarrierUnits
  refine fun m f k => ⟨?init, ?arrive, ?expect, ?passed, ?parks⟩
  case init =>
    exact completes_of (fun _ => rfl) (fun u s hreach => onBarrier_eq hreach _) fun u s =>
      (noteBarrier_queue _ _).trans (putN_onlyMem _ s k).queue
  case arrive =>
    refine posts_of (fun _ => rfl) fun u s ⟨hreach, hfree, htakes⟩ => (onBarrier_eq hreach _).trans ?_
    simp only [hfree, txbEvent_takes htakes, Bool.false_eq_true, if_false]
    exact txbDo_takes (takes_release hreach htakes)
  case expect =>
    exact posts_of (fun _ => rfl) fun u s ⟨hreach, htakes⟩ => (onBarrier_eq hreach _).trans (txbDo_takes htakes)
  case passed =>
    refine completes_of (fun _ => rfl) (fun u s ⟨hreach, hgood, hphase⟩ => (onBarrier_eq hreach _).trans ?_) fun u s =>
      acquireFree_queue s u.g.core _
    simp only [hgood, bne_iff_ne.mpr hphase, Bool.false_eq_true, if_false, if_true]
  case parks =>
    refine completes_of (fun _ => rfl) (fun u s ⟨hreach, hgood, hphase⟩ => (onBarrier_eq hreach _).trans ?_) fun u s => rfl
    simp only [hgood, hphase, bne_self_eq_false, Bool.false_eq_true, if_false]

end Sys2Proof.Laws
end

section
/-! PROOFS. The matrix engine, and what holds a fragment (R190, R195, R227 to R230, R245, R254, R258, R269, R302): grants, passes and
operand reads; `wait`, `fence` and `sleep`; and the units that an acquire of their fragment holds. -/
namespace Sys2Proof.Laws
open Sys2Proof.Machine Sys2Proof.Safety

/-! ## Grants, passes and operand reads (R190, R227 to R230, R302) -/

section Grants
variable {s : State} {cl : Nat}

/-- While the array has work for 4 of its cycles no pass is granted (R229). -/
theorem grantPass_busy (hbusy : 192 ≤ s.engineWork cl) : s.grantPass cl = s := by
  unfold State.grantPass
  rw [if_pos (by simp [hbusy])]

/-- An engine cycle has one grant at most (R227). -/
theorem grantPass_once (honce : (s.cluster cl).granted = some (s.engineCycle cl)) : s.grantPass cl = s := by
  unfold State.grantPass
  rw [if_pos (by simp [honce])]

/-- The operations that join the first entry of the arbiter, in its order (R228). -/
def passTaken (s : State) (lead : Op) (rest : List Op) : List Op :=
  rest.foldl (fun (t : List Op) o => if s.joinsPass lead o t then t ++ [o] else t) [lead]

/-- The quarters that a pass's operations take of the array (R218). -/
def passQuarters (taken : List Op) : Nat := taken.foldl (fun (n : Nat) o => n + o.quarters) 0

/-- The pass that a grant makes (R228, R229). -/
def passOf (s : State) (cl : Nat) (lead : Op) (taken : List Op) : Pass :=
  { id := s.nextId, cluster := cl, ops := taken.map Op.id, quarters := passQuarters taken, pairs := lead.pairs,
    endAt := max (s.engineEnd cl) (48 * s.engineTime cl) + passQuarters taken * lead.pairs * 1000 }

/-- A grant makes the pass, spends allowance for each of its units and marks the cycle (R227, R228, R302). -/
theorem grantPass_grants {lead : Op} {rest : List Op} (hidle : s.engineWork cl < 192)
    (hfirst : (s.cluster cl).granted ≠ some (s.engineCycle cl)) (harb : s.arbiter cl = lead :: rest) :
    s.grantPass cl =
      ({ withPower (fun p => { p with clu := p.clu.modify cl fun k => { k with
            credit := clampCredit (k.credit - ((passTaken s lead rest).length * Config.passWeight lead.pairs : Nat)),
            granted := some (s.engineCycle cl) } }) s with
          passes := s.passes ++ [passOf s cl lead (passTaken s lead rest)], nextId := s.nextId + 1 } : State).mapOps fun o =>
        if (passTaken s lead rest).any fun p => p.id == o.id then { o with grant := .granted s.nextId } else o := by
  unfold State.grantPass
  rw [if_neg (by simp [hfirst]; omega), harb]
  dsimp only [State.spend]
  rw [List.modify_modify_eq]
  rfl

theorem benchGrant_of {t : State} (ht : (s.markReady cl).grantPass cl = t) : Steps (.benchGrant cl) s t :=
  steps_of (execBenchGrant cl s) rfl rfl ht

end Grants

section Passes
variable {s : State} {cl : Nat} {p : Pass}

theorem passComplete_early (hp : (s.passes.find? fun q => q.cluster == cl) = some p) (hearly : 48 * s.engineTime cl < p.endAt) :
    Steps (.mmaPassComplete cl) s s := by
  refine steps_of (execMmaPassComplete cl s) rfl rfl ?_
  rw [hp]
  exact if_pos hearly

theorem passComplete_due (hp : (s.passes.find? fun q => q.cluster == cl) = some p) (hdue : p.endAt ≤ 48 * s.engineTime cl) :
    Steps (.mmaPassComplete cl) s
      (p.ops.foldl (fun (t : State) o => t.finishMma o) { s with passes := s.passes.filter fun q => q.id != p.id }) := by
  refine steps_of (execMmaPassComplete cl s) rfl rfl ?_
  rw [hp]
  exact if_neg (by omega)

theorem operandRead_of {o k n : Nat} {q : Op} (hop : s.op? o = some q) (hgrant : q.grant = .granted n) :
    Steps (.engineOperandRead o k) s (s.readOperand q k) := by
  refine steps_of (execEngineOperandRead o k s) rfl rfl ?_
  simp only [hop, hgrant]

end Passes

/-- Settles O25: a grant by the work left, the cycle and the arbiter; a pass by when its work is done; and an operand read. -/
theorem matrixEngineSteps : Obligations.MatrixEngineSteps := by
  unfold Obligations.MatrixEngineSteps
  refine ⟨fun s cl hbusy => benchGrant_of (grantPass_busy hbusy), fun s cl honce => benchGrant_of (grantPass_once honce), ?grants,
    fun s cl p => passComplete_early, fun s cl p => passComplete_due, fun s o k q n => operandRead_of⟩
  intro s cl lead rest hidle hfirst harb
  exact benchGrant_of (grantPass_grants hidle hfirst harb)

/-! ## `wait` (R195, R230, R254) -/

/-- A `wait` that holds no longer, and names mx, matches `mma`s (R230). -/
theorem waitHolds_matching {f : WF} {u : Frag} (hdone : ¬waitsFor f u.g) (hmx : f.mx.toNat ≠ 15) : waitHolds u.g f = false ∧ (f.mx.toNat == 15) = false :=
  ⟨Bool.eq_false_iff.mpr fun h => hdone ((waitHolds_iff u.g f).mp h), by simpa using hmx⟩

/-! ## `fence` (R258) -/

theorem fenceHeld_eq (u : Frag) (s : State) :
    (if u.m.modx.ord.toNat == 0 || u.isRel then u.unreleased s u.m.modx.scope.toNat else u.unperformed s) = fenceHeld u s := by
  rw [fenceRel_eq]
  rfl

/-! ## Acquires that have not crossed (R245) -/

section Held
variable {s : State} {g : Machine.Group} {e : Nat} {p : Parts} {i : Instr}

/-- Units of a list access memory if the list says so of all of them. -/
theorem accessesMemory_of_mem {l : List Instr} (hall : (l.all fun i => i.parts.all accessesMemory) = true) (hi : i ∈ l)
    (hp : i.parts = some p) : accessesMemory p = true := by
  have hmem := List.all_eq_true.mp hall i hi
  rw [hp] at hmem
  exact hmem

/-- An outstanding acquire of the fragment holds its units that access memory (R245). -/
theorem unitHeld_of_acquire (hmem : accessesMemory p = true)
    (hacq : ∃ o ∈ s.ops, o.g = g.id ∧ o.acq = true ∧ o.kind.isAccess = true ∧ (o.mask &&& (g.entry e).mask) ≠ 0) :
    s.unitHeld g e p = true := by
  obtain ⟨o, ho, hgroup, hacq, hkind, hlanes⟩ := hacq
  have hlisted : o ∈ s.accessesOf g.id (g.entry e).mask := by
    refine List.mem_filter.mpr ⟨ho, ?_⟩
    rw [hgroup, beq_self_eq_true, bne_iff_ne.mpr hlanes]
    exact hkind
  unfold State.unitHeld
  rw [hmem, List.any_eq_true.mpr ⟨o, hlisted, hacq⟩, Bool.and_self, Bool.or_true]

/-- A legal unit that is held, and is no stop site that matters, changes nothing. -/
theorem issue_held (hunit : AtUnit s g e) (hp : i.parts = some p) (hlegal : p.check = none)
    (hsite : (p.mods.stop && s.stopMatters g e) = false) (hheld : s.unitHeld g e p = true) (body : Frag → State → Res) :
    issue i s body = .next { s with issued := false } := by
  have hcheck : g.unitCheck e p = none := by simp only [Group.unitCheck, hlegal]
  have hnowait : s.checkWaits g p = false := by
    unfold State.checkWaits
    rw [hlegal]
    split <;> simp
  have hchecked : ({ s with issued := false } : State).checked i g e body = { s with issued := false } := by
    unfold State.checked
    rw [hp]
    dsimp only
    rw [show ({ s with issued := false } : State).checkWaits g p = false from hnowait, if_neg (by decide), hcheck]
    unfold State.legalUnit
    dsimp only
    rw [show ({ s with issued := false } : State).unitHeld g e p = true from hheld, if_pos rfl]
    exact if_neg (by rw [show (p.mods.stop && ({ s with issued := false } : State).stopMatters g e) = false from hsite]; decide)
  unfold issue
  rw [issuing_of hunit]
  dsimp only
  refine congrArg Host.Outcome.next ((atUnit_of hunit (fun s0 => s0.checked i g e body) ?_).trans hchecked)
  rw [hchecked]
  exact Nat.le_max_right _ _

end Held

/-- Settles O26: `wait` by its counters and the poison that it matches, `fence` by what it waits for, `sleep` by its operand, and the
units that an acquire holds. -/
theorem waitsAndFences : Obligations.WaitsAndFences := by
  unfold Obligations.WaitsAndFences
  refine ⟨fun m f => ⟨?holds, ?ends, ?clean, ?poisoned⟩, fun m f => ⟨?fenceWaits, ?fenceCrosses⟩, fun m f => ⟨?sleepZero, ?sleeps⟩, ?held⟩
  case holds => exact waits_of (fun _ => rfl) fun u s hwaits => if_pos ((waitHolds_iff _ _).mpr hwaits)
  case ends =>
    refine completes_of (fun _ => rfl) (fun u s ⟨hdone, hmx⟩ => ?_) fun _ _ => rfl
    rw [if_neg (by rwa [waitHolds_iff]), if_pos (by simpa using hmx)]
  case clean =>
    refine completes_of (fun _ => rfl) (fun u s ⟨hdone, hmx, hclean⟩ => ?_) fun _ _ => rfl
    obtain ⟨hgoes, hnames⟩ := waitHolds_matching hdone hmx
    simp only [hgoes, hnames, hclean, Bool.false_eq_true, if_false]
    rfl
  case poisoned =>
    intro s g e p hclear hdone hmx hpoison t hroom
    obtain ⟨hgoes, hnames⟩ := waitHolds_matching (u := frag g e p) hdone hmx
    refine issue_trap hclear ?_ hroom
    simp only [hgoes, hnames, Bool.false_eq_true, if_false]
    exact if_pos hpoison
  case fenceWaits => exact waits_of (fun _ => rfl) fun u s hheld => if_pos ((fenceHeld_eq u s).trans hheld)
  case fenceCrosses =>
    refine completes_of (fun _ => rfl) (fun u s hfree => ?_) fun u s => ?_
    · dsimp only
      rw [fenceHeld_eq, if_neg (by rw [hfree]; decide), fenceRel_eq, fenceAcq_eq]
    · dsimp only
      have hrel : (if fenceRel u then s.release u.g.core u.m.modx.scope.toNat else s).jqueue = s.jqueue := by
        split
        · exact release_queue _ _ _
        · rfl
      split
      · exact (acquireFree_queue _ _ _).trans hrel
      · exact hrel
  case sleepZero => exact completes_of (fun _ => rfl) (fun u s hzero => if_pos (by simp [hzero])) fun _ _ => rfl
  case sleeps =>
    refine completes_of (fun _ => rfl) (fun u s hsome => if_neg ?_) fun _ _ => rfl
    simpa [← BitVec.toNat_inj] using hsome
  case held =>
    intro m r f i hi s g e p hunit hp hlegal hsite hacq
    obtain ⟨body, hexec⟩ := exec_eq_issue hp s
    rw [hexec]
    exact issue_held hunit hp hlegal hsite (unitHeld_of_acquire (accessesMemory_of_mem rfl hi hp) hacq) body

end Sys2Proof.Laws
end

section
/-! PROOFS. Accesses in flight (R189, R196, R200, R201, R203, R205, R241, R243, R356, R357): lanes that perform, and what a relaxed store
that lands changes for each observer; a peer's answer, its timeout and its own access; and failures after issue. -/
namespace Sys2Proof.Laws
open Sys2Proof.Machine Sys2Proof.Safety

/-! ## Lanes perform (R201, R241) -/

section Lanes
variable {s : State} {o : Nat} {lanes : Word} {q : Op}

/-- What answers into registers is an access, and no store or `red`. -/
theorem answers_kind {k : OpKind} (h : answers k = true) : k.isAccess = true ∧ k.silent = false := by
  cases k with
  | atom aop r uni result => cases result <;> first | exact ⟨rfl, rfl⟩ | cases h
  | load | tset => exact ⟨rfl, rfl⟩
  | _ => cases h

theorem silent_cases {k : OpKind} (h : k.silent = true) : k = .store ∨ ∃ aop r uni, k = .atom aop r uni false := by
  cases k with
  | store => exact .inl rfl
  | atom aop r uni result => cases result <;> first | exact .inr ⟨aop, r, uni, rfl⟩ | cases h
  | _ => cases h

/-- A load waits while its core's inbound FIFO is full (R347). -/
theorem loadComplete_full (hop : s.op? o = some q) (hans : answers q.kind = true) (hfull : s.inFull q.core = true) :
    Steps (.loadComplete o lanes) s s := by
  refine steps_of (execLoadComplete o lanes s) rfl rfl ?_
  simp only [hop, answers_kind hans, hfull, Bool.not_true, Bool.false_or, Bool.or_true, if_true]

theorem loadComplete_performs (hop : s.op? o = some q) (hans : answers q.kind = true) (hroom : s.inFull q.core = false) :
    Steps (.loadComplete o lanes) s ((s.loadLanes o q.core (lanesOf lanes)).endAccess o) := by
  refine steps_of (execLoadComplete o lanes s) rfl rfl ?_
  simp only [hop, answers_kind hans, hroom, Bool.not_true, Bool.or_self, Bool.false_eq_true, if_false]

theorem storePerform_performs (hop : s.op? o = some q) (hsilent : q.kind.silent = true) :
    Steps (.storePerform o lanes) s ((s.performLanes o (lanesOf lanes)).endAccess o) := by
  refine steps_of (execStorePerform o lanes s) rfl rfl ?_
  rw [hop, Option.map_some]
  rcases silent_cases hsilent with hk | ⟨aop, r, uni, hk⟩
  all_goals rw [hk]

end Lanes

/-! ## Peers answer, or do not (R205, R356, R357) -/

section Peers
variable {s : State} {o lane : Nat} {q : Op} {a : LaneAcc} {data : List Byte}

/-- A peer that is awaited can answer. -/
theorem awaitsPeer_answerable {n : Nat} (h : AwaitsPeer s q lane a n) : s.answerable q a = true := by
  obtain ⟨p, l, hway, hlink, hup⟩ := h.port
  unfold State.answerable
  simp [h.sent, h.kept, hway, hlink, hup, h.inTime]

/-- The answer of a peer that is awaited enters its lane (R356). -/
theorem remoteLane_awaited {poison : Bool} (hop : s.op? q.id = some q) (h : AwaitsPeer s q lane a data.length) :
    s.remoteLane q.id lane data poison = answered q lane data poison s := by
  have hfits : (!q.kind.silent && (data.length != q.size || s.inFull q.core)) = false := by
    cases hs : q.kind.silent with
    | true => rfl
    | false =>
      obtain ⟨hlen, hroom⟩ := h.size hs
      simp [hlen, hroom]
  unfold State.remoteLane answered
  simp only [hop, h.lane, awaitsPeer_answerable h, h.ready, hfits, Bool.not_true, Bool.or_self, Bool.false_eq_true, if_false]
  cases q.kind.silent <;> rfl

theorem remoteTimeout_fails (hop : s.op? o = some q) : Steps (.remoteTimeout o lane) s
    (s.failLanes o (fun a => a.lane == lane && a.sent q && a.way.at_ + 1000 * s.lto ≤ s.time) causeRemote) := by
  refine steps_of (execRemoteTimeout o lane s) rfl rfl ?_
  rw [hop]

end Peers

/-! ## A peer's own access (R356) -/

section Served
variable {s : State} {pa p : Nat}

/-- An access of a peer that is served (R356): an atomic is one of R206 at its size, and aligned. -/
def PeerLegal (pa : Nat) : PeerAccess → Prop
  | .atomic aop n _ _ => aop ≤ 10 ∧ (n = 4 ∨ (n = 8 ∧ aop ≠ 1)) ∧ pa % n = 0
  | q => peerSize q ≠ 0

/-- An access that is legal, over a live port and within installed memory, is served. -/
theorem remoteReceive_of {q : PeerAccess} {t : State} (hport : OnPort s p) (hlegal : PeerLegal pa q)
    (hmem : pa + peerSize q ≤ Config.memTop) (ht : s.peerAccess pa q = t) : Steps (.remoteAccessReceive q pa p) s (t.sendOver [some p]) := by
  refine steps_of (execRemoteAccessReceive q pa p s) rfl rfl ?_
  have hlive : (s.links[p]?).any Link.live = true := hport
  subst ht
  refine if_neg ?_
  cases q with
  | atomic aop n v v2 =>
    obtain ⟨haop, hsize, halign⟩ := hlegal
    have hsize : (n == 4 || n == 8 && aop != 1) = true := by simpa using hsize
    simp [hlive, haop, hsize, halign, hmem]
  | read n =>
    have hsome : peerSize (.read n) ≠ 0 := hlegal
    simp [hlive, hsome, hmem]
  | write bs poison =>
    have hsome : peerSize (.write bs poison) ≠ 0 := hlegal
    simp [hlive, hsome, hmem]

theorem peerRead_poisoned {n : Nat} (h : s.memPoisoned pa n = true) :
    s.peerAccess pa (.read n) = { s with reply := some (.poisoned (List.replicate n 0xFF)) } := by
  unfold State.peerAccess
  simp only [h, if_true]
  rfl

theorem peerRead_data {n : Nat} (h : s.memPoisoned pa n = false) :
    s.peerAccess pa (.read n) = { s with reply := some (.data (s.peekN pa n)) } := by
  unfold State.peerAccess
  simp only [h, Bool.false_eq_true, if_false]

theorem peerAtomic_value {aop n v v2 : Nat} (h : s.memPoisoned pa n = false) : s.peerAccess pa (.atomic aop n v v2) =
    { (s.homeRmw pa n fun old => atomNew aop n old v v2).2 with
      reply := some (.value (s.homeRmw pa n fun old => atomNew aop n old v v2).1) } := by
  unfold State.peerAccess
  simp only [h, Bool.false_eq_true, if_false]

end Served

/-! ## Failures after issue (R196, R200) -/

section Failures
variable {s : State} {o : Nat} {lanes : Word} {q : Op}

theorem dataFault_access {cause : Byte} (hop : s.op? o = some q) (haccess : q.kind.isAccess = true) : Steps (.dataFaultDetect o lanes cause) s
    ((s.failLanes o (fun a => laneIn lanes a.lane) cause.toNat).doom o (if cause.toNat = causeRemote then lanes else 0)) := by
  refine steps_of (execDataFaultDetect o lanes cause s) rfl rfl ?_
  have hdoomed : (if cause.toNat = causeRemote then lanes else 0) = if cause.toNat == causeRemote then lanes else 0 := by
    simp only [beq_iff_eq]
  rw [hdoomed, hop]
  dsimp only
  cases hk : q.kind with
  | load | store | atom | tset => rfl
  | _ =>
    rw [hk] at haccess
    cases haccess

theorem dataFault_commits (hop : s.op? o = none) : Steps (.dataFaultDetect o lanes (BitVec.ofNat 8 causeRemote)) s (s.doom o lanes) := by
  refine steps_of (execDataFaultDetect o lanes (BitVec.ofNat 8 causeRemote) s) rfl rfl ?_
  rw [hop]
  rfl

theorem dataFault_copy (hop : s.op? o = some q) (hcopy : isCopy q.kind = true) :
    Steps (.dataFaultDetect o lanes (BitVec.ofNat 8 causeRemote)) s (s.modOp o fun p =>
      { p with sectors := p.sectors.zipIdx.map fun (c : Sector × Nat) =>
          if c.1.landed || c.1.fail.isSome || !laneIn lanes (c.2 % 32) then c.1 else { c.1 with fail := s.sectorPeer p c.2 } }) := by
  refine steps_of (execDataFaultDetect o lanes (BitVec.ofNat 8 causeRemote) s) rfl rfl ?_
  rcases copy_cases hcopy with ⟨a, b, hk⟩ | hk
  all_goals
    simp only [hop, hk]
    rfl

end Failures

/-- Settles O39: lanes of loads and of stores, a peer's answer and timeout, the three accesses of a peer, and the three failures. -/
theorem accessesPerform : Obligations.AccessesPerform := by
  unfold Obligations.AccessesPerform
  refine ⟨fun s o lanes q hop hans => ⟨loadComplete_full hop hans, loadComplete_performs hop hans⟩,
    fun s o lanes q => storePerform_performs, fun s q lane a data poison hop hpeer => ?answers, fun s o lane q => remoteTimeout_fails,
    fun s pa p data poison hport hsome hmem => ?writes, fun s pa p n hport hsome hmem => ⟨fun hpoison => ?poisoned, fun hgood => ?reads⟩,
    fun s pa p aop n v v2 hport haop hsize halign hmem hgood => ?atomics, fun s o lanes cause q => dataFault_access,
    fun s o lanes => dataFault_commits, fun s o lanes q => dataFault_copy⟩
  case answers => exact steps_of (execRemoteAccessComplete q.id lane data poison s) rfl rfl (remoteLane_awaited hop hpeer)
  case writes => exact remoteReceive_of hport (mt List.length_eq_zero_iff.mp hsome) hmem rfl
  case poisoned => exact remoteReceive_of hport hsome hmem (peerRead_poisoned hpoison)
  case reads => exact remoteReceive_of hport hsome hmem (peerRead_data hgood)
  case atomics => exact remoteReceive_of hport ⟨haop, hsize, halign⟩ hmem (peerAtomic_value hgood)

/-! ## A relaxed store lands (R189, R203, R241, R243) -/

section Landing
variable {s : State} {q : Op} {l k : Nat} {a : LaneAcc}

/-- The lines of a write are plain, counted from its first (R182, log 57). -/
theorem lines_plain {n : Nat} (hplain : ∀ m, k / 64 ≤ m → m ≤ (k + n - 1) / 64 → s.heldAs m = none) :
    ∀ i, i < (k + n - 1) / 64 + 1 - k / 64 → s.heldAs (k / 64 + i) = none :=
  fun i hi => hplain _ (by omega) (by omega)

/-- A lane of a relaxed store to plain lines here performs as its core's write of its bytes, and is done (R203, R241). -/
theorem performLanes_store (hop : s.op? q.id = some q) (hstore : q.kind = .store) (hrel : q.rel = false) (hready : s.readyLane q l = some a)
    (htgt : a.tgt = .bytes k none) (hlen : a.data.length = q.size)
    (hplain : ∀ m, k / 64 ≤ m → m ≤ (k + q.size - 1) / 64 → s.heldAs m = none) (hk : k < 2 ^ 66)
    (hbar : (s.txbs.all fun b => k + q.size ≤ b || b + 16 ≤ k) = true) :
    s.performLanes q.id [l] = (s.performN q.core k false none a.data).modOp q.id fun p =>
      p.setLane a.lane fun b => { b with st := .done } := by
  have hcross : s.cross q.id = s := by
    unfold State.cross
    simp only [hop, hrel, Bool.false_and, Bool.false_eq_true, if_false]
  have hnear : a.isRemote q = false := by
    unfold LaneAcc.isRemote
    rw [htgt]
    rfl
  have hlane : s.performLane q a = s.storeLane q a := by
    unfold State.performLane State.accessLane
    simp only [htgt, hstore, if_neg (Nat.not_le.mpr hk)]
  unfold State.performLanes
  simp only [hop, hready, hcross, hnear, Bool.false_eq_true, if_false, State.performLanes]
  rw [hlane, storeLane_eq s q a k hrel htgt (.inr (by rw [hlen]; exact lines_plain hplain)) hbar, if_neg (Nat.not_le.mpr hk)]

end Landing

section Written
variable {s : State} {bs : List Byte} {c k j : Nat}

/-- The host reads every byte that a write to plain lines leaves out as before: a line held in another form has no byte of it. -/
theorem performN_peek (hplain : ∀ m, k / 64 ≤ m → m ≤ (k + bs.length - 1) / 64 → s.heldAs m = none)
    (hj : j < k ∨ k + bs.length ≤ j) : (s.performN c k false none bs).peek j = s.peek j := by
  refine peek_congr (performN_rest _ _ _ _ _ _).2.2 (fun _ => performN_shared _ _ _ _ _ _ hj) fun hheld i hi => ?_
  have hline : ¬(k / 64 ≤ j / 64 ∧ j / 64 ≤ (k + bs.length - 1) / 64) := fun h => hheld (hplain _ h.1 h.2)
  exact performN_shared _ _ _ _ _ _ (by omega)

/-- The core that writes reads its bytes at once (R243). -/
theorem performN_observeN (hwf : s.mem.wf = true) : (s.performN c k false none bs).observeN c k bs.length = bs :=
  observeN_eq _ _ _ _ _ rfl fun j hlo hhi => by rw [performN_observe _ _ _ _ _ _ hwf, if_pos ⟨hlo, hhi⟩]

/-- Another core's view changes nowhere, if no byte written is one of scratchpad (R241, R243). -/
theorem performN_unseen {d : Nat} (hwf : s.mem.wf = true) (hglobal : ∀ i, i < bs.length → isSpadKey (k + i) = false) (hd : d ≠ c) :
    (s.performN c k false none bs).observe d j = s.observe d j := by
  refine performN_other _ _ _ _ _ _ _ hwf ?_
  rcases Nat.eq_zero_or_pos bs.length with hnone | hsome
  · exact .inl (by omega)
  · exact .inr ⟨hglobal 0 hsome, hd⟩

/-- Every core reads bytes of scratchpad at once (R189, R241). -/
theorem performN_seen {d : Nat} (hwf : s.mem.wf = true) (hspad : ∀ i, i < bs.length → isSpadKey (k + i) = true) :
    (s.performN c k false none bs).observeN d k bs.length = bs := by
  refine observeN_eq _ _ _ _ _ rfl fun j hlo hhi => ?_
  have hkey : isSpadKey k = true := hspad 0 (by omega)
  have hfar : 2 ^ 48 ≤ k := of_decide_eq_true (Bool.and_eq_true_iff.mp hkey).1
  rw [performN_spad hkey, putN_observe _ _ _ _ _ hfar hwf, if_pos ⟨hlo, hhi⟩]

end Written

/-- Settles O60: what the write of the lane's bytes changes for its core, for other cores, for the host and in memory. -/
theorem storeLands : Obligations.StoreLands := by
  unfold Obligations.StoreLands
  intro s q l a k hop hstore hrel hready htgt hlen hplain hk hbar hwf t
  have ht : t = (s.performN q.core k false none a.data).modOp q.id fun p => p.setLane a.lane fun b => { b with st := .done } :=
    performLanes_store hop hstore hrel hready htgt hlen hplain hk hbar
  rw [ht]
  rw [← hlen] at hplain ⊢
  refine ⟨?own, fun j hj => ⟨fun d => ?others, ?host⟩, fun hglobal d j hd => ?unseen, fun hspad d => ?seen, ?canonical, ?groups⟩
  case own => exact performN_observeN hwf
  case others => exact performN_other _ _ _ _ _ _ _ hwf (.inl hj)
  case host => exact performN_peek hplain hj
  case unseen => exact performN_unseen hwf hglobal hd
  case seen => exact performN_seen hwf hspad
  case canonical => exact performN_wf _ _ _ _ _ _ hwf
  case groups => exact (performN_rest _ _ _ _ _ _).2.1

end Sys2Proof.Laws
end

section
/-! PROOFS. Links, interrupts held off, invalidations, notifications and errors (R183, R308, R309, R353, R355, R357, R358, R364). -/
namespace Sys2Proof.Laws
open Sys2Proof.Machine Sys2Proof.Safety

/-! ## Ports (R355, R357, R358) -/

section Ports
variable {s : State} {p : Nat} {l : Link}

/-- A port whose flit has failed 8 retries goes down, and what it carried takes another (R355, R357, log 52). -/
theorem linkDown_failed (hport : s.links[p]? = some l) (hup : l.up = true) (hfailed : 9 ≤ l.retries) :
    Steps (.linkDown p) s ((withLink p Link.down s).rePort (some p)) := by
  refine steps_of (execLinkDown p s) rfl rfl ?_
  simp only [hport, Option.any_some, hup, hfailed, decide_true, Bool.and_self, if_true]
  rfl

theorem linkDown_sound (hport : s.links[p]? = some l) (hsound : l.up = false ∨ l.retries < 9) : Steps (.linkDown p) s s := by
  refine steps_of (execLinkDown p s) rfl rfl ?_
  have hstays : (l.up && decide (9 ≤ l.retries)) = false := by
    rcases hsound with hdown | hfew
    · rw [hdown, Bool.false_and]
    · rw [decide_eq_false (by omega), Bool.and_false]
  simp only [hport, Option.any_some, hstays, Bool.false_eq_true, if_false]

variable {enc admitted : Bool}

/-- A port that is up stays as it is, and a peer that is not admitted brings none up with link encryption (R358). -/
theorem linkUp_refused (hport : s.links[p]? = some l) (hrefused : l.up = true ∨ (enc = true ∧ admitted = false)) :
    Steps (.linkUp p enc admitted) s s := by
  refine steps_of (execLinkUp p enc admitted s) rfl rfl ?_
  have hstays : (l.up || (enc && !admitted)) = true := by simpa using hrefused
  simp only [hport, Option.any_some, hstays, if_true]

/-- A port after it has come up: with link encryption its keys are those of a new exchange (log 13). -/
def cameUp (p : Nat) (enc admitted : Bool) (l : Link) : Link :=
  if enc then { l with
    up := true, enc := true, admitted := admitted, retries := 0, exch := l.exch + 1, rxNonce := 0, txNonce := 0,
    rxKey := Config.linkKey p (l.exch + 1) false, txKey := Config.linkKey p (l.exch + 1) true }
  else { l with up := true, enc := false, admitted := admitted, retries := 0, rxNonce := 0, txNonce := 0 }

theorem linkUp_admitted (hport : s.links[p]? = some l) (hdown : l.up = false) (hadmitted : enc = false ∨ admitted = true) :
    Steps (.linkUp p enc admitted) s ((withLink p (cameUp p enc admitted) s).rePort none) := by
  refine steps_of (execLinkUp p enc admitted s) rfl rfl ?_
  have hrises : (l.up || (enc && !admitted)) = false := by
    rw [hdown]
    rcases hadmitted with henc | hpeer
    · rw [henc]; rfl
    · rw [hpeer, Bool.not_true, Bool.and_false, Bool.or_self]
  simp only [hport, Option.any_some, hrises, Bool.false_eq_true, if_false]
  cases enc <;> rfl

end Ports

/-! ## Invalidations (R183) -/

theorem xinvComplete_of {s t : State} {v : Nat} {rest : List Nat} (holdest : s.xinvq = v :: rest)
    (ht : s.finishXinv rest (xinvRange v).1 (xinvRange v).2.1 (xinvRange v).2.2 = t) : Steps .xinvComplete s t := by
  refine steps_of (execXinvComplete s) rfl rfl ?_
  rw [holdest]
  exact ht

/-! ## Notifications (R308, R309) -/

section Notifications
variable {s t : State} {c : Nat}

theorem throttle_of (ht : s.notify c = t) : Steps (.throttleNotification c) s t :=
  steps_of (execThrottleNotification c s) rfl rfl ht

theorem notify_nothing (hdue : (s.ctx c).notifyDue = false) (howed : s.notifyOwed c = false) : s.notify c = s := by
  simp only [State.notify, hdue, howed, Bool.not_false, Bool.true_or, Bool.false_eq_true, if_false, if_true, ite_self]

/-- A notification that is owed to a context that lives, and for which none waits, goes to the groups that it could enter (R308). -/
theorem notify_owed (hlives : (s.ctx c).dying = false) (hdue : (s.ctx c).notifyDue = false) (hqueue : (s.ctx c).queued = [])
    (howed : s.notifyOwed c = true) (hgroups : s.notifiable c ≠ []) : s.notify c =
      if (s.notifiable c).all fun g => s.isShed (s.prioOf g) then
        (s.event 0x83 c 0 ((s.notifiable c).foldl (fun (m : Nat) g => max m (s.prioOf g)) 0)).modCtx c fun x =>
          { x with queued := ((s.notifiable c).map s.prioOf).eraseDups, notified := some s.time }
      else match s.notifyTarget c with
        | some p => s.deliver c p.1 p.2
        | none => s := by
  have hsome : (s.notifiable c).isEmpty = false := List.isEmpty_eq_false_iff.mpr hgroups
  simp only [State.notify, hlives, hdue, hqueue, howed, hsome, List.isEmpty_nil, Bool.not_true, Bool.or_self, Bool.false_eq_true, if_false]
  rfl

theorem notify_delivers {p : Machine.Group × Nat} (hlives : (s.ctx c).dying = false) (hdue : (s.ctx c).notifyDue = false)
    (hqueue : (s.ctx c).queued = []) (howed : s.notifyOwed c = true)
    (hlive : ((s.notifiable c).all fun g => s.isShed (s.prioOf g)) = false) (htarget : s.notifyTarget c = some p) :
    s.notify c = s.deliver c p.1 p.2 := by
  have hgroups : s.notifiable c ≠ [] := fun hnone => by
    rw [hnone] at hlive
    cases hlive
  rw [notify_owed hlives hdue hqueue howed hgroups, if_neg (by rw [hlive]; decide), htarget]

end Notifications

/-! ## Errors of memory, registers, entries and queues (R353, R364) -/

section Errors
variable {s : State}

theorem softError_memory {pa : Nat} (hpa : pa < Config.memTop) :
    Steps (.softError (.memory pa)) s ((s.poisonMem (pa / 64)).countError false) := by
  refine steps_of (execSoftError (.memory pa) s) rfl rfl ?_
  exact if_pos (decide_eq_true hpa)

theorem softError_scratchpad {core line : Nat} (hcore : core < 384) (hline : line < 8192) :
    Steps (.softError (.scratchpad core line)) s ((s.poisonSpad (core * 8192 + line)).countError false) := by
  refine steps_of (execSoftError (.scratchpad core line) s) rfl rfl ?_
  exact if_pos (by simp [hcore, hline])

theorem softError_queue {r q k : Nat} {x : Region} (hregion : s.region? r = some x) (hrecord : k < (x.queue q).length) :
    Steps (.softError (.queue r q k)) s
      ((s.modRegion r fun y => { y with qbad := (q, k) :: y.qbad.filter (· != (q, k)) }).countError false) := by
  refine steps_of (execSoftError (.queue r q k) s) rfl rfl ?_
  simp only [hregion, Option.map_some, hrecord, decide_true, Option.getD_some, if_true]

end Errors

/-- Settles O52: each step of a port, an invalidation by whether it waits, a notification by what is owed and to whom, and each
place of an error. -/
theorem linkAndErrorSteps : Obligations.LinkAndErrorSteps := by
  unfold Obligations.LinkAndErrorSteps
  refine ⟨fun s p good => ?flit, fun s p l hport => ⟨fun h => linkDown_failed hport h.1 h.2, linkDown_sound hport⟩,
    fun s p l enc admitted hport => ⟨linkUp_refused hport, linkUp_admitted hport⟩, fun s p => ?renewal, fun s => ?holdoff,
    fun s v rest holdest => ⟨fun hwaits => ?xinvWaits, fun hfree => ?xinvDone⟩,
    fun s c hdue howed => throttle_of (notify_nothing hdue howed),
    fun s c p hlives hdue hqueue howed hlive htarget => throttle_of (notify_delivers hlives hdue hqueue howed hlive htarget),
    fun s c hlives hdue hqueue howed hgroups hshed => throttle_of ((notify_owed hlives hdue hqueue howed hgroups).trans (if_pos hshed)),
    fun s => ?corrected, fun s pa => softError_memory, fun s core line => softError_scratchpad, fun s r x q k => softError_queue,
    fun s g h file n _ => ?register, fun s g h e _ => ?entry⟩
  case flit => exact steps_of (execFlitReceive p good s) rfl rfl rfl
  case renewal => exact steps_of (execLinkKeyRenewal p s) rfl rfl rfl
  case holdoff => exact steps_of (execMsixHoldoffExpiry s) rfl rfl rfl
  case xinvWaits => exact xinvComplete_of holdest (if_pos hwaits)
  case xinvDone => exact xinvComplete_of holdest (if_neg (Bool.eq_false_iff.mp hfree))
  case corrected => exact steps_of (execSoftError .corrected s) rfl rfl rfl
  case register => exact steps_of (execSoftError (.register g file n) s) rfl rfl rfl
  case entry => exact steps_of (execSoftError (.entry g e) s) rfl rfl rfl

end Sys2Proof.Laws
end

section
/-! PROOFS. Stores and atomics (R197 to R207): each is an access, whose wait, issue and faults `accesses_of` gives. -/
namespace Sys2Proof.Laws
open Sys2Proof.Machine Sys2Proof.Safety

section Accesses
variable {i : Instr} {f : MF} {size : Nat}

theorem accesses_of_store {only : Bool} (hexec : ∀ s, exec i s = issue i s fun u s => u.store s f size only) :
    Accesses i (storeAcc f size only) fun _ g => g :=
  accesses_of fun s _ _ _ hclear => (hexec s).trans (issue_congr hclear (store_eq _ _ f size only))

/-- An atomic with a result zeroes the unselected lanes of it under Z, as a load does. -/
theorem accesses_of_atom {wide : Bool} (hexec : ∀ s, exec i s = issue i s fun u s => u.atomic s f size true)
    (hwide : (size == 8) = wide) : Accesses i (atomAcc f size true) (zeroing wide f.data.toNat) :=
  accesses_of fun s _ _ _ hclear => (hexec s).trans (issue_congr hclear (atomic_eq _ _ f size true wide hwide))

/-- An atomic without a result writes no register. -/
theorem accesses_of_red (hexec : ∀ s, exec i s = issue i s fun u s => u.atomic s f size false) :
    Accesses i (atomAcc f size false) fun _ g => g :=
  accesses_of fun s _ _ _ hclear => (hexec s).trans (issue_congr hclear (atomic_eq _ _ f size false _ rfl))

end Accesses

/-- Settles O19: the stores by size and space, and the atomics by size, with a result (`atom`) and without (`red`). -/
theorem storesAndAtomicsIssue : Obligations.StoresAndAtomicsIssue := by
  unfold Obligations.StoresAndAtomicsIssue
  refine fun m f => ⟨?st8, ?st16, ?stB32, ?stB64, ?stsB32, ?stsB64, ?atom32, ?atom64, ?red32, ?red64⟩
  case st8 => exact accesses_of_store fun _ => rfl
  case st16 => exact accesses_of_store fun _ => rfl
  case stB32 => exact accesses_of_store fun _ => rfl
  case stB64 => exact accesses_of_store fun _ => rfl
  case stsB32 => exact accesses_of_store fun _ => rfl
  case stsB64 => exact accesses_of_store fun _ => rfl
  case atom32 => exact accesses_of_atom (fun _ => rfl) rfl
  case atom64 => exact accesses_of_atom (fun _ => rfl) rfl
  case red32 => exact accesses_of_red fun _ => rfl
  case red64 => exact accesses_of_red fun _ => rfl

end Sys2Proof.Laws
end

section
/-! PROOFS. The queries of the Sideboard, of poison marks and of the Bench (R215, R216, R237): what each answers when its checks pass,
in the terms of its statement. -/
namespace Sys2Proof.Laws
open Sys2Proof.Machine Sys2Proof.Safety

/-- A unit in issue that completes has the modifier words that its instruction carries. -/
theorem completes_of_mods {i : Instr} {m : Mods} {body : Frag → State → Res} {P : Frag → State → Prop} {eff : Frag → State → State}
    (hmods : i.parts.map Parts.mods = some m) (hexec : ∀ s, exec i s = issue i s body)
    (hbody : ∀ u s, u.m = m → P u s → body u s = .ok (eff u s)) (hqueue : ∀ u s, (eff u s).jqueue = s.jqueue) :
    Completes i P eff := by
  intro s g e p hclear hP
  rw [hclear.parts] at hmods
  rw [hexec]
  exact issue_ok hclear (hbody _ _ (Option.some.inj hmods) hP) (hqueue (frag g e p) (past s g e p))

/-- A pointer that `sbq` takes raises no SPACE_FAULT (R215). -/
theorem sbq_pointer_passes {p : Nat} (htag : ptrTag p = 1) (hspace : spaceBad p 0 = false) :
    (ptrTag p != 1 || spaceBad p 0) = false := by
  rw [htag, hspace]
  rfl

/-- A code of `benchq` other than 0 and 1 (R237). -/
theorem code_from_two {c : BitVec 7} (hzero : c ≠ 0) (hone : c ≠ 1) : ∃ n, c.toNat = n + 2 :=
  ⟨c.toNat - 2, by bv_omega⟩

/-- Settles O22: `sbq` with a pointer that passes, `poisq` and `poisclr` by whether they must wait, and `benchq` by its code. -/
theorem scratchpadQueries : Obligations.ScratchpadQueries := by
  unfold Obligations.ScratchpadQueries
  refine fun m f => ⟨?sbq, ?poisq, ?poisclr, ?benchq, ?poisqWaits, ?poisclrWaits⟩
  case sbq =>
    refine completes_of_mods (m := m) rfl (fun _ => rfl) (fun u s hm ⟨htag, hspace⟩ => ?_) fun _ _ => rfl
    subst hm
    simp only [sbq_pointer_passes htag hspace, immOf_immVal, beq_iff_eq, Bool.false_eq_true, if_false]
    exact uni_toS u s f.a _
  case poisq =>
    refine completes_of (fun _ => rfl) (fun u s ⟨hgood, hfree⟩ => ?_) fun _ _ => rfl
    simp only [hgood, hfree, Bool.false_eq_true, if_false]
    exact uni_toS u s f.a _
  case poisclr =>
    refine completes_of (fun _ => rfl) (fun u s ⟨hgood, hfree⟩ => ?_) fun _ _ => rfl
    simp only [hgood, hfree, Bool.false_eq_true, if_false]
    rfl
  case benchq =>
    refine completes_of (fun _ => rfl) (fun u s _ => ?_) fun _ _ => rfl
    by_cases hzero : f.c = 0
    · simp only [hzero, if_true]
      exact uni_toS u s f.a _
    · by_cases hone : f.c = 1
      · simp only [hone, if_true]
        exact uni_toS u s f.a _
      · obtain ⟨n, hcode⟩ := code_from_two hzero hone
        simp only [hcode, hzero, hone, if_false]
        exact uni_toS u s f.a _
  case poisqWaits => exact waits_of (fun _ => rfl) fun u s ⟨hgood, hheld⟩ => by simp only [hgood, hheld, if_true]
  case poisclrWaits => exact waits_of (fun _ => rfl) fun u s ⟨hgood, hheld⟩ => by simp only [hgood, hheld, if_true]

end Sys2Proof.Laws
end

section
/-! PROOFS. Matrix units (R226, R233 to R236): the fields of shape registers, `mzero` by its accumulators, and what an `mma` that
passes its checks meets at the Bench. -/
namespace Sys2Proof.Laws
open Sys2Proof.Machine Sys2Proof.Safety

/-! ## Shape registers and `mzero` (R234, R236) -/

/-- The source of `tfield`: a pair for BASE and SBASE, else one register. -/
theorem tfield_source (g : Machine.Group) (code r : Nat) :
    g.sVal (decide (code ≤ 1)) r = if code ≤ 1 then (s64 g r).toNat else (g.getS r).toNat := by
  by_cases hwide : code ≤ 1
  · rw [if_pos hwide, decide_eq_true hwide, sVal_pair]
  · rw [if_neg hwide, decide_eq_false hwide]
    rfl

/-- The result of `tget`: a pair for BASE and SBASE, else one register. -/
theorem tget_result (g : Machine.Group) (a : BitVec 7) (t : BitVec 512) (code : Nat) :
    g.putS (decide (code ≤ 1)) a.toNat (getField t code) =
      (if code ≤ 1 then toS64 a ((t >>> (64 * code)).setWidth 64) else toS a (fieldWord t code)) g := by
  by_cases hwide : code ≤ 1
  · rw [if_pos hwide, decide_eq_true hwide, putS_toS64, getField_wide t hwide]
  · rw [if_neg hwide, decide_eq_false hwide, putS_toS, getField_word t (by omega)]

/-- Settles O23: `tfield` and `tget` by whether the field is a pair, and `mzero` by whether its 32 registers exist. -/
theorem shapeRegistersAndZero : Obligations.ShapeRegistersAndZero := by
  unfold Obligations.ShapeRegistersAndZero
  refine fun m f => ⟨?tfield, ?tget, ?zeroes, ?traps⟩
  case tfield => exact does_of (fun _ => rfl) fun u s => by simp only [tfield_source, setField_eq, Frag.upd]
  case tget => exact does_of (fun _ => rfl) fun u s => by simp only [Frag.uni, Frag.upd, tget_result]
  case zeroes => exact completes_of (fun _ => rfl) (fun u s hregs => if_neg (Nat.not_le.mpr hregs)) fun _ _ => rfl
  case traps => exact traps_of (fun _ => rfl) fun u s hregs => if_pos hregs

/-! ## `mma` issues (R226, R233) -/

section Multiply
variable {m : Mods} {f : RF} {u : Frag} {s : State} {fmt : Nat}

/-- Step 1 of R233, as the model tests it. -/
theorem mmaRnd_refused_iff : (u.rnd != 0 && !isInt fmt) = true ↔ u.m.modx.rnd ≠ 0 ∧ isInt fmt = false := by
  simp [Frag.rnd, ← BitVec.toNat_inj]

theorem mmaRnd_passes (h : u.m.modx.rnd = 0 ∨ isInt fmt = true) : ¬(u.rnd != 0 && !isInt fmt) = true := fun hrefused =>
  have ⟨hrnd, hfloat⟩ := mmaRnd_refused_iff.mp hrefused
  h.elim hrnd (Bool.eq_false_iff.mp hfloat)

/-- What an `mma` that passes its checks answers (R226). -/
def mmaEnters (f : RF) (u : Frag) (s : State) : Res :=
  if 15 ≤ u.g.mx || 32 ≤ (s.bench (u.g.core / 4)).length then .hold false
  else
    match mmaStarted f u s with
    | none => .hold false
    | some s1 => .ok (s1.modGroup u.g.id fun g => { g with mx := g.mx + 1, mmas := g.mmas ++ [mmaIssued f u s.nextId] })

theorem mmaEnters_waits (h : 15 ≤ u.g.mx ∨ 32 ≤ (s.bench (u.g.core / 4)).length ∨ mmaStarted f u s = none) :
    mmaEnters f u s = .hold false := by
  unfold mmaEnters
  by_cases hfull : 15 ≤ u.g.mx ∨ 32 ≤ (s.bench (u.g.core / 4)).length
  · rw [if_pos (by simpa using hfull)]
  · have hnone : mmaStarted f u s = none := (or_assoc.mpr h).resolve_left hfull
    rw [hnone, ite_self]

theorem mmaEnters_starts (hmx : u.g.mx < 15) (hbench : (s.bench (u.g.core / 4)).length < 32) (hroom : mmaStarted f u s ≠ none) :
    mmaEnters f u s = .ok (((mmaStarted f u s).getD s).modGroup u.g.id fun g =>
      { g with mx := g.mx + 1, mmas := g.mmas ++ [mmaIssued f u s.nextId] }) := by
  obtain ⟨s1, hs1⟩ := Option.ne_none_iff_exists'.mp hroom
  unfold mmaEnters
  rw [if_neg (by simp; omega), hs1]
  rfl

theorem exec_mma_legal {g : Machine.Group} {e : Nat} {p : Parts} (hclear : Clear s (.mma m f) g e p)
    (hlegal : MmaLegal f (frag g e p) (past s g e p)) : exec (.mma m f) s = issue (.mma m f) s (mmaEnters f) :=
  issue_congr hclear (mma_eq hlegal)

/-- Entering the Bench posts no record. -/
theorem mmaStarted_queue (f : RF) (u : Frag) (s : State) : ((mmaStarted f u s).getD s).jqueue = s.jqueue := by
  cases h : mmaStarted f u s with
  | none => rfl
  | some s1 => exact register_queue h

end Multiply

/-- Settles O24: an `mma` that passes its checks by whether there is room for it, and the first check that it fails. -/
theorem matrixMultiplyIssues : Obligations.MatrixMultiplyIssues := by
  unfold Obligations.MatrixMultiplyIssues
  refine fun m f => ⟨?starts, ?waits, ?trapsField, ?trapsOperand, ?trapsShape⟩
  case starts =>
    intro s g e p hclear ⟨hlegal, hmx, hbench, hroom⟩
    rw [exec_mma_legal hclear hlegal]
    exact issue_ok hclear (mmaEnters_starts hmx hbench hroom) (mmaStarted_queue f (frag g e p) (past s g e p))
  case waits =>
    intro s g e p hclear ⟨hlegal, hfull⟩
    rw [exec_mma_legal hclear hlegal]
    exact issue_hold hclear (mmaEnters_waits hfull)
  case trapsField => exact traps_of (fun _ => rfl) fun u s hrefused => if_pos (mmaRnd_refused_iff.mpr hrefused)
  case trapsOperand => exact traps_of (fun _ => rfl) fun u s ⟨hrnd, hregs⟩ => (if_neg (mmaRnd_passes hrnd)).trans (if_pos hregs)
  case trapsShape =>
    refine traps_of (fun _ => rfl) fun u s ⟨hrnd, hregs, hshapes⟩ =>
      (if_neg (mmaRnd_passes hrnd)).trans ((if_neg (Nat.not_le.mpr hregs)).trans (if_pos ?_))
    rw [hshapes]
    rfl

end Sys2Proof.Laws
end

section
/-! PROOFS. Window B and the host's atomics (R248, R252, R352, R364): what a request beyond installed memory, of a poisoned line and of
any other memory completes with, and what it leaves there. -/
namespace Sys2Proof.Laws
open Sys2Proof.Machine Sys2Proof.Safety

section HostMemory
variable {s : State} {a n : Nat}

theorem inMemory_iff : inMemory a n = true ↔ a + n ≤ Config.memTop := decide_eq_true_iff

theorem inMemory_beyond (hbeyond : Config.memTop < a + n) : (!inMemory a n) = true := by
  rw [Bool.not_eq_true', Bool.eq_false_iff, Ne, inMemory_iff]
  exact Nat.not_le.mpr hbeyond

theorem inMemory_within (hin : a + n ≤ Config.memTop) : ¬(!inMemory a n) = true := by
  rw [inMemory_iff.mpr hin]
  decide

/-! ## Reads of window B (R252, R352) -/

theorem windowBRead_beyond (hbeyond : Config.memTop < a + n) :
    Steps (.hostWindowBRead a n) s { s with reply := some .unsupported } :=
  steps_of (execHostWindowBRead a n s) rfl rfl (if_pos (inMemory_beyond hbeyond))

theorem windowBRead_poisoned (hin : a + n ≤ Config.memTop) (hsome : 0 < n) (hpoison : s.memPoisoned a n = true) :
    Steps (.hostWindowBRead a n) s { s with reply := some (.poisoned (List.replicate n 0xFF)) } :=
  steps_of (execHostWindowBRead a n s) rfl rfl ((if_neg (inMemory_within hin)).trans (if_pos (by simp [hsome, hpoison])))

theorem windowBRead_data (hin : a + n ≤ Config.memTop) (hsound : s.memPoisoned a n = false) :
    Steps (.hostWindowBRead a n) s { s with reply := some (.data (s.peekN a n)) } :=
  steps_of (execHostWindowBRead a n s) rfl rfl ((if_neg (inMemory_within hin)).trans (if_neg (by simp [hsound])))

/-! ## Writes of window B (R352, R364) -/

section Writes
variable {data : List Byte} {poison : Bool}

theorem windowBWrite_beyond (hsome : data ≠ []) (hbeyond : Config.memTop < a + data.length) :
    Steps (.hostWindowBWrite a data poison) s { s with reply := some .unsupported } :=
  steps_of (execHostWindowBWrite a data poison s) rfl rfl
    ((if_neg (by simpa using hsome)).trans (if_pos (inMemory_beyond hbeyond)))

theorem windowBWrite_within (hsome : data ≠ []) (hin : a + data.length ≤ Config.memTop) :
    Steps (.hostWindowBWrite a data poison) s ((s.hostWrite a data).hostMarks a data.length poison) :=
  steps_of (execHostWindowBWrite a data poison s) rfl rfl
    ((if_neg (by simpa using hsome)).trans (if_neg (inMemory_within hin)))

end Writes

/-! ## The AtomicOps completer (R248, R352) -/

/-- An AtomicOp of 32 or 64 bits, aligned, on memory without a mark: one read-modify-write at its home, which answers the old value. -/
theorem hostAtomic_value {k : HostAtomic} {x y : Nat} (hsize : n = 4 ∨ n = 8) (halign : a % n = 0) (hin : a + n ≤ Config.memTop)
    (hsound : s.memPoisoned a n = false) : Steps (.hostAtomicRequest k a n x y) s
      { (s.homeRmw a n fun old => hostAtomicValue k n old x y).2 with
        reply := some (.value (s.homeRmw a n fun old => hostAtomicValue k n old x y).1) } := by
  refine steps_of (execHostAtomicRequest k a n x y s) rfl rfl ?_
  have hwidth : (n == 4 || n == 8) = true := by simpa using hsize
  have hlegal : ¬(!(n == 4 || n == 8) || a % n != 0) = true := by simp [hwidth, halign]
  exact (if_neg hlegal).trans ((if_neg (inMemory_within hin)).trans (if_neg (Bool.eq_false_iff.mp hsound)))

theorem hostAtomicValue_cas (n old x y : Nat) :
    hostAtomicValue .cas n old x y = if old = x % 2 ^ (8 * n) then y % 2 ^ (8 * n) else old := by
  simp [hostAtomicValue]

end HostMemory

/-- Settles O43: window B by whether the request lies in installed memory, then by the poison of what it reads or writes; an AtomicOp
by its kind. -/
theorem hostMemory : Obligations.HostMemory := by
  unfold Obligations.HostMemory
  refine ⟨fun s a n => windowBRead_beyond, fun s a n => windowBRead_poisoned, fun s a n hin _ => windowBRead_data hin,
    fun s a data poison => windowBWrite_beyond, fun s a data => windowBWrite_within, fun s a data => windowBWrite_within,
    fun s k a n x y hsize halign hin hsound => ?atomic⟩
  case atomic =>
    have hstep := hostAtomic_value (k := k) (x := x) (y := y) hsize halign hin hsound
    cases k with
    | fetchAdd => exact hstep
    | swap => exact hstep
    | cas =>
      simp only [hostAtomicValue_cas] at hstep
      exact hstep

end Sys2Proof.Laws
end

section
/-! PROOFS. System units (R300, R317, R319 to R321, R325, R327 to R333): special registers, queries, and requests of levels and
transfers. -/
namespace Sys2Proof.Laws
open Sys2Proof.Machine Sys2Proof.Safety

/-! ## Special registers (R319 to R321) -/

/-- A special register read into every lane of the fragment (R320). -/
theorem putV_srRead {f : IF} {u : Frag} {v : Nat → Nat} (hvector : srVector f = true) (g : Machine.Group) :
    g.putV false (wideSr (srNo f)) f.a.toNat u.x.mask 0 v = srRead f v u g := by
  unfold srRead
  rw [if_pos hvector, putV_sr]

/-- A special register read into S registers (R320). -/
theorem putS_srRead {f : IF} {u : Frag} {v : Nat → Nat} (hvector : srVector f = false) (g : Machine.Group) :
    g.putS (wideSr (srNo f)) f.a.toNat (v 0) = srRead f v u g := by
  unfold srRead
  rw [if_neg (Bool.eq_false_iff.mp hvector)]
  cases wideSr (srNo f) with
  | true => exact putS_toS64 g f.a (v 0)
  | false => exact putS_toS g f.a (v 0)

/-- The source of `setsr` as 64 bits, for FRECP. -/
theorem setsr_pair (f : IF) (g : Machine.Group) (l : Nat) :
    BitVec.ofNat 64 (if 32768 ≤ f.imm.toNat then g.vVal true f.a.toNat l else g.sVal true f.a.toNat) =
      if srVector f then v64 g f.a.toNat l else s64 g f.a.toNat := by
  by_cases hvector : 32768 ≤ f.imm.toNat
  · simp only [srVector, hvector, if_true, decide_true, vVal_pair, ofNat_toNat]
  · simp only [srVector, hvector, if_false, decide_false, Bool.false_eq_true, sVal_pair, ofNat_toNat]

/-- The source of `setsr` as 32 bits, for TRAPPC. -/
theorem setsr_word (f : IF) (g : Machine.Group) (l : Nat) :
    BitVec.ofNat 32 (if 32768 ≤ f.imm.toNat then g.vVal false f.a.toNat l else g.sVal false f.a.toNat) =
      if srVector f then g.getV f.a.toNat l else g.getS f.a.toNat := by
  by_cases hvector : 32768 ≤ f.imm.toNat
  · simp only [srVector, hvector, if_true, decide_true, vVal_one, ofNat_toNat]
  · simp only [srVector, hvector, if_false, decide_false, Bool.false_eq_true, sVal_one, ofNat_toNat]

/-- A `setsr` of TRAPPC is none of FRECP. -/
theorem srNo_trappc {f : IF} (hreg : srNo f = 0x42) : (f.imm.toNat % 32768 == 0x40) = false :=
  beq_false_of_ne fun h => absurd (hreg.symm.trans h) (by decide)

/-- Settles O33: `getsr` by the bank that it writes, and `setsr` by its register and by whether its fragment is in a handler. -/
theorem specialRegisters : Obligations.SpecialRegisters := by
  unfold Obligations.SpecialRegisters
  refine fun m f => ⟨?getsr, ?frecp, ?trappc, ?outside⟩
  case getsr =>
    refine completes_of (fun _ => rfl) (fun u s _ => ?_) fun _ _ => rfl
    have hwide : ((srInfo (f.imm.toNat % 32768)).map SrInfo.wide).getD false = wideSr (srNo f) := wide_eq _
    dsimp only
    rw [hwide]
    by_cases hvector : 32768 ≤ f.imm.toNat
    · simp only [if_pos hvector, Frag.upd, putV_srRead (decide_eq_true hvector)]
      rfl
    · simp only [if_neg hvector, Frag.uni, Frag.upd, putS_srRead (u := u) (decide_eq_false hvector)]
      rfl
  case frecp =>
    refine completes_of (fun _ => rfl) (fun u s hreg => ?_) fun _ _ => rfl
    have hreg : (f.imm.toNat % 32768 == 0x40) = true := beq_iff_eq.mpr hreg
    simp only [hreg, if_true, Frag.upd, setsr_pair]
  case trappc =>
    refine completes_of (fun _ => rfl) (fun u s ⟨hreg, hin⟩ => ?_) fun _ _ => rfl
    simp only [srNo_trappc hreg, hin, Bool.false_eq_true, if_false, if_true, Frag.upd, setsr_word]
  case outside =>
    refine traps_of (fun _ => rfl) fun u s ⟨hreg, hout⟩ => ?_
    simp only [srNo_trappc hreg, hout, Bool.false_eq_true, if_false]

/-! ## Queries (R327, R331 to R333) -/

/-- A result of two words in an S pair. -/
theorem uni_toS64 (u : Frag) (s : State) (a : BitVec 7) (n : Nat) :
    u.uni s true a.toNat n = .ok (s.modGroup u.g.id (toS64 a (BitVec.ofNat 64 n))) := by
  simp only [Frag.uni, Frag.upd, putS_toS64]

/-- Settles O34: each query's result, `time` by whether its fragment has accesses in flight, and the packet of `trace`. -/
theorem systemQueries : Obligations.SystemQueries := by
  unfold Obligations.SystemQueries
  refine ⟨fun m f => ⟨?featq, ?timeWaits, ?time, ?sigq⟩, fun m f => ?trace⟩
  case featq =>
    refine does_of (fun _ => rfl) fun u s => ?_
    rw [uni_toS64, ofNat_toNat]
  case timeWaits => exact waits_of (fun _ => rfl) fun u s hbusy => if_pos hbusy
  case time =>
    refine completes_of (fun _ => rfl) (fun u s hfree => ?_) fun _ _ => rfl
    rw [if_neg (Bool.eq_false_iff.mp hfree), uni_toS64]
  case sigq => exact completes_of (fun _ => rfl) (fun u s _ => uni_toS u s f.a _) fun _ _ => rfl
  case trace => exact completes_of (fun _ => rfl) (fun u s _ => rfl) fun u s => (emit_onlyObs s _ _ _).queue

/-! ## Requests (R300, R328, R329) -/

/-- Settles O35: both requests answer their result in S[a], after the level or the version tag that their operand names. -/
theorem performanceAndTransferRequests : Obligations.PerformanceAndTransferRequests := by
  unfold Obligations.PerformanceAndTransferRequests
  refine fun m f => ⟨?setperf, ?xfer⟩
  case setperf =>
    refine completes_of (fun _ => rfl) (fun u s _ => ?_) fun u s => requestLevel_queue s u.g.ctx u.g.core _
    simp only [level_eq]
    exact uni_toS u _ f.a _
  case xfer =>
    refine posts_of (fun _ => rfl) fun u s _ => ?_
    simp only [tag_eq]
    rfl

end Sys2Proof.Laws
end

section
/-! PROOFS. Traps of software and what taking a trap does (R74, R280 to R283, R314, R324 to R326): `trap`, `brk` and `rfe`, and `raise` by
the branch that it takes. -/
namespace Sys2Proof.Laws
open Sys2Proof.Machine Sys2Proof.Safety

/-! ## `trap`, `brk` and `rfe` (R281, R314, R324 to R326) -/

/-- A unit that traps without any effect. -/
theorem traps_with {i : Instr} {body : Frag → State → Res} {P : Frag → State → Prop} {t : Frag → Trap}
    (hexec : ∀ s, exec i s = issue i s body) (hbody : ∀ u s, P u s → body u s = .trap (t u) s s) : Traps i P t :=
  fun s _ _ _ hclear hP hroom => (hexec s).trans (issue_trap hclear (hbody _ _ hP) hroom)

/-- `rfe` is refused to a fragment that is in no handler, or holds a part of the entered lanes (R325). -/
theorem rfe_refused_iff {u : Frag} :
    (!u.x.inH || u.x.mask != u.g.hLanes) = true ↔ ¬(u.x.inH = true ∧ u.x.mask = u.g.hLanes) := by
  cases u.x.inH <;> simp

/-- Settles O36: `brk` by whether a breakpoint absorbs it, and `rfe` by whether its fragment holds the entered lanes. -/
theorem softwareTrapsAndReturn : Obligations.SoftwareTrapsAndReturn := by
  unfold Obligations.SoftwareTrapsAndReturn
  refine ⟨fun m f => ⟨?trap, ?brkTraps, fun n => ?brkHalts⟩, fun m f => ⟨?rfeLeaves, ?rfeTraps⟩⟩
  case trap => exact traps_with (fun _ => rfl) fun u s _ => rfl
  case brkTraps => exact traps_with (fun _ => rfl) fun u s hpoint => by simp only [hpoint]
  case brkHalts => exact posts_of (fun _ => rfl) fun u s hpoint => by simp only [hpoint]
  case rfeLeaves =>
    exact completes_of (fun _ => rfl) (fun u s hentered => if_neg fun hrefused => rfe_refused_iff.mp hrefused hentered) fun _ _ => rfl
  case rfeTraps => exact traps_of (fun _ => rfl) fun u s hpart => if_pos (rfe_refused_iff.mpr hpart)

/-! ## Taking a trap (R280, R282, R283) -/

section Entry
variable {s held : State} {gid e coff : Nat} {t : Trap} {g : Machine.Group}

/-- The first record slot, as the trap of entry `e` writes it (R279). -/
def trapWritten (s : State) (g : Machine.Group) (e : Nat) (t : Trap) : State × Bool :=
  s.writeRecord g 0 (s.faultBytes g (t.record e t.code))

/-- The unit and the lanes that execute again on the return from a handler (R199, R281): those of an access that faulted at issue. -/
def retried (g : Machine.Group) (e : Nat) (t : Trap) : Option (Word × Word) :=
  if t.code == trapAccess && !t.deferred then some ((g.entry e).pc, t.fmask) else none

/-- What `raise` does outside a handler, while no other fragment is in it (R280 steps 2 to 4). -/
theorem raise_outside (hg : s.group? gid = some g) (hf : (g.entry e).isFragment = true) (hout : (g.entry e).inH = false)
    (hfree : g.inHandler = false) : s.raise held gid e t =
      if !s.frecpOk g then (s.unhandled g t.code 0).dropLatch gid
      else if !(trapWritten s g e t).2 then ((trapWritten s g e t).1.doubleTrap g e t).dropLatch gid
      else match s.stageEntry g 0xFFFF with
        | some coff => ((trapWritten s g e t).1.modGroup gid fun h =>
            h.enterHandler e coff t.resume t.code t.arg (retried g e t)).dropLatch gid
        | none => ((trapWritten s g e t).1.unhandled g t.code g.frecp.toNat).dropLatch gid := by
  unfold State.raise
  simp only [hg, hf, hout, hfree, Bool.not_true, Bool.false_eq_true, if_false]
  rfl

theorem raise_inHandler (hg : s.group? gid = some g) (hf : (g.entry e).isFragment = true) (hin : (g.entry e).inH = true) :
    s.raise held gid e t = (s.doubleTrap g e t).dropLatch gid := by
  unfold State.raise
  simp only [hg, hf, hin, Bool.not_true, Bool.false_eq_true, if_false, if_true]

theorem raise_held (hg : s.group? gid = some g) (hf : (g.entry e).isFragment = true) (hout : (g.entry e).inH = false)
    (hother : g.inHandler = true) :
    s.raise held gid e t = (held.modEntry gid e fun y => { y with heldT := true }).dropLatch gid := by
  unfold State.raise
  simp only [hg, hf, hout, hother, Bool.not_true, Bool.false_eq_true, if_false, if_true]

/-- A group that enters a handler keeps its registers, and its entries but the one that traps. -/
theorem enterHandler_other (g : Machine.Group) (resume : Word) (code arg : Nat) (redo : Option (Word × Word)) {j : Nat} (hj : j ≠ e) :
    (g.enterHandler e coff resume code arg redo).entry j = g.entry j := entry_mod_other _ _ hj

/-- The entry that traps stands marked at the handler's offset (R280 step 4). -/
theorem enterHandler_same (g : Machine.Group) (resume : Word) (code arg : Nat) (redo : Option (Word × Word)) (he : e < 72) :
    (g.enterHandler e coff resume code arg redo).entry e =
      { g.entry e with pc := BitVec.ofNat 32 coff, inH := true, heldT := false, redo := none, named := 0, seenB := false, seenT := false,
                       seenO := false } := entry_mod_same _ he

/-- The trapping group after a record was written: as before but for failures that wait, and in its handler. -/
theorem trapWritten_entered (hg : s.group? gid = some g) (redo : Option (Word × Word)) : ∃ l,
    ((trapWritten s g e t).1.modGroup gid fun h => h.enterHandler e coff t.resume t.code t.arg redo).group? gid =
      some (({ g with late := l } : Machine.Group).enterHandler e coff t.resume t.code t.arg redo) := by
  obtain ⟨l, hl⟩ := (writeRecord_late s g 0 (s.faultBytes g (t.record e t.code))).group gid
  refine ⟨l g, ?_⟩
  rw [group?_modGroup _ gid gid (fun h => h.enterHandler e coff t.resume t.code t.arg redo) fun _ => rfl, trapWritten, hl, hg]
  simp only [Option.map_some, group?_id hg, beq_self_eq_true, if_true]

end Entry

/-- Settles O59: each branch of `raise`; into a handler, what the record's store leaves of memory and what is set in the group. -/
theorem trapEntry : Obligations.TrapEntry := by
  unfold Obligations.TrapEntry
  refine fun s held gid e t g hg hf he =>
    ⟨raise_inHandler hg hf, raise_held hg hf, fun hout hfree => ⟨?enters, ?unhandled, ?unrecorded⟩⟩
  all_goals rw [raise_outside hg hf hout hfree]
  case enters =>
    intro coff hfrecp hstage
    simp only [hfrecp, hstage, Bool.not_true, Bool.false_eq_true, if_false]
    split
    case isTrue hwritten =>
      have hwritten : (trapWritten s g e t).2 = true := hwritten
      obtain ⟨l, hentered⟩ := trapWritten_entered (e := e) (t := t) (coff := coff) hg (retried g e t)
      rw [hwritten]
      refine ⟨rfl, rfl, _, hentered, rfl, rfl, rfl, ?_, ?_, ?_, rfl, rfl, rfl, rfl, rfl, fun j hj => enterHandler_other _ _ _ _ _ hj⟩
      all_goals rw [enterHandler_same _ _ _ _ _ he]
      rfl
    case isFalse hlost =>
      have hlost : (trapWritten s g e t).2 = false := Bool.eq_false_iff.mpr hlost
      rw [hlost]
      rfl
  case unhandled =>
    intro hfrecp hstage
    simp only [hfrecp, hstage, Bool.not_true, Bool.false_eq_true, if_false]
    unfold trapWritten
    cases (s.writeRecord g 0 (s.faultBytes g (t.record e t.code))).2 <;> rfl
  case unrecorded =>
    intro hfrecp
    simp only [hfrecp, Bool.not_false, if_true]

end Sys2Proof.Laws
end

section
/-! PROOFS. `wgsync`, the end of a sleep, and `launch` (R256, R266, R268, R269). -/
namespace Sys2Proof.Laws
open Sys2Proof.Machine Sys2Proof.Safety

/-! ## `wgsync` and the end of a sleep (R256, R266, R269) -/

/-- A unit that stops its group at a barrier boundary does nothing else (R266). -/
theorem issue_stop {s : State} {i : Instr} {g : Machine.Group} {e : Nat} {p : Parts} (hclear : Clear s i g e p)
    {body : Frag → State → Res} (hbody : body (frag g e p) (past s g e p) = .hold true) :
    issue i s body = .next (({ s with issued := false } : State).modGroup g.id fun h => { h with stopped := true }) := by
  rw [issue_clear hclear, hbody]
  exact congrArg Host.Outcome.next (unlessHeld_of_eq rfl)

/-- Settles O27: `wgsync` by its class and by what a release waits for, and every sleep at once. -/
theorem workgroupBarrierAndSleep : Obligations.WorkgroupBarrierAndSleep := by
  unfold Obligations.WorkgroupBarrierAndSleep
  refine ⟨fun m f => ⟨?waits, ?parks, ?stops⟩, fun s => steps_of (execSleepExpiry s) rfl rfl rfl⟩
  case waits =>
    exact waits_of (fun _ => rfl) fun u s ⟨hclass, hheld⟩ => by simp only [hclass, hheld, Bool.false_eq_true, if_false, if_true]
  case parks =>
    exact posts_of (fun _ => rfl) fun u s ⟨hclass, hfree⟩ => by simp only [hclass, hfree, Bool.false_eq_true, if_false]
  case stops => exact fun s g e p hclear hshed => issue_stop hclear (if_pos hshed)

/-! ## `launch` (R268) -/

section Launch
variable {f : RF} {u : Frag} {s t : State} {bs : List Byte} {r : Region}

/-- A region control block has been read for a launch of region `r`: `bs`, and the state after the loads. -/
structure RcbRead (f : RF) (bs : List Byte) (t : State) (r : Region) (u : Frag) (s : State) : Prop where
  after : u.unreleased s 0 = false
  region : s.region? u.g.region = some r
  read : (s.release u.g.core 0).readRcb u.g (s64 u.g f.b.toNat).toNat 4 = .ok (bs, t)

/-- What a launch answers once it has read its region control block. -/
theorem launch_read {m : Mods} {P : Frag → State → Prop} {eff : Frag → State → State}
    (hread : ∀ u s, P u s → RcbRead f bs t r u s)
    (hanswer : ∀ u s, P u s → u.launchRcb f (s64 u.g f.b.toNat).toNat r (ofBytes bs) t = .post (eff u s)) :
    Posts (.launch m f) P eff := by
  refine posts_of (fun _ => rfl) fun u s hP => ?_
  obtain ⟨hafter, hregion, hrcb⟩ := hread u s hP
  dsimp only
  rw [ptr_eq, hafter, if_neg (by decide), hrcb, hregion]
  exact hanswer u s hP

/-- A region control block that passes its checks adds a region, unless its context has no room for one. -/
theorem launchRcb_adds {o : Obj} {p : Nat} (hrcb : t.checkRcb u.g.ctx r.eff (ofBytes bs) = .ok o) :
    u.launchRcb f p r (ofBytes bs) t = .post
      (if 4096 ≤ t.openRegions u.g.ctx then t.modGroup u.g.id (toS f.a (BitVec.ofNat 32 reasonLimit))
       else (t.addRegion (regionOf 0 u.g.ctx p 0 (some r.id) r.eff o (ofBytes bs)) r.rcb).modGroup u.g.id (toS f.a 0)) := by
  unfold Frag.launchRcb Frag.launchRegion
  rw [hrcb]
  dsimp only
  split <;> rfl

end Launch

/-- Settles O32: what `launch` answers by the checks of the region control block that it read. -/
theorem regionLaunch : Obligations.RegionLaunch := by
  unfold Obligations.RegionLaunch
  refine fun m f => ⟨?waits, fun bs t r => ⟨fun c => ?refused, fun o => ?added⟩⟩
  case waits => exact waits_of (fun _ => rfl) fun u s hheld => if_pos hheld
  case refused =>
    refine launch_read (fun u s ⟨hafter, hregion, hread, _⟩ => ⟨hafter, hregion, hread⟩) fun u s ⟨_, _, _, hrcb⟩ => ?_
    unfold Frag.launchRcb
    rw [hrcb]
    rfl
  case added =>
    exact launch_read (fun u s ⟨hafter, hregion, hread, _⟩ => ⟨hafter, hregion, hread⟩) fun u s ⟨_, _, _, hrcb⟩ =>
      launchRcb_adds hrcb

end Sys2Proof.Laws
end

section
/-! PROOFS. ATTEST, MIGRATE_OUT and MIGRATE_IN (R290 to R292, R361 to R363): one lemma for what each command's buffer, image or groups
decide. -/
namespace Sys2Proof.Laws
open Sys2Proof.Machine Sys2Proof.Safety

/-! ## ATTEST (R361 to R363) -/

/-- A step that runs the next ATTEST of a MODE does what the command's body makes of the state after its STARTED record. -/
theorem steps_of_attest {i : Instr} {s t : State} {c mode : Nat} {k : Cmd} {body : Cmd → State → State}
    (hexec : exec i s = deviceStep s fun s => if !s.nextAttest c mode then s else s.runCmd c 10 body) (hnext : Next s c 10 k)
    (hmode : argOf k.bytes 24 1 = mode) (hbody : body k (s.beginCmd k) = t) : Steps i s t := by
  refine steps_of _ hexec rfl ((if_neg ?_).trans ((runCmd_of hnext body).trans hbody))
  rw [nextAttest_of hnext hmode]
  decide

/-- A buffer that is too short, or that the context may not use, is refused. -/
theorem buffer_refused_iff {a n : Nat} {allowed : Bool} : (decide (a < n) || !allowed) = true ↔ a < n ∨ allowed = false := by
  simp

theorem buffer_taken {a n : Nat} {allowed : Bool} (hlen : n ≤ a) (hallowed : allowed = true) :
    ¬(decide (a < n) || !allowed) = true := fun hrefused => by
  rcases buffer_refused_iff.mp hrefused with hshort | hbarred
  · exact Nat.not_lt.mpr hlen hshort
  · exact Bool.false_ne_true (hbarred.symm.trans hallowed)

section Attest
variable {s : State} {c : Nat} {k : Cmd}

/-- An installed key opens the image that a MIGRATE_IN has left in its context, if there is one (R363). -/
def keyInstalled (t : State) (c : Nat) (k : Cmd) (key : List Byte) : State :=
  let z := t.modCtx c fun y => { y with key := some key, sealed := none }
  match (t.ctx c).st, (t.ctx c).sealed with
  | .open_, some img => z.unseal k key img
  | _, _ => z.completeCmd k 0

/-- A key is only installed in a confidential context that has none (R362). -/
theorem attestKeyInstall_refused (hnext : Next s c 10 k) (hmode : argOf k.bytes 24 1 = 1)
    (hkey : ((s.beginCmd k).ctx c).conf = false ∨ ((s.beginCmd k).ctx c).key ≠ none) :
    Steps (.attestKeyInstall c) s ((s.beginCmd k).failCmd k 0x64) := by
  refine steps_of_attest rfl hnext hmode (if_pos ?_)
  rw [Bool.or_eq_true, Option.isSome_iff_ne_none]
  simpa using hkey

/-- In one that takes a key the buffer decides, then whether its contents unwrap (R362, R363). -/
theorem attestKeyInstall_keyless (hnext : Next s c 10 k) (hmode : argOf k.bytes 24 1 = 1)
    (hconf : ((s.beginCmd k).ctx c).conf = true) (hnone : ((s.beginCmd k).ctx c).key = none) :
    Steps (.attestKeyInstall c) s (
      if argOf k.bytes 16 8 < 124 || !(s.beginCmd k).hostAllowed c (argOf k.bytes 8 8) 124 false then (s.beginCmd k).failCmd k 0x62
      else match Config.unwrapKey ((s.beginCmd k).ctx c).xkey ((s.beginCmd k).peekN (hostKey (argOf k.bytes 8 8)) 124) with
        | none => (s.beginCmd k).failCmd k 0x63
        | some key => keyInstalled (s.beginCmd k) c k key) := by
  refine steps_of_attest rfl hnext hmode (if_neg ?_)
  rw [hconf, hnone]
  decide

end Attest

/-! ## MIGRATE_OUT (R290) -/

section Out
variable {s : State} {c : Nat} {k : Cmd}

theorem migrateOut_starts (hidle : (s.ctx c).migrating = none) (hnext : Next s c 7 k) :
    Steps (.migrateOut c) s ((s.beginCmd k).startOut k) := by
  refine steps_of (execMigrateOut c s) rfl rfl ?_
  rw [hidle]
  exact runCmd_of hnext _

/-- A MIGRATE_OUT that has started stops what stands at a portable stop site, and ends once nothing of its context runs. -/
theorem migrateOut_goes_on {seq n : Nat} (hout : (s.ctx c).migrating = some (seq, n)) {t z : State}
    (ht : (s.releaseOut c).parkOut c = t)
    (hz : (if !t.outReady c then t else match (t.ctx c).started.find? fun k => k.seq == seq with
      | some k => t.finishOut k
      | none => t) = z) : Steps (.migrateOut c) s z := by
  subst ht
  refine steps_of (execMigrateOut c s) rfl rfl ?_
  rw [hout]
  exact hz

end Out

/-! ## MIGRATE_IN (R291, R292) -/

section In
variable {s : State} {c : Nat} {k : Cmd}

/-- The image that a MIGRATE_IN names in host memory. -/
def inImage (t : State) (k : Cmd) : List Byte := t.peekN (hostKey (argOf k.bytes 24 8)) (argOf k.bytes 32 8)

/-- The context that a MIGRATE_IN opens. -/
def inOpened (t : State) (c : Nat) (k : Cmd) : State :=
  t.openCtx c (argOf k.bytes 8 8) (argOf k.bytes 16 8) (bitOf (rdImg (inImage t k) 24 1) 0)
    (defaultsOf (((inImage t k).drop 32).take 16))

theorem migrateIn_refused (hnext : Next s c 8 k)
    (hbuffer : argOf k.bytes 32 8 = 0 ∨ (s.beginCmd k).hostAllowed c (argOf k.bytes 24 8) (argOf k.bytes 32 8) false = false) :
    Steps (.migrateIn c) s ((s.beginCmd k).failCmd k 0x62) :=
  steps_of_runCmd rfl hnext (if_pos (by simpa using hbuffer))

/-- An image that may be read is taken by its header: malformed, sealed, or brought in at once. -/
theorem migrateIn_read (hnext : Next s c 8 k) (hsome : argOf k.bytes 32 8 ≠ 0)
    (hallowed : (s.beginCmd k).hostAllowed c (argOf k.bytes 24 8) (argOf k.bytes 32 8) false = true) {t : State}
    (ht : (if !inHeaderOk (inImage (s.beginCmd k) k) then (s.beginCmd k).failCmd k 0x01
      else if bitOf (rdImg (inImage (s.beginCmd k) k) 24 1) 1 then
        ((inOpened (s.beginCmd k) c k).modCtx c fun x => { x with sealed := some (inImage (s.beginCmd k) k) }).completeCmd k 0
      else match (inOpened (s.beginCmd k) c k).bringIn c (inImage (s.beginCmd k) k) with
        | .error r => (s.beginCmd k).failCmd k r
        | .ok y => y.completeCmd k 0) = t) : Steps (.migrateIn c) s t :=
  steps_of_runCmd rfl hnext ((if_neg (by simp [hsome, hallowed])).trans ht)

end In

/-- Settles O46: ATTEST by MODE and buffer, MIGRATE_OUT by whether its context still runs, and MIGRATE_IN by its buffer and header. -/
theorem attestationAndMigration : Obligations.AttestationAndMigration := by
  unfold Obligations.AttestationAndMigration
  refine ⟨fun s c k hnext hmode => ⟨?reportRefused, ?reported⟩, fun s c k hnext hmode => ⟨?keyRefused, ?keyUnread, ?keyRead⟩,
    fun s c k => migrateOut_starts, fun s c seq n hout => ⟨?runsOn, ?ends⟩,
    fun s c k hnext => ⟨migrateIn_refused hnext, ?malformed, ?wellFormed⟩⟩
  case reportRefused => exact fun hrefused => steps_of_attest rfl hnext hmode (if_pos (buffer_refused_iff.mpr hrefused))
  case reported => exact fun hlen hallowed => steps_of_attest rfl hnext hmode (if_neg (buffer_taken hlen hallowed))
  case keyRefused => exact attestKeyInstall_refused hnext hmode
  case keyUnread =>
    intro hconf hnone hrefused
    have hstep := attestKeyInstall_keyless hnext hmode hconf hnone
    rwa [if_pos (buffer_refused_iff.mpr hrefused)] at hstep
  case keyRead =>
    intro hconf hnone hlen hallowed
    have hstep := attestKeyInstall_keyless hnext hmode hconf hnone
    rwa [if_neg (buffer_taken hlen hallowed)] at hstep
  case runsOn => exact fun hrun => migrateOut_goes_on hout rfl (if_pos (by rw [hrun]; rfl))
  case ends =>
    intro k hready hcmd
    refine migrateOut_goes_on hout rfl ?_
    rw [hready, hcmd]
    rfl
  case malformed =>
    exact fun hsome hallowed hheader => migrateIn_read hnext hsome hallowed (if_pos (by rw [inImage, hheader]; rfl))
  case wellFormed =>
    intro hsome hallowed hheader
    have hgood : ¬(!inHeaderOk (inImage (s.beginCmd k) k)) = true := by rw [inImage, hheader]; decide
    refine ⟨fun hsealed => migrateIn_read hnext hsome hallowed ((if_neg hgood).trans (if_pos hsealed)), fun hplain y hy =>
      migrateIn_read hnext hsome hallowed ((if_neg hgood).trans ((if_neg (Bool.eq_false_iff.mp hplain)).trans ?_))⟩
    rw [inOpened, inImage, hy]

end Sys2Proof.Laws
end

section
/-! PROOFS. Pre-emption, saves and restores (R266, R284 to R287, R306, R323): which workgroup a step takes, and what it then does with
its set. -/
namespace Sys2Proof.Laws
open Sys2Proof.Machine Sys2Proof.Safety

section Preempting
variable {s : State} {w : Nat}

/-- The first of the workgroups that may be pre-empted for work that fits nowhere is pre-empted (R284). -/
theorem preemptFor_first {x : Region} {y : Workgroup} (hmay : s.mayPlace x = true) (hwaits : x.waits = true)
    (hever : s.neverFits x = false) (hnow : s.ifSaved.fitsNow x = false) (hcand : (s.preemptable x.eff.prio).contains y = true)
    (hfirst : ((s.preemptable x.eff.prio).all fun z => !s.preemptBefore z y) = true) :
    s.preemptFor x y = s.beginSave (s.setOf y) (8 + x.id) :=
  if_pos (by rw [hmay, hwaits, hever, hnow, hcand, hfirst]; rfl)

theorem preempt_room {r : Nat} {x : Region} {y : Workgroup} {t : State} (hregion : s.region? r = some x) (hwg : s.wg? w = some y)
    (ht : s.preemptFor x y = t) : Steps (.preempt (.room r w)) s t := by
  refine steps_of (execPreempt (.room r w) s) rfl rfl ?_
  simp only [hregion, hwg]
  exact ht

/-- A workgroup of a shed class is pre-empted once all its set has stopped (R266). -/
theorem preempt_shed {y : Workgroup} (hwg : s.wg? w = some y) (hphase : y.phase = .placed) (hshed : s.isShed (s.wgPrio y) = true)
    (hstopped : s.allStopped y = true) (hfits : s.imageFits y = true) :
    Steps (.preempt (.shed w)) s (s.beginSave (s.setOf y) 1) := by
  refine steps_of (execPreempt (.shed w) s) rfl rfl ?_
  simp only [hwg]
  exact if_pos (by rw [hphase, hshed, hstopped, hfits]; rfl)

/-- A set that is being saved leaves its cores when the last of it has drained (R285, R286). -/
theorem preemptSave_of {x : Workgroup} (hwg : s.wg? w = some x) (hsaving : x.phase = .saving) :
    Steps (.preemptSaveComplete w) s
      (if ((s.setOf x).all fun y => y.phase != .saving || s.wgDrained y) = true then
        (((s.setOf x).filter fun y => y.phase == .saving).foldl (fun (t : State) y => t.saveWg y) s).debugSaved x.ctx
       else s) := by
  refine steps_of (execPreemptSaveComplete w s) rfl rfl ?_
  simp only [hwg, hsaving, bne_self_eq_false, Bool.false_or, Bool.not_eq_true', Bool.eq_false_iff, ite_not]

/-- Whether a saved set may be restored on given cores (R53, R70, R287). -/
structure Restores (s : State) (x : Workgroup) (cores : List Nat) : Prop where
  may : ((s.setOf x).all fun y => s.mayRestore y) = true
  fits : s.restoreFits (s.setOf x) cores = true
  first : (s.regions.any fun q => s.wgPrio x < q.eff.prio && s.fitsNow q) = false
  fewest : 1 < (s.setOf x).length ∨ (s.fewest (cores.headD 0) fun c => s.restoreFits (s.setOf x) [c]) = true

theorem groupRestore_of {x : Workgroup} {cores : List Nat} (hwg : s.wg? w = some x) (h : Restores s x cores) :
    Steps (.groupRestore w cores) s
      (let t := ((s.setOf x).zip cores).foldl (fun (t : State) p => t.loadWg p.1 p.2) s
       ({ t with sideboard := (t.ops.map Op.id).flatMap fun o => t.sideboard.filter fun e => e.op == o } : State).deliverQueued x.ctx) := by
  refine steps_of (execGroupRestore w cores s) rfl rfl ?_
  simp only [hwg]
  refine if_neg ?_
  rw [h.may, h.fits, h.first]
  simpa [or_iff_not_imp_left] using h.fewest

end Preempting

/-- Settles O48: pre-emption by its reason, a save by whether its set has drained, a restore where it fits, and the shed timeout. -/
theorem preemptionSteps : Obligations.PreemptionSteps := by
  unfold Obligations.PreemptionSteps
  refine ⟨fun s r w x y hregion hwg hmay hwaits hever hnow hcand hfirst => ?room,
    fun s w y => preempt_shed, fun s w x hwg hsaving hdrained => ?saved, fun s w x hwg hsaving hbusy => ?drains,
    fun s w cores x hwg hmay hfits hfirst hfewest => groupRestore_of hwg ⟨hmay, hfits, hfirst, hfewest⟩,
    fun s => steps_of (execShedPreemptTimeout s) rfl rfl rfl⟩
  case room => exact preempt_room hregion hwg (preemptFor_first hmay hwaits hever hnow hcand hfirst)
  case saved =>
    have hstep := preemptSave_of hwg hsaving
    rwa [if_pos hdrained] at hstep
  case drains =>
    have hstep := preemptSave_of hwg hsaving
    rwa [if_neg (Bool.eq_false_iff.mp hbusy)] at hstep

end Sys2Proof.Laws
end

section
/-! PROOFS. The power controller (R296, R298 to R307, R348): its periodic steps by whether they are due, telemetry frames by their CRC
and sequence number, and the classes that are shed and restored. -/
namespace Sys2Proof.Laws
open Sys2Proof.Machine Sys2Proof.Safety

/-! ## Periodic steps (R296, R298 to R302, R348) -/

section Periodic
variable {s : State}

theorem stallSample_due {cl core n : Nat} (hcore : core < 4) (htime : s.time = 10000 * n)
    (hnew : (s.island (5 * cl + core)).sampAt < s.time) : Steps (.stallSample cl core n) s (s.sample (5 * cl + core)) :=
  steps_of (execStallSample cl core n s) rfl rfl (if_pos (by rw [decide_eq_true hcore, beq_iff_eq.mpr htime, decide_eq_true hnew]; rfl))

/-- One moment gives one sample (R298). -/
theorem stallSample_again {cl core n : Nat} (hold : s.time ≤ (s.island (5 * cl + core)).sampAt) :
    Steps (.stallSample cl core n) s s :=
  steps_of (execStallSample cl core n s) rfl rfl (if_neg (by simp; omega))

/-- A change of level that is due ends at its level, and the next one starts (R296, R348). -/
theorem finish_if_due (i : Island) (n now : Nat) : (if i.due n now then i.finish now else i) =
    if i.chg = true ∧
        i.since + Config.relock n i.since + 25 * (i.vcode - Config.vcode i.going + (Config.vcode i.going - i.vcode)) ≤ now then
      Island.start now { i with chg := false, level := i.going, freq := Config.levelFreq i.going, vcode := Config.vcode i.going }
    else i := by
  unfold Island.due Island.endsAt Island.finish
  cases i.chg <;> simp

theorem boostRefill_due {power : Nat} (htime : s.time % 10000 = 0) (hnew : s.power.refilled < s.time) :
    Steps (.boostRefill power) s (s.refill power) :=
  steps_of (execBoostRefill power s) rfl rfl (if_pos (by simp [htime, hnew]))

theorem boostRefill_again {power : Nat} (hold : s.time ≤ s.power.refilled) : Steps (.boostRefill power) s s :=
  steps_of (execBoostRefill power s) rfl rfl (if_neg (by simp; omega))

theorem boostTokenCharge_due (htime : s.time % 1000 = 0) (hnew : s.power.charged < s.time) : Steps .boostTokenCharge s s.charge :=
  steps_of (execBoostTokenCharge s) rfl rfl (if_pos (by simp [htime, hnew]))

theorem boostTokenCharge_again (hold : s.time ≤ s.power.charged) : Steps .boostTokenCharge s s :=
  steps_of (execBoostTokenCharge s) rfl rfl (if_neg (by simp; omega))

/-- The decision of a window that has ended, and that no later one has preceded (R302). -/
theorem window_eq (now n : Nat) (k : Cluster) : Cluster.window now n k =
    if k.windows < n ∧ n ≤ now * 21 / 640 then
      { k with w := if k.credit < 0 then min 8 (k.w + 1) else if 4194304 ≤ k.credit then k.w - 1 else k.w, windows := n }
    else k := by
  unfold Cluster.window clusterWindows
  simp only [Bool.and_eq_true, decide_eq_true_eq]
  rfl

end Periodic

/-- Settles O49: each periodic step when it is due and when its moment has been taken. -/
theorem powerLevelSteps : Obligations.PowerLevelSteps := by
  unfold Obligations.PowerLevelSteps
  refine ⟨fun s cl core n hcore htime hnew => ?sample, fun s cl core n => stallSample_again, fun s isl => ?level,
    fun s power htime hnew => boostRefill_due htime hnew, fun s power => boostRefill_again,
    fun s htime hnew => boostTokenCharge_due htime hnew, fun s => boostTokenCharge_again, fun s cl n => ?window,
    fun s die t => ?temperature⟩
  case sample =>
    have hstep := stallSample_due hcore htime hnew
    unfold State.sample at hstep
    simp only [beq_iff_eq] at hstep
    exact hstep
  case level =>
    refine steps_of (execLevelChangeComplete isl s) rfl rfl ?_
    simp only [finish_if_due]
  case window =>
    refine steps_of (execWithholdLevelUpdate cl n s) rfl rfl (power_of s _ _ ?_)
    simp only [show Cluster.window s.time n = _ from funext (window_eq s.time n)]
  case temperature => exact steps_of (execJunctionTemperatureChange die t s) rfl rfl rfl

/-! ## Telemetry (R303 to R305) -/

section Telemetry
variable {s : State} {v t : Nat}

theorem telemetryFrame_wrong (hcrc : frameCrc v = false) :
    Steps (.telemetryFrame v) s (withPower (fun p => { p with crcerr := min 65535 (p.crcerr + 1) }) s) :=
  steps_of (execTelemetryFrame v s) rfl rfl (power_of s _ _ (if_pos (by rw [hcrc]; rfl)))

/-- A frame with the sequence number of the last one changes nothing. -/
theorem telemetryFrame_repeated (hcrc : frameCrc v = true) (hlast : s.power.frameAt = some t)
    (hseq : bitsOf v 23 16 = bitsOf s.power.telem 23 16) : Steps (.telemetryFrame v) s s := by
  refine steps_of (execTelemetryFrame v s) rfl rfl (power_id s _ ?_)
  simp only [hcrc, hlast, hseq, Bool.not_true, Bool.false_eq_true, if_false, Option.isSome_some, beq_self_eq_true, Bool.and_self, if_true]

theorem telemetryFrame_applied (hcrc : frameCrc v = true)
    (hnew : s.power.frameAt = none ∨ bitsOf v 23 16 ≠ bitsOf s.power.telem 23 16) :
    Steps (.telemetryFrame v) s (withPower (fun p => p.frame v s.time) s) := by
  refine steps_of (execTelemetryFrame v s) rfl rfl (power_of s _ _ ?_)
  have hfresh : (s.power.frameAt.isSome && bitsOf v 23 16 == bitsOf s.power.telem 23 16) = false := by
    rcases hnew with hnone | hseq
    · rw [hnone]; rfl
    · rw [beq_false_of_ne hseq, Bool.and_false]
  simp only [hcrc, hfresh, Bool.not_true, Bool.false_eq_true, if_false]

/-- 100 us without a frame are a loss (R305). -/
theorem telemetryLoss_lost (hlast : s.power.frameAt = some t) (hfirst : s.power.tloss = false) (hlong : t + 100000 ≤ s.time) :
    Steps .telemetryLoss s (withPower (fun p => ({ p with tloss := true, frac := p.tlfrac } : Power).rates) s) := by
  refine steps_of (execTelemetryLoss s) rfl rfl (power_of s _ _ ?_)
  simp only [hlast]
  exact if_pos (by simp [hfirst, hlong])

theorem telemetryLoss_kept (hlast : s.power.frameAt = some t) (hrecent : s.time < t + 100000) : Steps .telemetryLoss s s := by
  refine steps_of (execTelemetryLoss s) rfl rfl (power_id s _ ?_)
  simp only [hlast]
  exact if_neg (by simp; omega)

end Telemetry

/-! ## Shedding and restoring classes (R306, R307) -/

section Shedding
variable {s : State}

theorem shedClass_next (htelem : s.power.tloss = false) (hfewer : s.power.shedlvl < s.power.shedreq) :
    Steps .shedClass s s.shedNext :=
  steps_of (execShedClass s) rfl rfl (if_pos (by simp [htelem, hfewer]))

theorem shedClass_enough (h : s.power.tloss = true ∨ s.power.shedreq ≤ s.power.shedlvl) : Steps .shedClass s s := by
  refine steps_of (execShedClass s) rfl rfl (if_neg ?_)
  rcases h with hlost | henough
  · simp [hlost]
  · simp [henough]

theorem classRestore_highest (htelem : s.power.tloss = false) (hsome : 0 < s.power.shedlvl)
    (hmore : s.power.shedreq < s.power.shedlvl) (hheld : s.power.holdFrom + 1000 * s.power.resthold ≤ s.time) :
    Steps .classRestore s s.restoreClass :=
  steps_of (execClassRestore s) rfl rfl (if_pos (by simp [htelem, hsome, hmore, hheld]))

theorem classRestore_holds (h : s.power.tloss = true ∨ s.power.shedlvl ≤ s.power.shedreq ∨
    s.time < s.power.holdFrom + 1000 * s.power.resthold) : Steps .classRestore s s := by
  refine steps_of (execClassRestore s) rfl rfl (if_neg ?_)
  simp only [Bool.and_eq_true, Bool.not_eq_true', decide_eq_true_eq]
  rintro ⟨⟨⟨htelem, -⟩, hmore⟩, hheld⟩
  rcases h with hlost | henough | hearly
  · exact Bool.false_ne_true (htelem.symm.trans hlost)
  · omega
  · omega

end Shedding

/-- Settles O50: frames by CRC and sequence number, their loss by the time since the last one, and classes by how many are to be shed. -/
theorem telemetryAndShedding : Obligations.TelemetryAndShedding := by
  unfold Obligations.TelemetryAndShedding
  exact ⟨fun s v => telemetryFrame_wrong, fun s v t => telemetryFrame_repeated, fun s v => telemetryFrame_applied,
    fun s t => telemetryLoss_lost, fun s t => telemetryLoss_kept, fun s htelem hfewer => shedClass_next htelem hfewer,
    fun s => shedClass_enough, fun s => classRestore_highest, fun s => classRestore_holds⟩

end Sys2Proof.Laws
end

section
/-! PROOFS. The debugger's steps, samples and their dump (R284, R310 to R316). -/
namespace Sys2Proof.Laws
open Sys2Proof.Machine Sys2Proof.Safety

section Debug
variable {s : State} {c core slot : Nat}

/-- A halt of a context concerns each group of it that its debugger may see (R311). -/
theorem markHalt_all (s : State) (c : Nat) :
    s.markHalt c none = (s.modCtx c fun x => { x with halt := true }).mapGroups (haltsInPlace s c) := by
  unfold State.markHalt haltsInPlace State.haltGroup
  simp only [Option.isNone_none, Bool.true_or, Bool.and_true]

theorem dbgSave_quiet (hquiet : s.quiet c = true) : Steps (.dbgSave c) s (s.saveCtx c) :=
  steps_of (execDbgSave c s) rfl rfl (if_pos hquiet)

theorem dbgSave_deferred (hbusy : s.quiet c = false) :
    Steps (.dbgSave c) s (s.modCtx c fun x => { x with saveReq := true, saved := false }) :=
  steps_of (execDbgSave c s) rfl rfl (if_neg (Bool.eq_false_iff.mp hbusy))

theorem sampleTick_idle (h : s.obs.sampEn = false ∨ s.sampleDue core slot = false) : Steps (.sampleTick core slot) s s := by
  refine steps_of (execSampleTick core slot s) rfl rfl (if_neg ?_)
  rcases h with hoff | hearly
  · simp [hoff]
  · simp [hearly]

theorem sampleTick_due (hon : s.obs.sampEn = true) (hdue : s.sampleDue core slot = true) : Steps (.sampleTick core slot) s
    ((s.takeSample core slot).setSlot { (s.takeSample core slot).slotAt core slot with sampled := (s.island (coreIsland core)).mcyc }) :=
  steps_of (execSampleTick core slot s) rfl rfl (if_pos (by rw [hon, hdue]; rfl))

end Debug

/-- Settles O51: HALT, RESUME and SAVE, a sample by whether it is due, and the dump of the bins. -/
theorem debugSteps : Obligations.DebugSteps := by
  unfold Obligations.DebugSteps
  exact ⟨fun s c => steps_of (execDbgHalt c s) rfl rfl (markHalt_all s c), fun s c => steps_of (execDbgResume c s) rfl rfl rfl,
    fun s c => dbgSave_quiet, fun s c => dbgSave_deferred, fun s => steps_of (execDebugSaveDeferred s) rfl rfl rfl,
    fun s core slot => sampleTick_idle, fun s core slot => sampleTick_due, fun s => steps_of (execSampleDump s) rfl rfl rfl⟩

end Sys2Proof.Laws
end

section
/-! PROOFS. Words of the encoding tables (Tables 07-1, 07-4, 07-7). -/
namespace Sys2Proof.Laws
open Sys2Proof.Machine Sys2Proof.Safety

/-- Settles O57: the decoder runs on each word. -/
theorem decodeWords : Obligations.DecodeWords := by
  unfold Obligations.DecodeWords
  exact ⟨rfl, rfl, rfl, rfl, rfl, rfl, rfl, rfl, rfl⟩

end Sys2Proof.Laws
end
